-- ==== Sys2Proof/Word.lean ====
section
/-! DEFINITION. The machine words of the FA-1648: the byte and the two-byte field of its frames (4.8, R146), and the identifiers of 4.2. -/

namespace Sys2Proof

/-- One character of a link: 8 data bits (R140). -/
abbrev Byte := BitVec 8

/-- A two-byte field of a frame: a chainage, a current, a voltage, an address (R146). -/
abbrev Word := BitVec 16

/-- A context slot, slot 0 to slot 47 (R21). -/
abbrev Slot := Fin 48

/-- A feeder, F0 to F15 (4.2). -/
abbrev FeederId := Fin 16

/-- A section, S0 to S63 (4.2). -/
abbrev SectionId := Fin 64

/-- A gap, G0 to G31 of its bank (4.2). -/
abbrev GapId := Fin 32

end Sys2Proof
end

