-- ==== Sys2Proof/Config.lean ====
section
/-! DEFINITION. What an implementation of the FA-1648 fixes and the manual leaves open: one free value. -/

namespace Sys2Proof

/-- The byte sent where a reply has a field for a meter sample that does not exist and the manual
gives the field no value (R157, R162). It has no body: nothing can be proved of its value. The
argument is a fresh number drawn from `State.fresh` (log 6). -/
opaque Config.freeByte : Nat → Byte

end Sys2Proof
end

