-- ==== Sys2Proof/Syntax.lean ====
section
/-! DEFINITION. The commands of the FA-1648: one constructor of `Instr` per row of spec/opcode_table.json, and the data they carry. -/

namespace Sys2Proof

/-- The three serial links (R140). -/
inductive Link where
  | w
  | c
  | m
deriving DecidableEq, Repr

/-- The heading of a position report (R146). -/
inductive Heading where
  | stopped
  | up
  | down
deriving DecidableEq, Repr

/-- The pantograph state of a position report (R146). -/
inductive Pantograph where
  | lowered
  | raising
  | raised
  | lowering
deriving DecidableEq, Repr

/-- The breaker state of a sample (R126, R146). -/
inductive Breaker where
  | closed
  | opened
  | tripped
deriving DecidableEq, Repr

/-- A frame of any link without its marker and check (R141): the payload length is the length of the payload. -/
structure Frame where
  kind : Byte
  dest : Byte
  src : Byte
  tag : Byte
  payload : List Byte
deriving DecidableEq, Repr

/-- The station that sent a request and the sequence its reply echoes (R154). -/
structure Caller where
  src : Byte
  seq : Byte
deriving DecidableEq, Repr

/-- The 13 bytes of a SECTION entry as a TABLE_WRITE carries them (R2, R157). -/
structure SectionWire where
  valid : Byte
  low : Word
  high : Word
  feeder : Byte
  limit : Word
  wake : Word
  idle : Byte
  standby : Byte
  fast : Byte
deriving DecidableEq, Repr

/-- The 11 bytes of a GAP entry as a TABLE_WRITE carries them (R3, R157). -/
structure GapWire where
  valid : Byte
  low : Word
  high : Word
  lower : Byte
  upper : Byte
  approach : Word
  bridgeable : Byte
  crossing : Byte
deriving DecidableEq, Repr

/-- The 9 bytes of a FEEDER entry as a TABLE_WRITE carries them (R65, R157). -/
structure FeederWire where
  capacity : Word
  reserve : Word
  share : Byte
  overload : Byte
  meterLost : Byte
  fastVolts : Word
deriving DecidableEq, Repr

/-- The 8 bytes of a CLASS entry as a TABLE_WRITE carries them (R30, R157). -/
structure ClassWire where
  valid : Byte
  matchBits : Byte
  mask : Byte
  base : Byte
  cap : Word
  maxHold : Byte
  through : Byte
deriving DecidableEq, Repr

/-- The 11 bytes of a RING entry as a TABLE_WRITE carries them (R130, R157). -/
structure RingWire where
  enabled : Byte
  start : Word
  length : Word
  distance : Byte
  threshold : Word
  postTrip : Byte
  freeze : Byte
  wrap : Byte
deriving DecidableEq, Repr

/-- The steps of the part, one constructor per row of spec/opcode_table.json, in the table's order.
A request constructor is the step in which MA takes that request (R154). -/
inductive Instr where
  | hardReset (straps : BitVec 3)
  | rampStopLineAssert
  | rampStopLineRelease
  | psn (truck tag : Byte) (chainage : Word) (heading : Heading) (pantograph : Pantograph) (loaded : Bool) (drawn : Word)
  | drq (truck tag : Byte) (requested minimum : Word) (hold : Byte)
  | acc (truck tag : Byte)
  | rel (truck tag : Byte)
  | dat (truck tag : Byte) (payload : List Byte)
  | sst (sect : Byte) (contactor voltage fault : Bool)
  | smp (feeder seq : Byte) (current voltage : Word) (breaker : Breaker)
  | checkError (link : Link) (bytes : List Byte)
  | runt (link : Link)
  | foreignFrame (link : Link) (frame : Frame)
  | requestFrame (frame : Frame)
  | unknownRequestKind (caller : Caller) (kind : Byte) (payload : List Byte)
  | tableWriteSection (caller : Caller) (bank index : Byte) (entry : SectionWire)
  | tableWriteGap (caller : Caller) (bank index : Byte) (entry : GapWire)
  | tableWriteFeeder (caller : Caller) (bank index : Byte) (entry : FeederWire)
  | tableWriteClass (caller : Caller) (bank index : Byte) (entry : ClassWire)
  | tableWriteRing (caller : Caller) (bank index : Byte) (entry : RingWire)
  | tableWriteGlobal (caller : Caller) (bank index : Byte) (value : Word)
  | tableReadSection (caller : Caller) (bank index : Byte)
  | tableReadGap (caller : Caller) (bank index : Byte)
  | tableReadFeeder (caller : Caller) (bank index : Byte)
  | tableReadClass (caller : Caller) (bank index : Byte)
  | tableReadRing (caller : Caller) (bank index : Byte)
  | tableReadGlobal (caller : Caller) (bank index : Byte)
  | bankSwap (caller : Caller) (force : Byte)
  | bankSwapForced (caller : Caller)
  | swapCancel (caller : Caller)
  | sectionCmdIsolate (caller : Caller) (sect : Byte)
  | sectionCmdEnable (caller : Caller) (sect : Byte)
  | sectionCmdWake (caller : Caller) (sect : Byte)
  | sectionCmdRestIdle (caller : Caller) (sect : Byte)
  | sectionCmdRestStandby (caller : Caller) (sect : Byte)
  | feederCmdResume (caller : Caller) (feeder : Byte)
  | feederCmdOffline (caller : Caller) (feeder : Byte)
  | truckOrderLower (caller : Caller) (truck : Byte)
  | truckOrderHold (caller : Caller) (truck : Byte)
  | truckOrderUnhold (caller : Caller) (truck : Byte)
  | truckOrderClearFault (caller : Caller) (truck : Byte)
  | truckOrderEvict (caller : Caller) (truck : Byte)
  | passData (caller : Caller) (truck : Byte) (data : List Byte)
  | historyRead (caller : Caller) (feeder : Byte) (offset : Word) (count : Byte)
  | historyRelease (caller : Caller) (feeder : Byte)
  | statusRead (caller : Caller)
  | counterRead (caller : Caller)
  | contextRead (caller : Caller) (selector value : Byte)
  | queueRead (caller : Caller) (feeder skip : Byte)
  | rampStop (caller : Caller)
  | rampResume (caller : Caller)
  | restart (caller : Caller)
  | broadcastWithdrawal
  | wdrTransmit
  | scmTransmit
  | normalQueueTransmit
  | cLinkTransmit
  | wLinkRateChange
  | cLinkRateChange
  | silenceExpiry (slot : Slot)
  | grantExpiry (slot : Slot)
  | offerWindowExpiry (slot : Slot)
  | offerRepeatExpiry (slot : Slot)
  | dropDeadlineExpiry (slot : Slot)
  | crossingTimerExpiry (slot : Slot)
  | carriedHoldExpiry (slot : Slot)
  | swapTimerExpiry
  | overloadTimerExpiry (feeder : FeederId)
  | meterSilenceExpiry (feeder : FeederId)
  | meterLostTimerExpiry (feeder : FeederId)
  | idleTimerExpiry (sect : SectionId)
  | standbyTimerExpiry (sect : SectionId)
  | raiseLimitExpiry (sect : SectionId)
  | postTripCountEnd (feeder : FeederId)
  | resetPinAssertion
  | marker (link : Link)
deriving DecidableEq, Repr

end Sys2Proof
end

