-- ==== Sys2Proof/Decode.lean ====
section
/-! DEFINITION. The wire forms: the byte order and frame check of every link (R141, R146), and the layout of management requests, read and written (9.2.2, R157). No row of the opcode table gives bits, so `decodeTableWord` answers none. -/

namespace Sys2Proof

/-- No row of spec/opcode_table.json gives bits: no word spells a command. -/
def decodeTableWord (_nbits _w : Nat) : Option Instr := none

/-! ### Byte order (R146: most significant byte first) -/

/-- The most significant byte of a two-byte field. -/
def hiByte (w : Word) : Byte := w.extractLsb' 8 8

/-- The least significant byte of a two-byte field. -/
def loByte (w : Word) : Byte := w.extractLsb' 0 8

/-- The two-byte field sent as `a` then `b`. -/
def wordOf (a b : Byte) : Word := a ++ b

/-- A two-byte field as it is sent. -/
def be16 (w : Word) : List Byte := [hiByte w, loByte w]

/-- A number as a two-byte field. -/
def nat16 (n : Nat) : List Byte := be16 (BitVec.ofNat 16 n)

/-- A number as a four-byte field, most significant byte first (R157). -/
def nat32 (n : Nat) : List Byte := nat16 (n / 65536) ++ nat16 n

/-- A number as a one-byte field. -/
def byte (n : Nat) : Byte := BitVec.ofNat 8 n

/-- A flag as a one-byte field: 0 for no and 1 for yes (R157). -/
def flagByte (b : Bool) : Byte := if b then 1 else 0

/-! ### The frame check (R141) -/

/-- The marker byte (R141). -/
def markerByte : Byte := 0x7E

/-- The generator polynomial of R141 without its leading term. -/
def crcPoly : BitVec 32 := 0x04C11DB7

/-- One bit fed to the check register. -/
def crcBit (r : BitVec 32) (b : Bool) : BitVec 32 :=
  if r.msb != b then (r <<< 1) ^^^ crcPoly else r <<< 1

/-- One byte fed least significant bit first. -/
def crcByte (r : BitVec 32) (b : Byte) : BitVec 32 :=
  [b.getLsbD 0, b.getLsbD 1, b.getLsbD 2, b.getLsbD 3, b.getLsbD 4, b.getLsbD 5, b.getLsbD 6, b.getLsbD 7].foldl crcBit r

/-- The check of a run of bytes: preset to ones, the final register bit-reversed and complemented. -/
def crc32 (bytes : List Byte) : BitVec 32 :=
  ~~~ (bytes.foldl crcByte (BitVec.allOnes 32)).reverse

/-- The four check bytes, most significant byte first. -/
def checkBytes (body : List Byte) : List Byte :=
  let c := crc32 body
  [c.extractLsb' 24 8, c.extractLsb' 16 8, c.extractLsb' 8 8, c.extractLsb' 0 8]

/-- The five header bytes and the payload of a frame: what the check covers (R141). -/
def Frame.body (f : Frame) : List Byte :=
  [f.kind, f.dest, f.src, f.tag, byte f.payload.length] ++ f.payload

/-- A frame as it stands on the line: marker, header, payload, check (R141, R146). -/
def Frame.bytes (f : Frame) : List Byte :=
  markerByte :: (f.body ++ checkBytes f.body)

/-- The frame spelled by the bytes that followed a marker, its check aside. -/
def frameOfBody : List Byte → Option Frame
  | kind :: dest :: src :: tag :: len :: payload =>
    if payload.length = len.toNat then some ⟨kind, dest, src, tag, payload⟩ else none
  | _ => none

/-! ### Entries of TABLE_WRITE (R157) -/

/-- The 13 bytes of a SECTION entry (R157). -/
def SectionWire.bytes (e : SectionWire) : List Byte :=
  [e.valid] ++ be16 e.low ++ be16 e.high ++ [e.feeder] ++ be16 e.limit ++ be16 e.wake ++ [e.idle, e.standby, e.fast]

/-- The 11 bytes of a GAP entry (R157). -/
def GapWire.bytes (e : GapWire) : List Byte :=
  [e.valid] ++ be16 e.low ++ be16 e.high ++ [e.lower, e.upper] ++ be16 e.approach ++ [e.bridgeable, e.crossing]

/-- The 9 bytes of a FEEDER entry (R157). -/
def FeederWire.bytes (e : FeederWire) : List Byte :=
  be16 e.capacity ++ be16 e.reserve ++ [e.share, e.overload, e.meterLost] ++ be16 e.fastVolts

/-- The 8 bytes of a CLASS entry (R157). -/
def ClassWire.bytes (e : ClassWire) : List Byte :=
  [e.valid, e.matchBits, e.mask, e.base] ++ be16 e.cap ++ [e.maxHold, e.through]

/-- The 11 bytes of a RING entry (R157). -/
def RingWire.bytes (e : RingWire) : List Byte :=
  [e.enabled] ++ be16 e.start ++ be16 e.length ++ [e.distance] ++ be16 e.threshold ++ [e.postTrip, e.freeze, e.wrap]

/-- The SECTION entry of 13 bytes (R157). -/
def sectionWireOf : List Byte → Option SectionWire
  | [valid, l1, l0, h1, h0, feeder, m1, m0, w1, w0, idle, standby, fast] =>
    some ⟨valid, wordOf l1 l0, wordOf h1 h0, feeder, wordOf m1 m0, wordOf w1 w0, idle, standby, fast⟩
  | _ => none

/-- The GAP entry of 11 bytes (R157). -/
def gapWireOf : List Byte → Option GapWire
  | [valid, l1, l0, h1, h0, lower, upper, a1, a0, bridgeable, crossing] =>
    some ⟨valid, wordOf l1 l0, wordOf h1 h0, lower, upper, wordOf a1 a0, bridgeable, crossing⟩
  | _ => none

/-- The FEEDER entry of 9 bytes (R157). -/
def feederWireOf : List Byte → Option FeederWire
  | [c1, c0, r1, r0, share, overload, meterLost, v1, v0] =>
    some ⟨wordOf c1 c0, wordOf r1 r0, share, overload, meterLost, wordOf v1 v0⟩
  | _ => none

/-- The CLASS entry of 8 bytes (R157). -/
def classWireOf : List Byte → Option ClassWire
  | [valid, matchBits, mask, base, c1, c0, maxHold, through] =>
    some ⟨valid, matchBits, mask, base, wordOf c1 c0, maxHold, through⟩
  | _ => none

/-- The RING entry of 11 bytes (R157). -/
def ringWireOf : List Byte → Option RingWire
  | [enabled, s1, s0, l1, l0, distance, t1, t0, postTrip, freeze, wrap] =>
    some ⟨enabled, wordOf s1 s0, wordOf l1 l0, distance, wordOf t1 t0, postTrip, freeze, wrap⟩
  | _ => none

/-! ### Requests (9.2.2) -/

/-- The request a TABLE_WRITE payload spells, from its table code, bank, index and entry bytes; none where
the length is not 3 plus the entry length of the table (R156 check 2). -/
def tableWriteOf (caller : Caller) (table bank index : Byte) (entry : List Byte) : Option Instr :=
  match table.toNat with
  | 1 => (sectionWireOf entry).map (.tableWriteSection caller bank index ·)
  | 2 => (gapWireOf entry).map (.tableWriteGap caller bank index ·)
  | 3 => (feederWireOf entry).map (.tableWriteFeeder caller bank index ·)
  | 4 => (classWireOf entry).map (.tableWriteClass caller bank index ·)
  | 5 => (ringWireOf entry).map (.tableWriteRing caller bank index ·)
  | 6 =>
    match entry with
    | [v1, v0] => some (.tableWriteGlobal caller bank index (wordOf v1 v0))
    | _ => none
  | _ => none

/-- The request a TABLE_READ payload spells. -/
def tableReadOf (caller : Caller) (table bank index : Byte) : Option Instr :=
  match table.toNat with
  | 1 => some (.tableReadSection caller bank index)
  | 2 => some (.tableReadGap caller bank index)
  | 3 => some (.tableReadFeeder caller bank index)
  | 4 => some (.tableReadClass caller bank index)
  | 5 => some (.tableReadRing caller bank index)
  | 6 => some (.tableReadGlobal caller bank index)
  | _ => none

/-- The request a SECTION_CMD payload spells. -/
def sectionCmdOf (caller : Caller) (sect command : Byte) : Option Instr :=
  match command.toNat with
  | 0 => some (.sectionCmdIsolate caller sect)
  | 1 => some (.sectionCmdEnable caller sect)
  | 2 => some (.sectionCmdWake caller sect)
  | 3 => some (.sectionCmdRestIdle caller sect)
  | 4 => some (.sectionCmdRestStandby caller sect)
  | _ => none

/-- The request a FEEDER_CMD payload spells. -/
def feederCmdOf (caller : Caller) (feeder command : Byte) : Option Instr :=
  match command.toNat with
  | 0 => some (.feederCmdResume caller feeder)
  | 1 => some (.feederCmdOffline caller feeder)
  | _ => none

/-- The request a TRUCK_ORDER payload spells. -/
def truckOrderOf (caller : Caller) (truck order : Byte) : Option Instr :=
  match order.toNat with
  | 0 => some (.truckOrderLower caller truck)
  | 1 => some (.truckOrderHold caller truck)
  | 2 => some (.truckOrderUnhold caller truck)
  | 3 => some (.truckOrderClearFault caller truck)
  | 4 => some (.truckOrderEvict caller truck)
  | _ => none

/-- The request of the catalogue that a kind code and payload spell; none where R156 check 1 or 2 fails or a
command code is outside its range. -/
def catalogueOf (caller : Caller) (kind : Byte) (payload : List Byte) : Option Instr :=
  match kind.toNat, payload with
  | 0x50, table :: bank :: index :: entry => tableWriteOf caller table bank index entry
  | 0x51, [table, bank, index] => tableReadOf caller table bank index
  | 0x52, [force] => some (if force = 1 then .bankSwapForced caller else .bankSwap caller force)
  | 0x53, [] => some (.swapCancel caller)
  | 0x54, [sect, command] => sectionCmdOf caller sect command
  | 0x55, [feeder, command] => feederCmdOf caller feeder command
  | 0x56, [truck, order] => truckOrderOf caller truck order
  | 0x57, truck :: data => if data.length ≤ 239 then some (.passData caller truck data) else none
  | 0x58, [feeder, o1, o0, count] => some (.historyRead caller feeder (wordOf o1 o0) count)
  | 0x59, [feeder] => some (.historyRelease caller feeder)
  | 0x5A, [] => some (.statusRead caller)
  | 0x5B, [] => some (.counterRead caller)
  | 0x5C, [selector, value] => some (.contextRead caller selector value)
  | 0x5D, [feeder, skip] => some (.queueRead caller feeder skip)
  | 0x5E, [] => some (.rampStop caller)
  | 0x5F, [] => some (.rampResume caller)
  | 0x60, [] => some (.restart caller)
  | _, _ => none

/-- The command by which MA takes a request frame: its row, or the row of malformed requests (log 16). -/
def requestOfFrame (f : Frame) : Instr :=
  (catalogueOf ⟨f.src, f.tag⟩ f.kind f.payload).getD (.unknownRequestKind ⟨f.src, f.tag⟩ f.kind f.payload)

/-- A request frame to the part at address `addr`. -/
def requestFrameTo (addr : Byte) (c : Caller) (kind : Nat) (payload : List Byte) : Option Frame :=
  some ⟨byte kind, addr, c.src, c.seq, payload⟩

/-- The frame of a request command, with the part's address as destination; none for a command that is no request. -/
def frameOfRequest (addr : Byte) : Instr → Option Frame
  | .unknownRequestKind c kind payload => some ⟨kind, addr, c.src, c.seq, payload⟩
  | .tableWriteSection c bank index e => requestFrameTo addr c 0x50 ([1, bank, index] ++ e.bytes)
  | .tableWriteGap c bank index e => requestFrameTo addr c 0x50 ([2, bank, index] ++ e.bytes)
  | .tableWriteFeeder c bank index e => requestFrameTo addr c 0x50 ([3, bank, index] ++ e.bytes)
  | .tableWriteClass c bank index e => requestFrameTo addr c 0x50 ([4, bank, index] ++ e.bytes)
  | .tableWriteRing c bank index e => requestFrameTo addr c 0x50 ([5, bank, index] ++ e.bytes)
  | .tableWriteGlobal c bank index v => requestFrameTo addr c 0x50 ([6, bank, index] ++ be16 v)
  | .tableReadSection c bank index => requestFrameTo addr c 0x51 [1, bank, index]
  | .tableReadGap c bank index => requestFrameTo addr c 0x51 [2, bank, index]
  | .tableReadFeeder c bank index => requestFrameTo addr c 0x51 [3, bank, index]
  | .tableReadClass c bank index => requestFrameTo addr c 0x51 [4, bank, index]
  | .tableReadRing c bank index => requestFrameTo addr c 0x51 [5, bank, index]
  | .tableReadGlobal c bank index => requestFrameTo addr c 0x51 [6, bank, index]
  | .bankSwap c force => requestFrameTo addr c 0x52 [force]
  | .bankSwapForced c => requestFrameTo addr c 0x52 [1]
  | .swapCancel c => requestFrameTo addr c 0x53 []
  | .sectionCmdIsolate c sect => requestFrameTo addr c 0x54 [sect, 0]
  | .sectionCmdEnable c sect => requestFrameTo addr c 0x54 [sect, 1]
  | .sectionCmdWake c sect => requestFrameTo addr c 0x54 [sect, 2]
  | .sectionCmdRestIdle c sect => requestFrameTo addr c 0x54 [sect, 3]
  | .sectionCmdRestStandby c sect => requestFrameTo addr c 0x54 [sect, 4]
  | .feederCmdResume c feeder => requestFrameTo addr c 0x55 [feeder, 0]
  | .feederCmdOffline c feeder => requestFrameTo addr c 0x55 [feeder, 1]
  | .truckOrderLower c truck => requestFrameTo addr c 0x56 [truck, 0]
  | .truckOrderHold c truck => requestFrameTo addr c 0x56 [truck, 1]
  | .truckOrderUnhold c truck => requestFrameTo addr c 0x56 [truck, 2]
  | .truckOrderClearFault c truck => requestFrameTo addr c 0x56 [truck, 3]
  | .truckOrderEvict c truck => requestFrameTo addr c 0x56 [truck, 4]
  | .passData c truck data => requestFrameTo addr c 0x57 (truck :: data)
  | .historyRead c feeder offset count => requestFrameTo addr c 0x58 ([feeder] ++ be16 offset ++ [count])
  | .historyRelease c feeder => requestFrameTo addr c 0x59 [feeder]
  | .statusRead c => requestFrameTo addr c 0x5A []
  | .counterRead c => requestFrameTo addr c 0x5B []
  | .contextRead c selector value => requestFrameTo addr c 0x5C [selector, value]
  | .queueRead c feeder skip => requestFrameTo addr c 0x5D [feeder, skip]
  | .rampStop c => requestFrameTo addr c 0x5E []
  | .rampResume c => requestFrameTo addr c 0x5F []
  | .restart c => requestFrameTo addr c 0x60 []
  | .hardReset _ => none
  | .rampStopLineAssert => none
  | .rampStopLineRelease => none
  | .psn _ _ _ _ _ _ _ => none
  | .drq _ _ _ _ _ => none
  | .acc _ _ => none
  | .rel _ _ => none
  | .dat _ _ _ => none
  | .sst _ _ _ _ => none
  | .smp _ _ _ _ _ => none
  | .checkError _ _ => none
  | .runt _ => none
  | .foreignFrame _ _ => none
  | .requestFrame _ => none
  | .broadcastWithdrawal => none
  | .wdrTransmit => none
  | .scmTransmit => none
  | .normalQueueTransmit => none
  | .cLinkTransmit => none
  | .wLinkRateChange => none
  | .cLinkRateChange => none
  | .silenceExpiry _ => none
  | .grantExpiry _ => none
  | .offerWindowExpiry _ => none
  | .offerRepeatExpiry _ => none
  | .dropDeadlineExpiry _ => none
  | .crossingTimerExpiry _ => none
  | .carriedHoldExpiry _ => none
  | .swapTimerExpiry => none
  | .overloadTimerExpiry _ => none
  | .meterSilenceExpiry _ => none
  | .meterLostTimerExpiry _ => none
  | .idleTimerExpiry _ => none
  | .standbyTimerExpiry _ => none
  | .raiseLimitExpiry _ => none
  | .postTripCountEnd _ => none
  | .resetPinAssertion => none
  | .marker _ => none

end Sys2Proof
end

