-- ==== Sys2Proof/WellFormed.lean ====
section
/-! DEFINITION. Which operands a command may carry: the ranges that the frame formats of 8.4 and 9.2 give. A command outside them is no step of the part; its meaning is still total. -/

namespace Sys2Proof

/-- A W-link source that is a truck: 1 to 127 (4.3, R143). -/
def isTruckAddress (a : Byte) : Bool := decide (1 ≤ a.toNat ∧ a.toNat ≤ 127)

/-- A payload fits a frame: at most 240 bytes (R141). -/
def fitsPayload (p : List Byte) : Bool := decide (p.length ≤ 240)

/-- The operands of a command lie in the ranges of R141, R143, R145 and R158, a BANK_SWAP with the
force flag set is named by its own row, and a malformed request is one that no other row names (log 16). -/
def Instr.wellFormed : Instr → Bool
  | .hardReset _ => true
  | .rampStopLineAssert => true
  | .rampStopLineRelease => true
  | .psn truck _ _ _ _ _ _ => isTruckAddress truck
  | .drq truck _ _ _ _ => isTruckAddress truck
  | .acc truck _ => isTruckAddress truck
  | .rel truck _ => isTruckAddress truck
  | .dat truck _ payload => isTruckAddress truck && fitsPayload payload
  | .sst sect _ _ _ => decide (sect.toNat ≤ 63)
  | .smp feeder _ _ _ _ => decide (feeder.toNat ≤ 15)
  | .checkError _ bytes => !bytes.isEmpty
  | .runt _ => true
  | .foreignFrame _ frame => fitsPayload frame.payload
  | .requestFrame frame => fitsPayload frame.payload
  | .unknownRequestKind c kind payload => fitsPayload payload && (catalogueOf c kind payload).isNone
  | .tableWriteSection _ _ _ _ => true
  | .tableWriteGap _ _ _ _ => true
  | .tableWriteFeeder _ _ _ _ => true
  | .tableWriteClass _ _ _ _ => true
  | .tableWriteRing _ _ _ _ => true
  | .tableWriteGlobal _ _ _ _ => true
  | .tableReadSection _ _ _ => true
  | .tableReadGap _ _ _ => true
  | .tableReadFeeder _ _ _ => true
  | .tableReadClass _ _ _ => true
  | .tableReadRing _ _ _ => true
  | .tableReadGlobal _ _ _ => true
  | .bankSwap _ force => decide (force ≠ 1)
  | .bankSwapForced _ => true
  | .swapCancel _ => true
  | .sectionCmdIsolate _ _ => true
  | .sectionCmdEnable _ _ => true
  | .sectionCmdWake _ _ => true
  | .sectionCmdRestIdle _ _ => true
  | .sectionCmdRestStandby _ _ => true
  | .feederCmdResume _ _ => true
  | .feederCmdOffline _ _ => true
  | .truckOrderLower _ _ => true
  | .truckOrderHold _ _ => true
  | .truckOrderUnhold _ _ => true
  | .truckOrderClearFault _ _ => true
  | .truckOrderEvict _ _ => true
  | .passData _ _ data => decide (data.length ≤ 239)
  | .historyRead _ _ _ _ => true
  | .historyRelease _ _ => true
  | .statusRead _ => true
  | .counterRead _ => true
  | .contextRead _ _ _ => true
  | .queueRead _ _ _ => true
  | .rampStop _ => true
  | .rampResume _ => true
  | .restart _ => true
  | .broadcastWithdrawal => true
  | .wdrTransmit => true
  | .scmTransmit => true
  | .normalQueueTransmit => true
  | .cLinkTransmit => true
  | .wLinkRateChange => true
  | .cLinkRateChange => true
  | .silenceExpiry _ => true
  | .grantExpiry _ => true
  | .offerWindowExpiry _ => true
  | .offerRepeatExpiry _ => true
  | .dropDeadlineExpiry _ => true
  | .crossingTimerExpiry _ => true
  | .carriedHoldExpiry _ => true
  | .swapTimerExpiry => true
  | .overloadTimerExpiry _ => true
  | .meterSilenceExpiry _ => true
  | .meterLostTimerExpiry _ => true
  | .idleTimerExpiry _ => true
  | .standbyTimerExpiry _ => true
  | .raiseLimitExpiry _ => true
  | .postTripCountEnd _ => true
  | .resetPinAssertion => true
  | .marker _ => true

end Sys2Proof
end

