-- ==== Sys2Proof/Machine/State.lean ====
section
/-! DEFINITION. The state of the FA-1648 as plain data: every register, table, list, queue, timer and pin the manual gives it, and the machine right after a hard reset. -/

namespace Sys2Proof.Machine
open Sys2Proof

/-- A timer: none while stopped, otherwise the milliseconds left (log 1). -/
abbrev Timer := Option Nat

/-! ### Position resolver (Chapter 1) -/

/-- The two map banks (R1). -/
inductive BankId where
  | a
  | b
deriving DecidableEq, Repr

/-- The swap states (1.5.1). -/
inductive SwapState where
  | none
  | pending
  | pendingForced
deriving DecidableEq, Repr

/-- A section entry of one bank (R2). -/
structure SectionEntry where
  valid : Bool
  low : Nat
  high : Nat
  feeder : FeederId
  limit : Nat
  wake : Nat
  idleCode : Nat
  standbyCode : Nat
  fastRaise : Bool
deriving DecidableEq, Repr

/-- A gap entry of one bank (R3). -/
structure GapEntry where
  valid : Bool
  low : Nat
  high : Nat
  lower : SectionId
  upper : SectionId
  approach : Nat
  bridgeable : Bool
  crossingLimit : Nat
deriving DecidableEq, Repr

/-- A map bank: 64 section entries and 32 gap entries (R1). -/
structure Bank where
  sections : Vector SectionEntry 64
  gaps : Vector GapEntry 32
deriving DecidableEq, Repr

/-- The result of resolving a chainage (R7). -/
inductive Resolution where
  | sect (x : SectionId)
  | gap (g : GapId)
  | offMap
deriving DecidableEq, Repr

/-! ### Truck contexts (Chapter 2) -/

/-- The states of a context (R22). -/
inductive CtxState where
  | free
  | tracked
  | queued
  | offered
  | drawing
  | dropping
  | crossing
  | faulted
deriving DecidableEq, Repr

/-- A priority level, 1 or 2 (R32, R72). -/
inductive Level where
  | one
  | two
deriving DecidableEq, Repr

/-- The mark of a wait-list entry (R72). -/
inductive Mark where
  | ordinary
  | carryOver
deriving DecidableEq, Repr

/-- The withdraw reasons, in the order of their codes 1 to 15 (R146). -/
inductive Reason where
  | gap
  | shed
  | expired
  | trip
  | meterLost
  | feederDown
  | isolated
  | stop
  | fault
  | order
  | offMap
  | reposition
  | reconfig
  | restart
  | silent
deriving DecidableEq, Repr

/-- The class of a context as its last resolution gave it: its place in the class table, or none for the
default class, and the class values it had then (R31, log 10). -/
structure TruckClass where
  index : Option (Fin 8)
  level : Level
  cap : Nat
  maxHold : Nat
  holdThrough : Bool
deriving DecidableEq, Repr

/-- The position group of a context (R21). -/
structure Position where
  chainage : Nat
  heading : Heading
  pantograph : Pantograph
  loaded : Bool
  drawn : Nat
  resolution : Resolution
  approach : Option GapId
deriving DecidableEq, Repr

/-- The request group of a context (R21, R41). The list membership is held in the feeder's wait lists (log 11). -/
structure Request where
  tag : Option Byte
  requested : Nat
  minimum : Nat
  hold : Option Nat
  level : Level
deriving DecidableEq, Repr

/-- The grant or offer a context holds: its amount, feeder and section (R21, R22). -/
structure Holding where
  amount : Nat
  feeder : FeederId
  sect : SectionId
deriving DecidableEq, Repr

/-- The gap group of a context (R89). `amount` is the crossing amount; a reservation is held while `feeder` is some. -/
structure GapFields where
  gapId : Option GapId
  target : Option SectionId
  amount : Nat
  feeder : Option FeederId
  crossing : Timer
  carried : Timer
  arcReported : Bool
deriving DecidableEq, Repr

/-- A withdrawal in the withdraw-pending field: its reason, and whether its deadline is 0 rather than the
running drop deadline (R149). -/
structure Withdrawal where
  reason : Reason
  immediate : Bool
deriving DecidableEq, Repr

/-- The record of a context slot (R21). -/
structure Context where
  truck : Option Byte
  cls : TruckClass
  state : CtxState
  pos : Position
  silenceAge : Nat
  silenceCount : Nat
  silenceTimer : Timer
  req : Request
  hold : Option Holding
  grantExpiry : Timer
  offerWindow : Timer
  offerRepeat : Timer
  repeatCount : Nat
  levelAtGrant : Option Level
  gap : GapFields
  dropReason : Option Reason
  dropDeadline : Timer
  strikes : Nat
  overdraw : Nat
  holdFlag : Bool
  withdraw : Option Withdrawal
deriving DecidableEq, Repr

/-- An entry of the fleet class table (R30). -/
structure ClassEntry where
  valid : Bool
  matchBits : Byte
  mask : Byte
  base : Level
  cap : Nat
  maxHold : Nat
  holdThrough : Bool
deriving DecidableEq, Repr

/-! ### Feeder budget unit (Chapter 4) -/

/-- The feeder states (4.4). -/
inductive FeederState where
  | offline
  | online
  | suspect
  | tripped
deriving DecidableEq, Repr

/-- A wait-list entry: the slot, the section and the mark (R72). -/
structure Entry where
  slot : Slot
  sect : SectionId
  mark : Mark
deriving DecidableEq, Repr

/-- The six configuration fields of a feeder record (R65). -/
structure FeederConfig where
  capacity : Nat
  reserve : Nat
  share : Nat
  overloadCode : Nat
  meterLostTime : Nat
  fastVolts : Nat
deriving DecidableEq, Repr

/-- A feeder record (R65). -/
structure Feeder where
  config : FeederConfig
  state : FeederState
  committed : Nat
  turn : Nat
  overload : Timer
  meterLost : Timer
  grantOrder : List Slot
  wait1 : List Entry
  wait2 : List Entry
deriving DecidableEq, Repr

/-! ### Section controller (Chapter 6) -/

/-- The section states, in the order of their codes (R106, R157). -/
inductive SecState where
  | isolated
  | standby
  | idle
  | raising
  | energised
deriving DecidableEq, Repr

/-- The state from which a raise began (R106). -/
inductive RaiseOrigin where
  | idle
  | standby
deriving DecidableEq, Repr

/-- A section switch status report (R118). -/
structure SsuStatus where
  closed : Bool
  voltage : Bool
  fault : Bool
deriving DecidableEq, Repr

/-- The section commands, in the order of their codes (R146). -/
inductive SecCommand where
  | opening
  | keepalive
  | close
  | closeFast
deriving DecidableEq, Repr

/-- A section state record (R106). -/
structure SectionRec where
  state : SecState
  lockout : Bool
  raiseOrigin : Option RaiseOrigin
  raiseTimer : Timer
  idleTimer : Timer
  standbyTimer : Timer
  ssu : Option SsuStatus
  command : Option SecCommand
deriving DecidableEq, Repr

/-- The admission states (R122). -/
inductive Admission where
  | halted
  | running
  | stopped
deriving DecidableEq, Repr

/-! ### Sample unit (Chapter 7) -/

/-- The latest sample of a feeder (R127). -/
structure Sample where
  seq : Byte
  current : Nat
  voltage : Nat
  breaker : Breaker
deriving DecidableEq, Repr

/-- The latest sample of a feeder and its meter silence timer (R127). -/
structure Meter where
  latest : Option Sample
  silence : Timer
deriving DecidableEq, Repr

/-- A ring descriptor (R130). -/
structure RingDesc where
  enabled : Bool
  start : Nat
  length : Nat
  distance : Nat
  threshold : Nat
  postTrip : Nat
  freeze : Bool
  wrap : Bool
deriving DecidableEq, Repr

/-- The ring states, in the order of their codes (R130, R157). -/
inductive RingState where
  | disabled
  | recording
  | postTrip
  | frozen
deriving DecidableEq, Repr

/-- A ring: its descriptor and working state (R130). -/
structure Ring where
  desc : RingDesc
  state : RingState
  writePos : Nat
  fill : Nat
  countdown : Option Nat
deriving DecidableEq, Repr

/-- An entry of the sample memory (R129). -/
structure SampleEntry where
  current : Nat
  voltage : Nat
  seq : Byte
deriving DecidableEq, Repr

/-- The sample memory: the listed entries, addresses strictly rising (R129, log 5). -/
abbrev SampleMemory := List (Nat × SampleEntry)

/-! ### Links and management (Chapters 8 and 9) -/

/-- The states of a receive assembler (R142). -/
inductive AsmPhase where
  | hunt
  | header
  | payload
  | check
deriving DecidableEq, Repr

/-- A receive assembler: its state, the bytes received after the marker, and the time since the last
byte in tenths of a bit-time (R142). -/
structure Assembler where
  phase : AsmPhase
  held : List Byte
  watch : Nat
deriving DecidableEq, Repr

/-- A frame being sent, with the time left in tenths of a bit-time (R148, log 8). -/
structure Sending where
  frame : Frame
  left : Nat
deriving DecidableEq, Repr

/-- The frame counters of one link (R163). -/
structure LinkCounters where
  good : Nat
  checkErrors : Nat
  runts : Nat
  foreign : Nat
  txDrops : Nat
deriving DecidableEq, Repr

/-- The 34 counters (R163). -/
structure Counters where
  w : LinkCounters
  c : LinkCounters
  m : LinkCounters
  overrun : Nat
  missed : Vector Nat 16
  lapsed : Nat
  sheds : Nat
deriving DecidableEq, Repr

/-- The event kinds, in the order of their codes 1 to 22 (9.5). -/
inductive EventKind where
  | restartDone
  | swapDone
  | swapTimeout
  | tableFull
  | truckFaulted
  | arcRisk
  | dropLate
  | gapStall
  | offerLapsed
  | overloadShed
  | budgetOver
  | feederSuspect
  | feederOffline
  | feederTrip
  | stepDetect
  | ringWrap
  | ringFrozen
  | restoreFail
  | sectionMismatch
  | rampStop
  | rampResumed
  | overdraw
deriving DecidableEq, Repr

/-- The GLOBAL table (R159): indices 1 to 21 by name, and the event controls of indices 32 to 53. -/
structure Globals where
  wRate : Nat
  cRate : Nat
  swapTime : Nat
  silenceTime : Nat
  overdrawMargin : Nat
  defaultCap : Nat
  promote : Nat
  strikeThreshold : Nat
  exclusion : Nat
  offerWindow : Nat
  offerRepeat : Nat
  repeatLimit : Nat
  zeroThreshold : Nat
  gapDrop : Nat
  shedDrop : Nat
  ordinaryDrop : Nat
  idleRaise : Nat
  standbyRaise : Nat
  psaForward : Nat
  datForward : Nat
  mirror : Nat
  eventControl : Vector Nat 22
deriving DecidableEq, Repr

/-! ### The whole part -/

/-- The state of the FA-1648. `pending` is the queue of commands waiting to be taken, first in, first
out; `fresh` counts the free values drawn so far and is the model's own (log 6). -/
structure State where
  resetPin : Bool
  stopLine : Bool
  alert : Bool
  cAddress : Byte
  asmW : Assembler
  asmC : Assembler
  asmM : Assembler
  wSending : Option Sending
  cSending : Option Sending
  wRate : Nat
  cRate : Nat
  cRatePending : List (Nat × Nat)
  broadcast : Bool
  normalQueue : List Frame
  requestBuffer : List Frame
  cQueue : List Frame
  globals : Globals
  latches : BitVec 22
  eventSeq : Byte
  counters : Counters
  bankA : Bank
  bankB : Bank
  active : BankId
  swap : SwapState
  swapTimer : Timer
  contexts : Vector Context 48
  classes : Vector ClassEntry 8
  feeders : Vector Feeder 16
  loads : Vector Nat 64
  sections : Vector SectionRec 64
  admission : Admission
  meters : Vector Meter 16
  rings : Vector Ring 16
  samples : SampleMemory
  fresh : Nat
  pending : List Instr
deriving DecidableEq, Repr

/-- No rule of the manual stops the part: there is no fault. Bad frames are counted and dropped (R142, R143,
R145), bad requests are answered with NAK (R156), full queues discard and count (R150, R154, R155). Safe. -/
inductive Fault where
deriving DecidableEq, Repr

/-- The reasons a command has no meaning in the model. -/
inductive Refusal where
  /-- Raised by `exec` alone, for a command whose meaning is not written yet; no arm raises it now. Safe. -/
  | notModelled (mnemonic : String)
deriving DecidableEq, Repr

/-! ### Reset values -/

/-- The reset value of a section entry (R2). -/
def SectionEntry.reset : SectionEntry :=
  { valid := false, low := 0, high := 0, feeder := 0, limit := 0, wake := 0, idleCode := 0, standbyCode := 0, fastRaise := false }

/-- The reset value of a gap entry (R3). -/
def GapEntry.reset : GapEntry :=
  { valid := false, low := 0, high := 0, lower := 0, upper := 0, approach := 0, bridgeable := false, crossingLimit := 10 }

/-- An empty bank (R1). -/
def Bank.reset : Bank :=
  { sections := Vector.replicate 64 SectionEntry.reset, gaps := Vector.replicate 32 GapEntry.reset }

/-- The default class with a default cap (R31). -/
def TruckClass.default (cap : Nat) : TruckClass :=
  { index := none, level := .two, cap := cap, maxHold := 60, holdThrough := false }

/-- Cleared gap fields (R89). -/
def GapFields.clear : GapFields :=
  { gapId := none, target := none, amount := 0, feeder := none, crossing := none, carried := none, arcReported := false }

/-- A FREE slot (R21). -/
def Context.freed : Context :=
  { truck := none
    cls := TruckClass.default 1500
    state := .free
    pos := { chainage := 0, heading := .stopped, pantograph := .lowered, loaded := false, drawn := 0, resolution := .offMap, approach := none }
    silenceAge := 0
    silenceCount := 0
    silenceTimer := none
    req := { tag := none, requested := 0, minimum := 0, hold := none, level := .two }
    hold := none
    grantExpiry := none
    offerWindow := none
    offerRepeat := none
    repeatCount := 0
    levelAtGrant := none
    gap := GapFields.clear
    dropReason := none
    dropDeadline := none
    strikes := 0
    overdraw := 0
    holdFlag := false
    withdraw := none }

/-- The reset value of a class entry (R30). -/
def ClassEntry.reset : ClassEntry :=
  { valid := false, matchBits := 0, mask := 0, base := .two, cap := 1500, maxHold := 60, holdThrough := false }

/-- The working state of a feeder after either reset, beside a configuration (R65). -/
def Feeder.resetWith (cfg : FeederConfig) : Feeder :=
  { config := cfg, state := .offline, committed := 0, turn := 0, overload := none, meterLost := none
    grantOrder := [], wait1 := [], wait2 := [] }

/-- The feeder record after hard reset (R65). -/
def Feeder.reset : Feeder :=
  Feeder.resetWith { capacity := 0, reserve := 0, share := 2, overloadCode := 10, meterLostTime := 3, fastVolts := 2000 }

/-- The section state record after hard reset (R106). -/
def SectionRec.reset : SectionRec :=
  { state := .isolated, lockout := false, raiseOrigin := none, raiseTimer := none, idleTimer := none
    standbyTimer := none, ssu := none, command := none }

/-- The latest sample and silence timer after hard reset (R139). -/
def Meter.reset : Meter := { latest := none, silence := none }

/-- The ring after hard reset (R130, R139). -/
def Ring.reset : Ring :=
  { desc := { enabled := false, start := 0, length := 16, distance := 1, threshold := 500, postTrip := 64, freeze := false, wrap := false }
    state := .disabled, writePos := 0, fill := 0, countdown := none }

/-- An assembler in HUNT with no bytes (R142). -/
def Assembler.hunting : Assembler := { phase := .hunt, held := [], watch := 0 }

/-- The five counters of a link, clear (R163). -/
def LinkCounters.zero : LinkCounters := { good := 0, checkErrors := 0, runts := 0, foreign := 0, txDrops := 0 }

/-- Every counter clear (R163). -/
def Counters.zero : Counters :=
  { w := LinkCounters.zero, c := LinkCounters.zero, m := LinkCounters.zero, overrun := 0
    missed := Vector.replicate 16 0, lapsed := 0, sheds := 0 }

/-- The GLOBAL table at its defaults (R159): event control 3 for TRUCK_FAULTED, ARC_RISK, FEEDER_OFFLINE,
FEEDER_TRIP, RESTORE_FAIL and RAMP_STOP, and 1 for the other sixteen kinds. -/
def Globals.reset : Globals :=
  { wRate := 3, cRate := 3, swapTime := 60, silenceTime := 10, overdrawMargin := 100, defaultCap := 1500
    promote := 0, strikeThreshold := 3, exclusion := 1, offerWindow := 10, offerRepeat := 4, repeatLimit := 3
    zeroThreshold := 20, gapDrop := 20, shedDrop := 10, ordinaryDrop := 30, idleRaise := 10, standbyRaise := 15
    psaForward := 1, datForward := 1, mirror := 0
    eventControl := #v[1, 1, 1, 1, 3, 3, 1, 1, 1, 1, 1, 1, 3, 3, 1, 1, 1, 3, 1, 3, 1, 1] }

/-- The hard-reset values of R165 step 1, with the C-link address of step 2 and the broadcast flag of step 3.
What no reset acts on is given: the ramp-stop line's level, the sample memory (R129), the model's own
counter of free values, and the queue of commands. -/
def State.powerOn (addr : Byte) (line : Bool) (mem : SampleMemory) (fresh : Nat) (queue : List Instr) : State :=
  { resetPin := false
    stopLine := line
    alert := false
    cAddress := addr
    asmW := Assembler.hunting
    asmC := Assembler.hunting
    asmM := Assembler.hunting
    wSending := none
    cSending := none
    wRate := 3
    cRate := 3
    cRatePending := []
    broadcast := true
    normalQueue := []
    requestBuffer := []
    cQueue := []
    globals := Globals.reset
    latches := 0
    eventSeq := 0
    counters := Counters.zero
    bankA := Bank.reset
    bankB := Bank.reset
    active := .a
    swap := .none
    swapTimer := none
    contexts := Vector.replicate 48 Context.freed
    classes := Vector.replicate 8 ClassEntry.reset
    feeders := Vector.replicate 16 Feeder.reset
    loads := Vector.replicate 64 0
    sections := Vector.replicate 64 SectionRec.reset
    admission := .halted
    meters := Vector.replicate 16 Meter.reset
    rings := Vector.replicate 16 Ring.reset
    samples := mem
    fresh := fresh
    pending := queue }

/-- The machine right after a power-on hard reset with all straps 0 and the ramp-stop line not asserted (R165,
log 4): the values of R165 steps 1 to 3, and step 4's RESTART_DONE with subject 0 and value 224, latched,
numbered 1 and waiting on the C-link (R161). Nothing is listed in the sample memory and no command waits. -/
def State.reset : State :=
  { State.powerOn 224 false [] 0 [] with
    latches := 1
    eventSeq := 1
    cQueue := [⟨0x80, 0, 224, 1, [1, 0, 0, 224]⟩] }

end Sys2Proof.Machine
end

