-- ==== Sys2Proof/Machine/Ops.lean ====
section
/-! DEFINITION. The named operations over the part's state: reading and writing one record, timers, counters, and the transmit queues. -/

namespace Sys2Proof.Machine
open Sys2Proof

/-! ### The records, one at a time -/

/-- The slots in ascending order. -/
def allSlots : List Slot := List.finRange 48

/-- The feeders in ascending order. -/
def allFeeders : List FeederId := List.finRange 16

/-- The sections in ascending order. -/
def allSections : List SectionId := List.finRange 64

/-- The gaps in ascending order. -/
def allGaps : List GapId := List.finRange 32

/-- The context in a slot. -/
def State.ctx (s : State) (i : Slot) : Context := s.contexts[i]

/-- Replace the context in a slot. -/
def State.setCtx (s : State) (i : Slot) (c : Context) : State :=
  { s with contexts := s.contexts.set i c }

/-- Change the context in a slot. -/
def State.modCtx (s : State) (i : Slot) (f : Context → Context) : State := s.setCtx i (f (s.ctx i))

/-- The record of a feeder. -/
def State.fdr (s : State) (f : FeederId) : Feeder := s.feeders[f]

/-- Change the record of a feeder. -/
def State.modFdr (s : State) (f : FeederId) (g : Feeder → Feeder) : State :=
  { s with feeders := s.feeders.set f (g (s.fdr f)) }

/-- The load counter of a section (R67). -/
def State.load (s : State) (x : SectionId) : Nat := s.loads[x]

/-- Change the load counter of a section. -/
def State.modLoad (s : State) (x : SectionId) (g : Nat → Nat) : State :=
  { s with loads := s.loads.set x (g (s.load x)) }

/-- The state record of a section (R106). -/
def State.sec (s : State) (x : SectionId) : SectionRec := s.sections[x]

/-- Change the state record of a section. -/
def State.modSec (s : State) (x : SectionId) (g : SectionRec → SectionRec) : State :=
  { s with sections := s.sections.set x (g (s.sec x)) }

/-- The meter record of a feeder (R127). -/
def State.meter (s : State) (f : FeederId) : Meter := s.meters[f]

/-- Change the meter record of a feeder. -/
def State.modMeter (s : State) (f : FeederId) (g : Meter → Meter) : State :=
  { s with meters := s.meters.set f (g (s.meter f)) }

/-- The ring of a feeder (R130). -/
def State.ring (s : State) (f : FeederId) : Ring := s.rings[f]

/-- Change the ring of a feeder. -/
def State.modRing (s : State) (f : FeederId) (g : Ring → Ring) : State :=
  { s with rings := s.rings.set f (g (s.ring f)) }

/-- The context of a truck: the slot whose record carries the id (R21). -/
def State.slotOf (s : State) (truck : Byte) : Option Slot :=
  allSlots.find? (fun i => (s.ctx i).state != .free && (s.ctx i).truck == some truck)

/-- The lowest FREE slot (R23). -/
def State.freeSlot (s : State) : Option Slot := allSlots.find? (fun i => (s.ctx i).state == .free)

/-- Fold a change over the slots in ascending order. -/
def State.eachSlot (s : State) (g : State → Slot → State) : State := allSlots.foldl g s

/-- Fold a change over the sections in ascending order. -/
def State.eachSection (s : State) (g : State → SectionId → State) : State := allSections.foldl g s

/-! ### Timers (log 1) -/

/-- A timer of whole seconds. -/
def seconds (n : Nat) : Timer := some (n * 1000)

/-- A timer of tenths of a second. -/
def tenths (n : Nat) : Timer := some (n * 100)

/-- A timer of quarter seconds. -/
def quarters (n : Nat) : Timer := some (n * 250)

/-- The whole seconds left, rounded up (R41), 0 when stopped. -/
def secondsLeft (t : Timer) : Nat := (t.getD 0 + 999) / 1000

/-- The tenths of a second left, rounded up (R41), 0 when stopped. -/
def tenthsLeft (t : Timer) : Nat := (t.getD 0 + 99) / 100

/-- One millisecond less (log 1). -/
def tickTimer (t : Timer) : Timer := t.map (· - 1)

/-! ### Counters (4.1: 16 bits, hold at 65535) -/

/-- A counter that holds at 65535. -/
def holdAdd (n k : Nat) : Nat := min 65535 (n + k)

/-- Change the frame counters of a link. -/
def State.modLink (s : State) (l : Link) (g : LinkCounters → LinkCounters) : State :=
  match l with
  | .w => { s with counters := { s.counters with w := g s.counters.w } }
  | .c => { s with counters := { s.counters with c := g s.counters.c } }
  | .m => { s with counters := { s.counters with m := g s.counters.m } }

/-- The good-frame counter of a link adds 1 (R143, R145, R153). -/
def State.countGood (s : State) (l : Link) : State := s.modLink l (fun k => { k with good := holdAdd k.good 1 })
/-- The check-error counter of a link adds 1 (R142). -/
def State.countCheckError (s : State) (l : Link) : State := s.modLink l (fun k => { k with checkErrors := holdAdd k.checkErrors 1 })
/-- The runt counter of a link adds 1 (R142). -/
def State.countRunt (s : State) (l : Link) : State := s.modLink l (fun k => { k with runts := holdAdd k.runts 1 })
/-- The foreign-frame counter of a link adds 1 (R143, R145, R153). -/
def State.countForeign (s : State) (l : Link) : State := s.modLink l (fun k => { k with foreign := holdAdd k.foreign 1 })
/-- The transmit-drop counter of a link adds 1 (R150, R155). -/
def State.countTxDrop (s : State) (l : Link) : State := s.modLink l (fun k => { k with txDrops := holdAdd k.txDrops 1 })

/-! ### Transmit queues -/

/-- Hand a frame to the W-link normal queue: discarded and counted while the queue holds 32 (R150). -/
def State.sendNormal (s : State) (f : Frame) : State :=
  if s.normalQueue.length < 32 then { s with normalQueue := s.normalQueue ++ [f] } else s.countTxDrop .w

/-- Offer an EVENT or copy frame to the C-link transmit queue: admitted with at least 4 of its 32 entries
free, discarded and counted otherwise (R155). -/
def State.offerC (s : State) (f : Frame) : State :=
  if s.cQueue.length ≤ 28 then { s with cQueue := s.cQueue ++ [f] } else s.countTxDrop .c

/-- Hand a reply to the C-link transmit queue: admitted with at least 1 entry free (R155). -/
def State.sendReply (s : State) (f : Frame) : State :=
  if s.cQueue.length < 32 then { s with cQueue := s.cQueue ++ [f] } else s.countTxDrop .c

/-- The receive assembler of a link. -/
def State.asm (s : State) : Link → Assembler
  | .w => s.asmW
  | .c => s.asmC
  | .m => s.asmM

/-- Set the receive assembler of a link. -/
def State.setAsm (s : State) (l : Link) (a : Assembler) : State :=
  match l with
  | .w => { s with asmW := a }
  | .c => { s with asmC := a }
  | .m => { s with asmM := a }

/-! ### Outcomes -/

/-- Every command ends in a next state. While the reset pin is asserted the part takes nothing (R165, log 9). -/
def whileOutOfReset (s : State) (run : State → State) : Host.Outcome State Fault Refusal :=
  .next (if s.resetPin then s else run s)

end Sys2Proof.Machine
end

