-- ==== Sys2Proof/Machine/Flags.lean ====
section
/-! DEFINITION. The event latches, the event sequence and the ALERT line (R161). -/

namespace Sys2Proof.Machine
open Sys2Proof

/-- The place of an event kind, counted from 0: its code less 1 (9.5). -/
def EventKind.place : EventKind → Fin 22
  | .restartDone => 0
  | .swapDone => 1
  | .swapTimeout => 2
  | .tableFull => 3
  | .truckFaulted => 4
  | .arcRisk => 5
  | .dropLate => 6
  | .gapStall => 7
  | .offerLapsed => 8
  | .overloadShed => 9
  | .budgetOver => 10
  | .feederSuspect => 11
  | .feederOffline => 12
  | .feederTrip => 13
  | .stepDetect => 14
  | .ringWrap => 15
  | .ringFrozen => 16
  | .restoreFail => 17
  | .sectionMismatch => 18
  | .rampStop => 19
  | .rampResumed => 20
  | .overdraw => 21

/-- The event control of a kind, 0 to 3 (R159). -/
def State.control (s : State) (p : Fin 22) : Nat := s.globals.eventControl[p]

/-- The frame enable is the 1 of the event control. -/
def State.frameEnabled (s : State) (p : Fin 22) : Bool := s.control p % 2 == 1

/-- The alert enable is the 2 of the event control. -/
def State.alertEnabled (s : State) (p : Fin 22) : Bool := s.control p / 2 % 2 == 1

/-- The ALERT line as it should stand: asserted while a latch whose kind has its alert enable set is set (R161). -/
def State.alertDue (s : State) : Bool :=
  (List.finRange 22).any (fun p => s.latches.getLsbD p && s.alertEnabled p)

/-- Evaluate the ALERT line (R161). -/
def State.evalAlert (s : State) : State := { s with alert := s.alertDue }

/-- Set the latch of a kind (R161 step 1). -/
def State.setLatch (s : State) (p : Fin 22) : State :=
  { s with latches := s.latches ||| (1#22 <<< p.val) }

/-- The EVENT frame of a kind, subject and value, with the event sequence as its tag (R160, R161). -/
def State.eventFrame (s : State) (k : EventKind) (subject value : Nat) : Frame :=
  ⟨0x80, 0, s.cAddress, s.eventSeq, [byte (k.place.val + 1), byte subject] ++ nat16 value⟩

/-- Step 2 of R161: with the frame enable set, the sequence goes up and the EVENT frame is offered. -/
def State.emitEvent (s : State) (k : EventKind) (subject value : Nat) : State :=
  if s.frameEnabled k.place then
    let t := { s with eventSeq := s.eventSeq + 1 }
    t.offerC (t.eventFrame k subject value)
  else s

/-- One occurrence of an event: the latch, the frame, the ALERT line (R161). -/
def State.report (s : State) (k : EventKind) (subject value : Nat) : State :=
  ((s.setLatch k.place).emitEvent k subject value).evalAlert

end Sys2Proof.Machine
end

