-- ==== Sys2Proof/Machine/Operands.lean ====
section
/-! DEFINITION. The coded fields and frame layouts of 8.4 and 9.4, and the range checks of written table entries. -/

namespace Sys2Proof.Machine
open Sys2Proof

/-! ### Codes (R146, R157, R162) -/

/-- Heading codes (R146). -/
def headingCode : Heading → Nat
  | .stopped => 0
  | .up => 1
  | .down => 2

/-- Pantograph codes (R146). -/
def pantographCode : Pantograph → Nat
  | .lowered => 0
  | .raising => 1
  | .raised => 2
  | .lowering => 3

/-- Breaker codes (R146). -/
def breakerCode : Breaker → Nat
  | .closed => 0
  | .opened => 1
  | .tripped => 2

/-- WDR reason codes (R146). -/
def Reason.code : Reason → Nat
  | .gap => 1
  | .shed => 2
  | .expired => 3
  | .trip => 4
  | .meterLost => 5
  | .feederDown => 6
  | .isolated => 7
  | .stop => 8
  | .fault => 9
  | .order => 10
  | .offMap => 11
  | .reposition => 12
  | .reconfig => 13
  | .restart => 14
  | .silent => 15

/-- The RFS reasons, by their codes 1 to 12 (R146). -/
inductive Refuse where
  | tableFull
  | noPosition
  | offMap
  | inGap
  | sectionDown
  | feederDown
  | badAmount
  | stale
  | held
  | faulted
  | stopped
  | dropping
deriving DecidableEq, Repr

/-- RFS reason codes (R146). -/
def Refuse.code : Refuse → Nat
  | .tableFull => 1
  | .noPosition => 2
  | .offMap => 3
  | .inGap => 4
  | .sectionDown => 5
  | .feederDown => 6
  | .badAmount => 7
  | .stale => 8
  | .held => 9
  | .faulted => 10
  | .stopped => 11
  | .dropping => 12

/-- Level codes (R146). -/
def Level.code : Level → Nat
  | .one => 1
  | .two => 2

/-- Mark codes (R157). -/
def Mark.code : Mark → Nat
  | .ordinary => 0
  | .carryOver => 1

/-- Context state codes (9.4). -/
def CtxState.code : CtxState → Nat
  | .free => 0
  | .tracked => 1
  | .queued => 2
  | .offered => 3
  | .drawing => 4
  | .dropping => 5
  | .crossing => 6
  | .faulted => 7

/-- Feeder state codes (R162). -/
def FeederState.code : FeederState → Nat
  | .offline => 0
  | .online => 1
  | .suspect => 2
  | .tripped => 3

/-- Section state codes (R157). -/
def SecState.code : SecState → Nat
  | .isolated => 0
  | .standby => 1
  | .idle => 2
  | .raising => 3
  | .energised => 4

/-- A raise origin takes the code of the section state it names (R157). -/
def RaiseOrigin.code : RaiseOrigin → Nat
  | .standby => 1
  | .idle => 2

/-- SCM action codes (R146). -/
def SecCommand.code : SecCommand → Nat
  | .opening => 0
  | .keepalive => 1
  | .close => 2
  | .closeFast => 3

/-- Ring state codes (R157). -/
def RingState.code : RingState → Nat
  | .disabled => 0
  | .recording => 1
  | .postTrip => 2
  | .frozen => 3

/-- Admission state codes (R162). -/
def Admission.code : Admission → Nat
  | .halted => 0
  | .running => 1
  | .stopped => 2

/-- Bank codes (R157, R162). -/
def BankId.code : BankId → Nat
  | .a => 0
  | .b => 1

/-- Swap state codes (R162). -/
def SwapState.code : SwapState → Nat
  | .none => 0
  | .pending => 1
  | .pendingForced => 2

/-- The heading of a code; none outside the codes (R143 test 5). -/
def headingOf (b : Byte) : Option Heading :=
  match b.toNat with
  | 0 => some .stopped
  | 1 => some .up
  | 2 => some .down
  | _ => none

/-- The pantograph state of a code; none outside the codes (R143 test 5). -/
def pantographOf (b : Byte) : Option Pantograph :=
  match b.toNat with
  | 0 => some .lowered
  | 1 => some .raising
  | 2 => some .raised
  | 3 => some .lowering
  | _ => none

/-- The breaker state of a code; none above 2 (R145). -/
def breakerOf (b : Byte) : Option Breaker :=
  match b.toNat with
  | 0 => some .closed
  | 1 => some .opened
  | 2 => some .tripped
  | _ => none

/-- The flag of a code: 0 no, 1 yes (R146, R157). -/
def flagOf (b : Byte) : Option Bool :=
  match b.toNat with
  | 0 => some false
  | 1 => some true
  | _ => none

/-- The feeder a byte names, 0 to 15. -/
def feederOfByte (b : Byte) : Option FeederId := if h : b.toNat < 16 then some ⟨b.toNat, h⟩ else none

/-- The section a byte names, 0 to 63. -/
def sectionOfByte (b : Byte) : Option SectionId := if h : b.toNat < 64 then some ⟨b.toNat, h⟩ else none

/-- The gap index a byte names, 0 to 31. -/
def gapOfByte (b : Byte) : Option GapId := if h : b.toNat < 32 then some ⟨b.toNat, h⟩ else none

/-- The class index a byte names, 0 to 7. -/
def classOfByte (b : Byte) : Option (Fin 8) := if h : b.toNat < 8 then some ⟨b.toNat, h⟩ else none

/-- The slot a byte names, 0 to 47. -/
def slotOfByte (b : Byte) : Option Slot := if h : b.toNat < 48 then some ⟨b.toNat, h⟩ else none

/-- The bank a byte names: 0 A, 1 B (R157). -/
def bankOfByte (b : Byte) : Option BankId :=
  match b.toNat with
  | 0 => some .a
  | 1 => some .b
  | _ => none

/-- The level a byte names. -/
def levelOfByte (b : Byte) : Option Level :=
  match b.toNat with
  | 1 => some .one
  | 2 => some .two
  | _ => none

/-! ### Frames to trucks and section switch units (R146, R147) -/

/-- A W-link frame carries source 0 (R147). -/
def wFrame (kind : Nat) (dest tag : Byte) (payload : List Byte) : Frame := ⟨byte kind, dest, 0, tag, payload⟩

/-- A GRT frame (R146). -/
def grtFrame (dest tag : Byte) (amount sect expiry : Nat) : Frame :=
  wFrame 0x20 dest tag (nat16 amount ++ [byte sect, byte expiry])

/-- A DFR frame (R146). -/
def dfrFrame (dest tag : Byte) (feeder level position : Nat) : Frame :=
  wFrame 0x21 dest tag [byte feeder, byte level, byte position]

/-- An OFR frame (R146). -/
def ofrFrame (dest tag : Byte) (amount sect window : Nat) : Frame :=
  wFrame 0x22 dest tag (nat16 amount ++ [byte sect, byte window])

/-- A WDR frame (R146). -/
def wdrFrame (dest tag : Byte) (r : Reason) (deadline : Nat) : Frame :=
  wFrame 0x23 dest tag [byte r.code, byte deadline]

/-- An RFS frame (R146). -/
def rfsFrame (dest tag : Byte) (r : Refuse) : Frame := wFrame 0x24 dest tag [byte r.code]

/-- A downward DAT frame (R146, R158). -/
def datFrame (dest tag : Byte) (data : List Byte) : Frame := wFrame 0x14 dest tag data

/-- The SCM of a section goes to address 128 plus the section number, with tag 0 (R108, R147). -/
def scmFrame (x : SectionId) (c : SecCommand) : Frame :=
  wFrame 0x30 (byte (128 + x.val)) 0 [byte x.val, byte c.code]

/-- The stored tag of a context, 0 where it is none (R147). -/
def Context.tagByte (c : Context) : Byte := c.req.tag.getD 0

/-- The W-link address of a context's truck. -/
def Context.address (c : Context) : Byte := c.truck.getD 0

/-- Send RFS to a truck in answer to a frame with tag `tag`. -/
def State.refuseTruck (s : State) (truck tag : Byte) (r : Refuse) : State := s.sendNormal (rfsFrame truck tag r)

/-- Send RFS to the truck of a context, under its stored tag (R147). -/
def State.refuse (s : State) (i : Slot) (r : Refuse) : State :=
  s.refuseTruck (s.ctx i).address (s.ctx i).tagByte r

/-- Send GRT to the truck of a context: the amount, the section and the expiry left, 1 to 255 s (R41, R146, log 17). -/
def State.sendGrt (s : State) (i : Slot) (tag : Byte) : State :=
  let c := s.ctx i
  match c.hold with
  | none => s
  | some h => s.sendNormal (grtFrame c.address tag h.amount h.sect.val (max 1 (secondsLeft c.grantExpiry)))

/-- Send OFR to the truck of a context: the amount, the section and the window left (R50, R146, log 17). -/
def State.sendOfr (s : State) (i : Slot) (tag : Byte) : State :=
  let c := s.ctx i
  match c.hold with
  | none => s
  | some h => s.sendNormal (ofrFrame c.address tag h.amount h.sect.val (max 1 (secondsLeft c.offerWindow)))

/-! ### Written table entries (R4, R30, R69, R131, R159; log 15) -/

/-- The section entry that 13 bytes write; none where a field is outside its range (R4 check 4). -/
def sectionEntryOf (e : SectionWire) : Option SectionEntry :=
  match flagOf e.valid, feederOfByte e.feeder, flagOf e.fast with
  | some valid, some feeder, some fast =>
    if e.low.toNat ≤ e.high.toNat ∧ e.wake.toNat ≤ 2000 ∧ e.idle.toNat ≤ 123 ∧ e.standby.toNat ≤ 123 then
      some { valid := valid, low := e.low.toNat, high := e.high.toNat, feeder := feeder, limit := e.limit.toNat
             wake := e.wake.toNat, idleCode := e.idle.toNat, standbyCode := e.standby.toNat, fastRaise := fast }
    else none
  | _, _, _ => none

/-- The gap entry that 11 bytes write; none where a field is outside its range (R4 check 4). -/
def gapEntryOf (e : GapWire) : Option GapEntry :=
  match flagOf e.valid, sectionOfByte e.lower, sectionOfByte e.upper, flagOf e.bridgeable with
  | some valid, some lower, some upper, some bridgeable =>
    if e.low.toNat ≤ e.high.toNat ∧ e.approach.toNat ≤ 1000 ∧ 1 ≤ e.crossing.toNat ∧ e.crossing.toNat ≤ 120 then
      some { valid := valid, low := e.low.toNat, high := e.high.toNat, lower := lower, upper := upper
             approach := e.approach.toNat, bridgeable := bridgeable, crossingLimit := e.crossing.toNat }
    else none
  | _, _, _, _ => none

/-- The feeder configuration that 9 bytes write; none where a field is outside its range (R69). -/
def feederConfigOf (e : FeederWire) : Option FeederConfig :=
  if 1 ≤ e.share.toNat ∧ e.share.toNat ≤ 8 ∧ 1 ≤ e.overload.toNat ∧ e.overload.toNat ≤ 50
      ∧ 1 ≤ e.meterLost.toNat ∧ e.meterLost.toNat ≤ 10 then
    some { capacity := e.capacity.toNat, reserve := e.reserve.toNat, share := e.share.toNat
           overloadCode := e.overload.toNat, meterLostTime := e.meterLost.toNat, fastVolts := e.fastVolts.toNat }
  else none

/-- The class entry that 8 bytes write; none where a field is outside its range (R30). -/
def classEntryOf (e : ClassWire) : Option ClassEntry :=
  match flagOf e.valid, levelOfByte e.base, flagOf e.through with
  | some valid, some base, some through =>
    if 1 ≤ e.cap.toNat ∧ 1 ≤ e.maxHold.toNat then
      some { valid := valid, matchBits := e.matchBits, mask := e.mask, base := base, cap := e.cap.toNat
             maxHold := e.maxHold.toNat, holdThrough := through }
    else none
  | _, _, _ => none

/-- The ring descriptor that 11 bytes write; none where R131 check 2 fails. -/
def ringDescOf (e : RingWire) : Option RingDesc :=
  match flagOf e.enabled, flagOf e.freeze, flagOf e.wrap with
  | some enabled, some freeze, some wrap =>
    if e.start.toNat ≤ 8191 ∧ 16 ≤ e.length.toNat ∧ e.length.toNat ≤ 2048 ∧ e.length.toNat % 16 = 0
        ∧ 1 ≤ e.distance.toNat ∧ e.distance.toNat ≤ 63 ∧ e.start.toNat + e.length.toNat ≤ 8192 then
      some { enabled := enabled, start := e.start.toNat, length := e.length.toNat, distance := e.distance.toNat
             threshold := e.threshold.toNat, postTrip := e.postTrip.toNat, freeze := freeze, wrap := wrap }
    else none
  | _, _, _ => none

/-- The place of an event control index 32 to 53 (R159). -/
def controlPlace (index : Nat) : Option (Fin 22) :=
  if h : 32 ≤ index ∧ index ≤ 53 then some ⟨index - 32, by omega⟩ else none

/-- The range of a GLOBAL index; none for an index not in R159's tables. -/
def globalRange (index : Nat) : Option (Nat × Nat) :=
  match index with
  | 1 => some (0, 4)
  | 2 => some (0, 4)
  | 3 => some (1, 255)
  | 4 => some (2, 60)
  | 5 => some (0, 500)
  | 6 => some (1, 65535)
  | 7 => some (0, 1)
  | 8 => some (1, 15)
  | 9 => some (0, 1)
  | 10 => some (2, 60)
  | 11 => some (1, 8)
  | 12 => some (0, 15)
  | 13 => some (0, 255)
  | 14 => some (5, 100)
  | 15 => some (5, 100)
  | 16 => some (5, 100)
  | 17 => some (5, 50)
  | 18 => some (2, 60)
  | 19 => some (0, 1)
  | 20 => some (0, 1)
  | 21 => some (0, 1)
  | n => (controlPlace n).map (fun _ => (0, 3))

/-- The value at a GLOBAL index; none for an index not in R159's tables. -/
def Globals.read (g : Globals) (index : Nat) : Option Nat :=
  match index with
  | 1 => some g.wRate
  | 2 => some g.cRate
  | 3 => some g.swapTime
  | 4 => some g.silenceTime
  | 5 => some g.overdrawMargin
  | 6 => some g.defaultCap
  | 7 => some g.promote
  | 8 => some g.strikeThreshold
  | 9 => some g.exclusion
  | 10 => some g.offerWindow
  | 11 => some g.offerRepeat
  | 12 => some g.repeatLimit
  | 13 => some g.zeroThreshold
  | 14 => some g.gapDrop
  | 15 => some g.shedDrop
  | 16 => some g.ordinaryDrop
  | 17 => some g.idleRaise
  | 18 => some g.standbyRaise
  | 19 => some g.psaForward
  | 20 => some g.datForward
  | 21 => some g.mirror
  | n => (controlPlace n).map (fun p => g.eventControl[p])

/-- Replace the value at a GLOBAL index of R159's tables; other indices leave the table. -/
def Globals.write (g : Globals) (index v : Nat) : Globals :=
  match index with
  | 1 => { g with wRate := v }
  | 2 => { g with cRate := v }
  | 3 => { g with swapTime := v }
  | 4 => { g with silenceTime := v }
  | 5 => { g with overdrawMargin := v }
  | 6 => { g with defaultCap := v }
  | 7 => { g with promote := v }
  | 8 => { g with strikeThreshold := v }
  | 9 => { g with exclusion := v }
  | 10 => { g with offerWindow := v }
  | 11 => { g with offerRepeat := v }
  | 12 => { g with repeatLimit := v }
  | 13 => { g with zeroThreshold := v }
  | 14 => { g with gapDrop := v }
  | 15 => { g with shedDrop := v }
  | 16 => { g with ordinaryDrop := v }
  | 17 => { g with idleRaise := v }
  | 18 => { g with standbyRaise := v }
  | 19 => { g with psaForward := v }
  | 20 => { g with datForward := v }
  | 21 => { g with mirror := v }
  | n =>
    match controlPlace n with
    | some p => { g with eventControl := g.eventControl.set p v }
    | none => g

end Sys2Proof.Machine
end

