-- ==== Sys2Proof/Machine/Map.lean ====
section
/-! DEFINITION. The position resolver: lookups in the active bank, resolution, approach, validation, and the conflict test of a pending swap (Chapter 1). -/

namespace Sys2Proof.Machine
open Sys2Proof

/-- The other bank. -/
def BankId.other : BankId → BankId
  | .a => .b
  | .b => .a

/-- A bank by its name. -/
def State.bank (s : State) : BankId → Bank
  | .a => s.bankA
  | .b => s.bankB

/-- Replace a bank. -/
def State.setBank (s : State) (which : BankId) (k : Bank) : State :=
  match which with
  | .a => { s with bankA := k }
  | .b => { s with bankB := k }

/-- The active bank (R1). -/
def State.activeBank (s : State) : Bank := s.bank s.active

/-- The shadow bank (R1). -/
def State.shadowBank (s : State) : Bank := s.bank s.active.other

/-- The section entry of a bank. -/
def Bank.sect (k : Bank) (x : SectionId) : SectionEntry := k.sections[x]

/-- The gap entry of a bank. -/
def Bank.gap (k : Bank) (g : GapId) : GapEntry := k.gaps[g]

/-- The section entry of the active bank: every lookup of a section's feeder, limit or timer codes (R1, R9). -/
def State.entry (s : State) (x : SectionId) : SectionEntry := s.activeBank.sect x

/-- The gap entry of the active bank (R1, R9). -/
def State.gapEntry (s : State) (g : GapId) : GapEntry := s.activeBank.gap g

/-- The feeder of a section in a bank, or "no feeder" for an unmapped section (R7). -/
def Bank.feederOf (k : Bank) (x : SectionId) : Option FeederId :=
  if (k.sect x).valid then some (k.sect x).feeder else none

/-- The feeder of a section in the active bank (R7). -/
def State.feederOf (s : State) (x : SectionId) : Option FeederId := s.activeBank.feederOf x

/-- The state of the feeder of a section; a section with no feeder counts as one that is not ONLINE (R7). -/
def State.feederStateOf (s : State) (x : SectionId) : FeederState :=
  match s.feederOf x with
  | some f => (s.fdr f).state
  | none => .offline

/-! ### Resolution (R7, R8) -/

/-- A valid gap whose range contains the chainage. -/
def GapEntry.covers (g : GapEntry) (c : Nat) : Bool := g.valid && decide (g.low ≤ c) && decide (c ≤ g.high)

/-- A valid section whose range contains the chainage. -/
def SectionEntry.covers (e : SectionEntry) (c : Nat) : Bool := e.valid && decide (e.low ≤ c) && decide (c ≤ e.high)

/-- Resolution of a chainage against a bank (R7). -/
def Bank.resolve (k : Bank) (c : Nat) : Resolution :=
  match allGaps.find? (fun g => (k.gap g).covers c) with
  | some g => .gap g
  | none =>
    match allSections.find? (fun x => (k.sect x).covers c) with
    | some x => .sect x
    | none => .offMap

/-- Resolution against the active bank (R7). -/
def State.resolve (s : State) (c : Nat) : Resolution := s.activeBank.resolve c

/-- The approach zone before a gap on its lower side, for a truck heading up (R8). -/
def GapEntry.inLowerZone (g : GapEntry) (c : Nat) : Bool := decide (g.low ≤ c + g.approach) && decide (c < g.low)

/-- The approach zone beyond a gap on its upper side, for a truck heading down (R8). -/
def GapEntry.inUpperZone (g : GapEntry) (c : Nat) : Bool := decide (g.high < c) && decide (c ≤ g.high + g.approach)

/-- A report in section `x` with this heading and chainage approaches the gap (R8). -/
def GapEntry.approached (g : GapEntry) (h : Heading) (x : SectionId) (c : Nat) : Bool :=
  g.valid && !g.bridgeable &&
    match h with
    | .up => g.lower == x && g.inLowerZone c
    | .down => g.upper == x && g.inUpperZone c
    | .stopped => false

/-- The approach result of a report: the lowest gap approached (R8). -/
def State.approachOf (s : State) (h : Heading) (r : Resolution) (c : Nat) : Option GapId :=
  match r with
  | .sect x => allGaps.find? (fun g => (s.gapEntry g).approached h x c)
  | .gap _ => none
  | .offMap => none

/-! ### Validation (R6) -/

/-- Two ranges have a chainage in common. -/
def rangesMeet (l1 h1 l2 h2 : Nat) : Bool := decide (l1 ≤ h2) && decide (l2 ≤ h1)

/-- A valid section that overlaps another valid section. -/
def Bank.sectionFails (k : Bank) (x : SectionId) : Bool :=
  (k.sect x).valid && allSections.any (fun y =>
    y != x && (k.sect y).valid && rangesMeet (k.sect x).low (k.sect x).high (k.sect y).low (k.sect y).high)

/-- Checks 2 to 5 of R6 on a gap. -/
def Bank.gapMisplaced (k : Bank) (g : GapId) : Bool :=
  let e := k.gap g
  let lo := k.sect e.lower
  let up := k.sect e.upper
  !lo.valid || !up.valid || e.lower == e.upper
    || !(decide (lo.low < e.low) && decide (e.low ≤ lo.high + 1))
    || !(decide (e.high < up.high) && decide (up.low ≤ e.high + 1))
    || (e.bridgeable && lo.feeder != up.feeder)

/-- A valid gap that fails a check of R6. -/
def Bank.gapFails (k : Bank) (g : GapId) : Bool :=
  (k.gap g).valid && (allGaps.any (fun h =>
    h != g && (k.gap h).valid && rangesMeet (k.gap g).low (k.gap g).high (k.gap h).low (k.gap h).high)
      || k.gapMisplaced g)

/-- Validation of a bank: the table code (1 SECTION, 2 GAP) and index of the first failure (R6). -/
def Bank.invalid (k : Bank) : Option (Nat × Nat) :=
  match allSections.find? k.sectionFails with
  | some x => some (1, x.val)
  | none => (allGaps.find? k.gapFails).map (fun g => (2, g.val))

/-! ### Conflict with a pending swap (R11, R13) -/

/-- A swap is pending: PENDING or PENDING_FORCED (1.5.1). -/
def State.swapPending (s : State) : Bool := s.swap != .none

/-- A grant or offer on section `x` and feeder `f` agrees with the shadow bank at chainage `c` (R11). -/
def State.shadowAgrees (s : State) (c : Nat) (x : SectionId) (f : FeederId) : Bool :=
  s.shadowBank.resolve c == .sect x && s.shadowBank.feederOf x == some f

/-- Holding current on section `x` and feeder `f` would put the context in conflict with a pending swap (R11, R13). -/
def State.wouldConflict (s : State) (i : Slot) (x : SectionId) (f : FeederId) : Bool :=
  s.swapPending && !s.shadowAgrees (s.ctx i).pos.chainage x f

/-- The context is in conflict with a pending swap (R11). -/
def State.inConflict (s : State) (i : Slot) : Bool :=
  match (s.ctx i).state with
  | .dropping => s.swapPending
  | .crossing => s.swapPending
  | .drawing => ((s.ctx i).hold.map (fun h => s.wouldConflict i h.sect h.feeder)).getD false
  | .offered => ((s.ctx i).hold.map (fun h => s.wouldConflict i h.sect h.feeder)).getD false
  | .free => false
  | .tracked => false
  | .queued => false
  | .faulted => false

/-- The number of contexts in conflict (R14). -/
def State.conflicts (s : State) : Nat := (allSlots.filter s.inConflict).length

end Sys2Proof.Machine
end

