-- ==== Sys2Proof/Machine/Budget.lean ====
section
/-! DEFINITION. The feeder budget unit: committed current and section loads, holders, the grant order and wait lists, the fit rule and arbitration (Chapter 4, R44, R50, R110). -/

namespace Sys2Proof.Machine
open Sys2Proof

/-! ### Limits and headrooms (R66, R67) -/

/-- The admission limit: capacity less reserve, or 0 (R66). -/
def FeederConfig.limit (c : FeederConfig) : Nat := c.capacity - c.reserve

/-- The feeder headroom (R66). -/
def State.feederRoom (s : State) (f : FeederId) : Nat := (s.fdr f).config.limit - (s.fdr f).committed

/-- The section limit in the active bank; 0 for an unmapped section (R67). -/
def State.sectionLimit (s : State) (x : SectionId) : Nat := if (s.entry x).valid then (s.entry x).limit else 0

/-- The section headroom; 0 for an unmapped section (R67). -/
def State.sectionRoom (s : State) (x : SectionId) : Nat := s.sectionLimit x - s.load x

/-! ### Wait lists (R72, R73) -/

/-- The wait list of a level. -/
def Feeder.wait (r : Feeder) : Level → List Entry
  | .one => r.wait1
  | .two => r.wait2

/-- Replace the wait list of a level. -/
def Feeder.setWait (r : Feeder) (l : Level) (es : List Entry) : Feeder :=
  match l with
  | .one => { r with wait1 := es }
  | .two => { r with wait2 := es }

/-- Both wait lists are empty. -/
def Feeder.noneWait (r : Feeder) : Bool := r.wait1.isEmpty && r.wait2.isEmpty

/-- A carry-over entry is inserted after the last carry-over entry, or at the head (R73). -/
def insertCarryOver (e : Entry) : List Entry → List Entry
  | [] => [e]
  | d :: ds => if d.mark == .carryOver then d :: insertCarryOver e ds else e :: d :: ds

/-- An entry is inserted by its mark (R73). -/
def insertEntry (e : Entry) (es : List Entry) : List Entry :=
  match e.mark with
  | .ordinary => es ++ [e]
  | .carryOver => insertCarryOver e es

/-- Where a context stands in the lists: the feeder, the level, the entry and its 1-based position (R72, R73). -/
structure Membership where
  feeder : FeederId
  level : Level
  entry : Entry
  position : Nat
deriving DecidableEq, Repr

/-- The entry of a slot in a list, and its position counted from `n`. -/
def findEntry (i : Slot) : List Entry → Nat → Option (Entry × Nat)
  | [], _ => none
  | e :: es, n => if e.slot == i then some (e, n) else findEntry i es (n + 1)

/-- The entry of a slot on one feeder. -/
def State.memberOn (s : State) (i : Slot) (f : FeederId) : Option Membership :=
  match findEntry i (s.fdr f).wait1 1 with
  | some (e, n) => some ⟨f, .one, e, n⟩
  | none => (findEntry i (s.fdr f).wait2 1).map (fun p => ⟨f, .two, p.1, p.2⟩)

/-- The list membership of a context (R21, log 11). -/
def State.memberOf (s : State) (i : Slot) : Option Membership := allFeeders.findSome? (s.memberOn i)

/-! ### Holders and idle timing (R110) -/

/-- A QUEUED context's entry refers to the section. -/
def State.queuedEntryFor (s : State) (x : SectionId) (e : Entry) : Bool :=
  e.sect == x && (s.ctx e.slot).state == .queued

/-- A section has a holder while its load is above 0 or an entry of a QUEUED context refers to it (R110). -/
def State.hasHolder (s : State) (x : SectionId) : Bool :=
  decide (0 < s.load x)
    || s.feeders.toList.any (fun r => r.wait1.any (s.queuedEntryFor x) || r.wait2.any (s.queuedEntryFor x))

/-- The time a timer code stands for, as a timer; code 0 starts none (R109). -/
def codeTimer (code : Nat) : Timer :=
  if code = 0 then none
  else if code ≤ 60 then seconds (code * 5)
  else if code ≤ 115 then seconds ((code - 55) * 60)
  else seconds ((code - 114) * 3600)

/-- The section controller is told of a change of a section's holders from `s0` to `s`: an ENERGISED section
that loses its last holder starts its idle timer, one that gains a holder stops it (R110). -/
def State.tellHolder (s : State) (s0 : State) (x : SectionId) : State :=
  match s0.hasHolder x, s.hasHolder x with
  | true, false =>
    if (s.sec x).state == .energised then
      s.modSec x (fun r => { r with idleTimer := codeTimer (s.entry x).idleCode })
    else s
  | false, true => s.modSec x (fun r => { r with idleTimer := none })
  | true, true => s
  | false, false => s

/-! ### Committed current and loads (R66, R67) -/

/-- Add an amount to a feeder's committed current and a section's load. -/
def State.commit (s : State) (f : FeederId) (x : SectionId) (a : Nat) : State :=
  (s.modFdr f (fun r => { r with committed := r.committed + a })).modLoad x (· + a)

/-- Subtract an amount from a feeder's committed current and a section's load. -/
def State.uncommit (s : State) (f : FeederId) (x : SectionId) (a : Nat) : State :=
  (s.modFdr f (fun r => { r with committed := r.committed - a })).modLoad x (· - a)

/-- What a grant or offer adds to the budgets. -/
def State.commitHold (s : State) : Option Holding → State
  | none => s
  | some h => s.commit h.feeder h.sect h.amount

/-- What the end of a grant or offer takes from the budgets. -/
def State.uncommitHold (s : State) : Option Holding → State
  | none => s
  | some h => s.uncommit h.feeder h.sect h.amount

/-- The section controller is told about the section of a grant or offer. -/
def State.tellHold (s : State) (s0 : State) : Option Holding → State
  | none => s
  | some h => s.tellHolder s0 h.sect

/-- Replace the grant or offer of a context, keeping committed current and loads at their sums (R66, R67).
Every change of a grant or offer is made here. -/
def State.setHold (s : State) (i : Slot) (h : Option Holding) : State :=
  let old := (s.ctx i).hold
  let t := ((s.commitHold h).uncommitHold old).modCtx i (fun c => { c with hold := h })
  (t.tellHold s old).tellHold s h

/-- The feeder and section a reservation refers to; none while no reservation is held (R67, R89). -/
def GapFields.reserved (g : GapFields) : Option Holding :=
  match g.feeder, g.target with
  | some f, some x => some ⟨g.amount, f, x⟩
  | _, _ => none

/-- Replace the gap fields of a context, keeping committed current and loads at their sums. Every change
of a reservation is made here. -/
def State.setGap (s : State) (i : Slot) (g : GapFields) : State :=
  let old := (s.ctx i).gap.reserved
  let t := ((s.commitHold g.reserved).uncommitHold old).modCtx i (fun c => { c with gap := g })
  (t.tellHold s old).tellHold s g.reserved

/-- A context leaves the grant order list of a feeder (R71). -/
def State.leaveOrder (s : State) (i : Slot) (f : FeederId) : State :=
  s.modFdr f (fun r => { r with grantOrder := r.grantOrder.filter (· != i) })

/-- A context is appended to the grant order list of a feeder (R71). -/
def State.joinOrder (s : State) (i : Slot) (f : FeederId) : State :=
  s.modFdr f (fun r => { r with grantOrder := r.grantOrder ++ [i] })

/-- A grant or offer is released: budgets fall and the context leaves the grant order list (R66, R71). -/
def State.releaseHold (s : State) (i : Slot) : State :=
  match (s.ctx i).hold with
  | none => s
  | some h => (s.setHold i none).leaveOrder i h.feeder

/-! ### Entries (R72 to R74) -/

/-- Remove the entry of a context from its list (R74). -/
def State.dropEntry (s : State) (i : Slot) : State :=
  match s.memberOf i with
  | none => s
  | some m =>
    let t := s.modFdr m.feeder (fun r => r.setWait m.level ((r.wait m.level).filter (fun e => e.slot != i)))
    t.tellHolder s m.entry.sect

/-- Give a context an entry; an old one is removed first (R72). -/
def State.addEntry (s : State) (i : Slot) (f : FeederId) (l : Level) (x : SectionId) (k : Mark) : State :=
  let s1 := s.dropEntry i
  let t := s1.modFdr f (fun r => r.setWait l (insertEntry ⟨i, x, k⟩ (r.wait l)))
  t.tellHolder s1 x

/-- The section of a context's entry changes on the same feeder; place, level and mark are kept (R49, R73). -/
def State.moveEntry (s : State) (i : Slot) (x : SectionId) : State :=
  match s.memberOf i with
  | none => s
  | some m =>
    let t := s.modFdr m.feeder (fun r => r.setWait m.level
      ((r.wait m.level).map (fun e => if e.slot == i then { e with sect := x } else e)))
    (t.tellHolder s m.entry.sect).tellHolder s x

/-- Change a context where its state enters or leaves QUEUED: the section controller is told about the
section of its entry (R110). -/
def State.modCtxTold (s : State) (i : Slot) (g : Context → Context) : State :=
  match s.memberOf i with
  | none => s.modCtx i g
  | some m => (s.modCtx i g).tellHolder s m.entry.sect

/-! ### Leaving a state (R41, log 12) -/

/-- A context in a state of its own: the timers of the state it leaves stop in the same step, and the fields of
an ended grant, offer or drop return to their FREE values (R27, R41, log 12). -/
def Context.settled (c : Context) (st : CtxState) : Context :=
  { c with state := st, grantExpiry := none, offerWindow := none, offerRepeat := none, repeatCount := 0
           levelAtGrant := none, dropReason := none, dropDeadline := none, overdraw := 0 }

/-- A context gives up everything it holds and waits for, and takes a state that holds nothing (R22): the grant,
offer or reservation is released, the entry removed, the gap fields cleared, every timer of its state stopped. -/
def State.giveUp (s : State) (i : Slot) (st : CtxState) : State :=
  (((s.releaseHold i).setGap i GapFields.clear).dropEntry i).modCtx i (fun c => c.settled st)

/-- The feeders whose committed current falls or whose lists lose an entry when a context gives up everything. -/
def State.touches (s : State) (i : Slot) (f : FeederId) : Bool :=
  ((s.ctx i).hold.map (·.feeder)) == some f
    || ((s.ctx i).gap.reserved.map (·.feeder)) == some f
    || ((s.memberOf i).map (·.feeder)) == some f

/-- The context goes to QUEUED with an entry (R46, R49, R53, R55, R63, R73). -/
def State.queueAt (s : State) (i : Slot) (f : FeederId) (l : Level) (x : SectionId) (k : Mark) : State :=
  (s.modCtxTold i (fun c => c.settled .queued)).addEntry i f l x k

/-! ### Fit (R44) -/

/-- The candidate amount of a request on a feeder and section (R44). -/
def State.candidate (s : State) (i : Slot) (f : FeederId) (x : SectionId) : Nat :=
  min (min (s.ctx i).req.requested (s.feederRoom f)) (min (s.sectionRoom x) (s.ctx i).cls.cap)

/-- The request fits: the candidate amount is at least the minimum and above 0 (R44). -/
def State.fits (s : State) (i : Slot) (f : FeederId) (x : SectionId) : Bool :=
  decide ((s.ctx i).req.minimum ≤ s.candidate i f x) && decide (0 < s.candidate i f x)

/-- The crossing amount fits whole: it is at most both headrooms (R68, R77, R92). -/
def State.reserveFits (s : State) (i : Slot) (f : FeederId) (x : SectionId) : Bool :=
  decide ((s.ctx i).gap.amount ≤ s.feederRoom f) && decide ((s.ctx i).gap.amount ≤ s.sectionRoom x)

/-! ### Arbitration (R75 to R78) -/

/-- A wait-list entry is eligible on a feeder (R75, R13). -/
def State.eligible (s : State) (f : FeederId) (e : Entry) : Bool :=
  (s.fdr f).state == .online &&
    match (s.ctx e.slot).state with
    | .queued => (s.sec e.sect).state == .energised && !s.wouldConflict e.slot e.sect f
    | .crossing => !s.swapPending
    | .free => false
    | .tracked => false
    | .offered => false
    | .drawing => false
    | .dropping => false
    | .faulted => false

/-- The candidate of a round and the list it comes from: the earliest eligible entry of the list taken first, else
of the other (R77). -/
def State.roundCandidate (s : State) (f : FeederId) : Option (Level × Entry) :=
  let r := s.fdr f
  let one := (r.wait1.find? (s.eligible f)).map (fun e => (Level.one, e))
  let two := (r.wait2.find? (s.eligible f)).map (fun e => (Level.two, e))
  if r.turn = r.config.share then two.or one else one.or two

/-- The candidate fits: by the fit rule for a QUEUED context, measured for the entry's section; whole, at the target
section, for a CROSSING one (R77). -/
def State.candidateFits (s : State) (f : FeederId) (e : Entry) : Bool :=
  if (s.ctx e.slot).state == .crossing then s.reserveFits e.slot f ((s.ctx e.slot).gap.target.getD e.sect)
  else s.fits e.slot f e.sect

/-- An offer is made: the amount is committed, the entry removed, the context goes to OFFERED, OFR is sent and
both offer timers start (R50). -/
def State.makeOffer (s : State) (i : Slot) (f : FeederId) (x : SectionId) : State :=
  let amount := s.candidate i f x
  let t := ((s.setHold i (some ⟨amount, f, x⟩)).dropEntry i).modCtx i (fun c =>
    { c.settled .offered with
      offerWindow := seconds s.globals.offerWindow
      offerRepeat := quarters s.globals.offerRepeat })
  t.sendOfr i (t.ctx i).tagByte

/-- A reservation is made: the crossing amount is committed and the reservation feeder recorded (R78, R92). -/
def State.makeReservation (s : State) (i : Slot) (f : FeederId) : State :=
  s.setGap i { (s.ctx i).gap with feeder := some f }

/-- A CROSSING candidate is served by a reservation: the entry is removed, the context stays in CROSSING (R78). -/
def State.serveCrossing (s : State) (i : Slot) (f : FeederId) : State :=
  (s.makeReservation i f).dropEntry i

/-- The candidate is served (R78). -/
def State.serve (s : State) (f : FeederId) (e : Entry) : State :=
  if (s.ctx e.slot).state == .crossing then s.serveCrossing e.slot f else s.makeOffer e.slot f e.sect

/-- The turn counter after a candidate of a list was served: up by 1 held at K, or back to 0 (R77). -/
def turnAfter (l : Level) (turn share : Nat) : Nat :=
  match l with
  | .one => min share (turn + 1)
  | .two => 0

/-- The rounds of arbitration on a feeder, at most `n` of them (R77). -/
def State.rounds (s : State) (f : FeederId) : Nat → State
  | 0 => s
  | n + 1 =>
    match s.roundCandidate f with
    | none => s
    | some (l, e) =>
      if s.candidateFits f e then
        ((s.serve f e).modFdr f (fun r => { r with turn := turnAfter l r.turn r.config.share })).rounds f n
      else s

/-- Arbitration runs on a feeder. Every round that serves removes an entry, so one round more than there are
entries ends every run (R77). -/
def State.arbitrate (s : State) (f : FeederId) : State :=
  s.rounds f ((s.fdr f).wait1.length + (s.fdr f).wait2.length + 1)

/-- Arbitration runs on each feeder of a set, in ascending order (R76). -/
def State.arbitrateOn (s : State) (which : FeederId → Bool) : State :=
  (allFeeders.filter which).foldl State.arbitrate s

/-- Arbitration runs on every feeder (R14, R17, R19). -/
def State.arbitrateAll (s : State) : State := s.arbitrateOn (fun _ => true)

/-! ### Deferral frames (R47) -/

/-- Send DFR with the feeder, level and position of a context's entry; a position above 254 is carried as 255 (R47). -/
def State.sendDfr (s : State) (i : Slot) (tag : Byte) : State :=
  match s.memberOf i with
  | none => s
  | some m => s.sendNormal (dfrFrame (s.ctx i).address tag m.feeder.val m.level.code (min 255 m.position))

/-- After the arbitration of its event, a context still QUEUED is sent DFR; one selected has OFR alone (R47). -/
def State.deferIfQueued (s : State) (i : Slot) (tag : Byte) : State :=
  if (s.ctx i).state == .queued then s.sendDfr i tag else s

end Sys2Proof.Machine
end

