-- ==== Sys2Proof/Machine/Withdraw.lean ====
section
/-! DEFINITION. Withdrawals, drops begun, entering CROSSING, strikes and exclusion (R33, R34, R60, R96). -/

namespace Sys2Proof.Machine
open Sys2Proof

/-- Write the withdraw-pending field, replacing an unsent withdrawal (R60, R149). -/
def State.setWithdraw (s : State) (i : Slot) (r : Reason) (immediate : Bool) : State :=
  s.modCtx i (fun c => { c with withdraw := some ⟨r, immediate⟩ })

/-- A DRAWING context is withdrawn with a non-zero deadline, in tenths of a second: the grant expiry stops, the
drop deadline starts, and the grant stays committed (R60). -/
def State.startDrop (s : State) (i : Slot) (r : Reason) (deadline : Nat) : State :=
  s.modCtx i (fun c =>
    { c with state := .dropping, grantExpiry := none, overdraw := 0, dropReason := some r
             dropDeadline := tenths deadline, withdraw := some ⟨r, false⟩ })

/-- A withdrawal with deadline 0 that ends in a state holding nothing: everything is released and the WDR set
pending (R60). -/
def State.withdrawNow (s : State) (i : Slot) (r : Reason) (st : CtxState) : State :=
  (s.giveUp i st).setWithdraw i r true

/-- The drop reason of a running drop changes; the deadline runs on and the WDR is set again with it (R15, R34, R37, R60). -/
def State.turnDrop (s : State) (i : Slot) (r : Reason) : State :=
  (s.modCtx i (fun c => { c with dropReason := some r })).setWithdraw i r false

/-- What a gap drop holds on its target side is released and the gap fields are cleared (R15, R34, R37). -/
def State.releaseTarget (s : State) (i : Slot) : State := (s.dropEntry i).setGap i GapFields.clear

/-- The feeders that `releaseTarget` takes a reservation or an entry from. -/
def State.targetTouches (s : State) (i : Slot) (f : FeederId) : Bool :=
  ((s.ctx i).gap.reserved.map (·.feeder)) == some f || ((s.memberOf i).map (·.feeder)) == some f

/-- A drop for reason GAP (R22). -/
def Context.dropsForGap (c : Context) : Bool := c.state == .dropping && c.dropReason == some .gap

/-- The running drop takes another reason; a gap drop first gives up its target side. -/
def State.redirectDrop (s : State) (i : Slot) (r : Reason) : State :=
  if (s.ctx i).dropsForGap then (s.releaseTarget i).turnDrop i r else s.turnDrop i r

/-- The crossing limit of the context's gap in the active bank (R3, R96). -/
def State.crossingLimit (s : State) (i : Slot) : Nat :=
  ((s.ctx i).gap.gapId.map (fun g => (s.gapEntry g).crossingLimit)).getD 0

/-- The context goes to CROSSING: the origin grant is released and the crossing timer starts with the crossing
limit; the gap fields, the level at grant and a target holding stand (R95, R96). -/
def State.enterCrossing (s : State) (i : Slot) : State :=
  let t := s.releaseHold i
  let g := { (t.ctx i).gap with crossing := seconds (s.crossingLimit i) }
  (t.setGap i g).modCtx i (fun c =>
    { c with state := .crossing, grantExpiry := none, overdraw := 0, dropReason := none, dropDeadline := none })

/-! ### Strikes (R33, R34) -/

/-- The treatment of R34, by the state the strike's cause left the context in. -/
def State.faultContext (s : State) (i : Slot) : State :=
  match (s.ctx i).state with
  | .drawing => s.startDrop i .fault s.globals.ordinaryDrop
  | .dropping => s.redirectDrop i .fault
  | .crossing => s.withdrawNow i .fault .faulted
  | .tracked => s.giveUp i .faulted
  | .queued => s.giveUp i .faulted
  | .offered => s.giveUp i .faulted
  | .faulted => s
  | .free => s

/-- The feeders whose committed current falls or whose lists lose an entry in `faultContext` and `faultLate`. -/
def State.faultTouches (s : State) (i : Slot) (f : FeederId) : Bool :=
  match (s.ctx i).state with
  | .drawing => false
  | .dropping => (s.ctx i).dropsForGap && s.targetTouches i f
  | .crossing => s.touches i f
  | .tracked => s.touches i f
  | .queued => s.touches i f
  | .offered => s.touches i f
  | .faulted => false
  | .free => false

/-- The strike count after one strike (R33). -/
def strikeCount (count threshold : Nat) : Nat := if count < threshold then count + 1 else threshold

/-- The strike brings the count to the threshold (R33). -/
def State.strikeReaches (s : State) (i : Slot) : Bool :=
  strikeCount (s.ctx i).strikes s.globals.strikeThreshold == s.globals.strikeThreshold

/-- The threshold action moves the context toward FAULTED: exclusion is enabled, and it is neither FAULTED nor
DROPPING for reason FAULT already (R33). -/
def State.strikeFaults (s : State) (i : Slot) : Bool :=
  s.strikeReaches i && s.globals.exclusion == 1 && (s.ctx i).state != .faulted
    && !((s.ctx i).state == .dropping && (s.ctx i).dropReason == some .fault)

/-- The threshold action only reports: exclusion is disabled (R33). -/
def State.strikeReports (s : State) (i : Slot) : Bool := s.strikeReaches i && s.globals.exclusion != 1

/-- The treatment of R34 after a drop that ended late. A late GAP drop has its context in CROSSING when the strike is
counted, and is FAULTED at once without a WDR, as the row TRACKED of R34 says of it (R34, R96). -/
def State.faultLate (s : State) (i : Slot) : State :=
  if (s.ctx i).state == .crossing then s.giveUp i .faulted else s.faultContext i

/-- One strike is counted and the threshold action taken with a treatment of R34, without the arbitration that
follows (R33, R34). -/
def State.strikeBy (s : State) (i : Slot) (treat : State → State) : State :=
  let t := s.modCtx i (fun c => { c with strikes := strikeCount c.strikes s.globals.strikeThreshold })
  let told := t.report .truckFaulted (t.ctx i).address.toNat (t.ctx i).strikes
  if s.strikeFaults i then treat told
  else if s.strikeReports i then told
  else t

/-- One strike is counted and the threshold action taken, without the arbitration that follows (R33, R34). -/
def State.strikeQuiet (s : State) (i : Slot) : State := s.strikeBy i (fun t => t.faultContext i)

/-- The strike of a drop that ended late is counted, and arbitration runs on each feeder it took current or an entry
from (R34, R62, R96). -/
def State.strikeLate (s : State) (i : Slot) : State :=
  let t := s.strikeBy i (fun t => t.faultLate i)
  if s.strikeFaults i then t.arbitrateOn (s.faultTouches i) else t

/-- One strike is counted, and arbitration runs on each feeder it took current or an entry from (R33, R34). -/
def State.strike (s : State) (i : Slot) : State :=
  let t := s.strikeQuiet i
  if s.strikeFaults i then t.arbitrateOn (s.faultTouches i) else t

end Sys2Proof.Machine
end

