-- ==== Sys2Proof/Machine/Sections.lean ====
section
/-! DEFINITION. The section controller: resting, waking and raising a section, its answers to SSU status and feeder changes, isolation and its consequences, the ramp stop and resume (Chapter 6, R87, R88, R105). -/

namespace Sys2Proof.Machine
open Sys2Proof

/-! ### Resting (R110, R111, R121) -/

/-- An ENERGISED section goes to IDLE: KEEPALIVE is written and the standby timer starts with the decoded standby
code of the active bank (R109, R110, R111). -/
def State.restIdle (s : State) (x : SectionId) : State :=
  s.modSec x (fun r =>
    { r with state := .idle, idleTimer := none, standbyTimer := codeTimer (s.entry x).standbyCode, command := some .keepalive })

/-- A section goes to STANDBY with OPEN written; its timers stop and a raise in flight is abandoned (R111, R117, R118, R121). -/
def State.openToStandby (s : State) (x : SectionId) : State :=
  s.modSec x (fun r =>
    { r with state := .standby, raiseOrigin := none, raiseTimer := none, idleTimer := none, standbyTimer := none
             command := some .opening })

/-- OPEN is written to the command-pending field (R108, R118). -/
def State.writeOpen (s : State) (x : SectionId) : State := s.modSec x (fun r => { r with command := some .opening })

/-! ### Waking (R112) -/

/-- A raise begins: its command is written, the state left is the raise origin, the idle or standby timer stops and
the raise timer starts (R112). -/
def State.startRaise (s : State) (x : SectionId) (origin : RaiseOrigin) (command : SecCommand) (limit : Timer) : State :=
  s.modSec x (fun r =>
    { r with state := .raising, raiseOrigin := some origin, raiseTimer := limit, idleTimer := none, standbyTimer := none
             command := some command })

/-- The voltage of the feeder's latest sample is at or above its fast-raise threshold (R112). -/
def State.fastVoltage (s : State) (f : FeederId) : Bool :=
  match (s.meter f).latest with
  | some m => decide ((s.fdr f).config.fastVolts ≤ m.voltage)
  | none => false

/-- A wake request, by the section's state (R112). -/
def State.wake (s : State) (x : SectionId) : State :=
  match s.feederOf x with
  | none => s
  | some f =>
    if (s.fdr f).state == .online then
      match (s.sec x).state with
      | .idle => s.startRaise x .idle .close (tenths s.globals.idleRaise)
      | .standby =>
        if (s.entry x).fastRaise && s.fastVoltage f then s.startRaise x .standby .closeFast (tenths s.globals.idleRaise)
        else s.startRaise x .standby .close (seconds s.globals.standbyRaise)
      | .energised => s
      | .raising => s
      | .isolated => s
    else s

/-- Two sections are adjacent in the active bank: a valid gap joins them, or their ranges abut (R114). -/
def State.adjacent (s : State) (x y : SectionId) : Bool :=
  allGaps.any (fun g =>
    let e := s.gapEntry g
    e.valid && ((e.lower == x && e.upper == y) || (e.lower == y && e.upper == x)))
  || (s.entry x).high + 1 == (s.entry y).low || (s.entry y).high + 1 == (s.entry x).low

/-- A report at chainage `c` in section `x` wakes section `y` (R114). -/
def State.wakesAhead (s : State) (h : Heading) (x : SectionId) (c : Nat) (y : SectionId) : Bool :=
  let e := s.entry y
  e.valid && decide (0 < e.wake) && y != x && s.adjacent x y &&
    match h with
    | .up => decide (c < e.low) && decide (e.low - c ≤ e.wake)
    | .down => decide (e.high < c) && decide (c - e.high ≤ e.wake)
    | .stopped => false

/-- The approach wake of a position report (R114). -/
def State.approachWake (s : State) (i : Slot) : State :=
  let c := s.ctx i
  match c.state, c.pos.resolution with
  | .faulted, _ => s
  | .free, _ => s
  | _, .sect x => (allSections.filter (s.wakesAhead c.pos.heading x c.pos.chainage)).foldl State.wake s
  | _, .gap _ => s
  | _, .offMap => s

/-! ### Isolation (R87, R88, R119) -/

/-- A holding or entry of the context refers to the section (R87, R88). -/
def State.refersTo (s : State) (i : Slot) (x : SectionId) : Bool :=
  ((s.ctx i).hold.map (·.sect)) == some x || ((s.ctx i).gap.reserved.map (·.sect)) == some x
    || ((s.memberOf i).map (·.entry.sect)) == some x

/-- A reservation on the section is released, and an entry for it removed; the crossing goes on (R88). -/
def State.stripTarget (s : State) (i : Slot) (x : SectionId) : State :=
  let t := if ((s.ctx i).gap.reserved.map (·.sect)) == some x then s.setGap i { (s.ctx i).gap with feeder := none } else s
  if ((t.memberOf i).map (·.entry.sect)) == some x then t.dropEntry i else t

/-- The isolation consequences on one context (R87, R88). -/
def State.isolateContext (x : SectionId) (s : State) (i : Slot) : State :=
  let c := s.ctx i
  match c.state with
  | .drawing => if (c.hold.map (·.sect)) == some x then s.startDrop i .isolated s.globals.ordinaryDrop else s
  | .offered => if (c.hold.map (·.sect)) == some x then (s.giveUp i .tracked).refuse i .sectionDown else s
  | .queued => if ((s.memberOf i).map (·.entry.sect)) == some x then (s.giveUp i .tracked).refuse i .sectionDown else s
  | .dropping => s.stripTarget i x
  | .crossing => s.stripTarget i x
  | .free => s
  | .tracked => s
  | .faulted => s

/-- Arbitration on the feeder of a section in the active bank, if it has one. -/
def State.arbitrateSection (s : State) (x : SectionId) : State :=
  match s.feederOf x with
  | some f => s.arbitrate f
  | none => s

/-- The section's own record on entering ISOLATED (R119). -/
def State.lockOut (s : State) (x : SectionId) : State :=
  s.modSec x (fun r =>
    { r with state := .isolated, lockout := true, raiseOrigin := none, raiseTimer := none, idleTimer := none
             standbyTimer := none, command := some .opening })

/-- The section enters ISOLATED: its record, the consequences in ascending slot order, then arbitration on its
feeder where something referred to it (R87, R119). -/
def State.isolate (s : State) (x : SectionId) : State :=
  let t := (s.lockOut x).eachSlot (State.isolateContext x)
  if allSlots.any (fun i => s.refersTo i x) then t.arbitrateSection x else t

/-! ### The end of a raise and SSU status (R115, R116, R118) -/

/-- A raise completes: ENERGISED, the idle timer starting without a holder, then arbitration (R115). -/
def State.completeRaise (s : State) (x : SectionId) : State :=
  let idle := if s.hasHolder x then none else codeTimer (s.entry x).idleCode
  (s.modSec x (fun r => { r with state := .energised, raiseOrigin := none, raiseTimer := none, idleTimer := idle })).arbitrateSection x

/-- The value of RESTORE_FAIL: the cause and the raise origin (R116). -/
def restoreFailValue (ssuFault : Bool) (origin : Option RaiseOrigin) : Nat :=
  (if ssuFault then 2 else 0) + (if origin = some .standby then 1 else 0)

/-- A raise fails: the section is isolated, then RESTORE_FAIL is reported (R116). -/
def State.failRaise (s : State) (x : SectionId) (ssuFault : Bool) : State :=
  (s.isolate x).report .restoreFail x.val (restoreFailValue ssuFault (s.sec x).raiseOrigin)

/-- SECTION_MISMATCH with the section's load before any consequences (R118). -/
def State.reportMismatch (s : State) (x : SectionId) (load : Nat) : State := s.report .sectionMismatch x.val load

/-- A status report is stored and taken by the section's state (R118). -/
def State.takeStatus (s : State) (x : SectionId) (u : SsuStatus) : State :=
  let s1 := s.modSec x (fun r => { r with ssu := some u })
  let load := s.load x
  let sound := u.closed && u.voltage && !u.fault
  match (s.sec x).state with
  | .energised => if sound then s1 else (s1.isolate x).reportMismatch x load
  | .idle =>
    if sound then s1
    else if u.fault then (s1.isolate x).reportMismatch x load
    else (s1.openToStandby x).reportMismatch x load
  | .raising =>
    if sound then s1.completeRaise x
    else if u.fault then s1.failRaise x true
    else s1
  | .standby =>
    if u.fault then (s1.isolate x).reportMismatch x load
    else if u.closed then (s1.writeOpen x).reportMismatch x load
    else s1
  | .isolated =>
    if u.fault then
      let s2 := s1.modSec x (fun r => { r with lockout := true })
      let s3 := if u.closed then s2.writeOpen x else s2
      if (s.sec x).lockout then s3 else s3.reportMismatch x load
    else if u.closed then (s1.writeOpen x).reportMismatch x load
    else s1

/-! ### Feeder changes (R117) -/

/-- A feeder goes from ONLINE to SUSPECT: its raises are abandoned (R117). -/
def State.sectionsSuspect (s : State) (f : FeederId) : State :=
  s.eachSection (fun t x => if t.feederOf x == some f && (t.sec x).state == .raising then t.openToStandby x else t)

/-- The section is RAISING, ENERGISED or IDLE. -/
def SectionRec.closedOrClosing (r : SectionRec) : Bool := r.state == .raising || r.state == .energised || r.state == .idle

/-- A feeder goes to OFFLINE or TRIPPED: its sections are opened (R117). -/
def State.sectionsDown (s : State) (f : FeederId) : State :=
  s.eachSection (fun t x => if t.feederOf x == some f && (t.sec x).closedOrClosing then t.openToStandby x else t)

/-- A feeder goes to ONLINE: its IDLE and STANDBY sections with a holder are woken (R117). -/
def State.sectionsBack (s : State) (f : FeederId) : State :=
  s.eachSection (fun t x => if t.feederOf x == some f && t.hasHolder x then t.wake x else t)

/-- The check of one section at the completion of a swap (R117). -/
def State.sectionAfterSwap (s : State) (x : SectionId) : State :=
  match (s.sec x).state with
  | .raising => if s.feederStateOf x == .online then s else s.openToStandby x
  | .energised => if (s.entry x).valid && (s.feederStateOf x == .offline || s.feederStateOf x == .tripped) then s.openToStandby x else s
  | .idle => if (s.entry x).valid && (s.feederStateOf x == .offline || s.feederStateOf x == .tripped) then s.openToStandby x else s
  | .standby => s
  | .isolated => s

/-- The check of every section at the completion of a swap (R117). -/
def State.sectionsAfterSwap (s : State) : State := s.eachSection State.sectionAfterSwap

/-! ### Ramp stop and resume (R105, R122 to R125) -/

/-- The ramp stop on one context (R105, R123). -/
def State.stopContext (s : State) (i : Slot) : State :=
  match (s.ctx i).state with
  | .drawing => s.withdrawNow i .stop .tracked
  | .dropping => s.withdrawNow i .stop (if (s.ctx i).dropReason = some .fault then .faulted else .tracked)
  | .offered => s.withdrawNow i .stop .tracked
  | .crossing => s.withdrawNow i .stop .tracked
  | .queued => (s.giveUp i .tracked).refuse i .stopped
  | .tracked => s
  | .faulted => s
  | .free => s

/-- The context receives a WDR STOP or an RFS STOPPED in a ramp stop (R124). -/
def Context.toldOfStop (c : Context) : Bool :=
  match c.state with
  | .drawing => true
  | .dropping => true
  | .offered => true
  | .crossing => true
  | .queued => true
  | .tracked => false
  | .faulted => false
  | .free => false

/-- The ramp stop on one section: ISOLATED with OPEN written, lockout kept (R124). -/
def State.stopSection (s : State) (x : SectionId) : State :=
  s.modSec x (fun r =>
    { r with state := .isolated, raiseOrigin := none, raiseTimer := none, idleTimer := none, standbyTimer := none
             command := some .opening })

/-- A ramp stop up to its event: admission STOPPED, every context, every section, RAMP_STOP with the number of
contexts told (R123, R124). -/
def State.takeRampStop (s : State) (subject : Nat) : State :=
  let told := (allSlots.filter (fun i => (s.ctx i).toldOfStop)).length
  let t := (({ s with admission := Admission.stopped } : State).eachSlot State.stopContext).eachSection State.stopSection
  t.report .rampStop subject told

/-- An ISOLATED section without lockout (R125). -/
def SectionRec.unlocked (r : SectionRec) : Bool := r.state == .isolated && !r.lockout

/-- Admission opens: every unlocked ISOLATED section goes to STANDBY, and RAMP_RESUMED counts them (R125). -/
def State.takeRampResume (s : State) : State :=
  let moved := (allSections.filter (fun x => (s.sec x).unlocked)).length
  let t := ({ s with admission := Admission.running } : State).eachSection (fun t x =>
    if (t.sec x).unlocked then t.modSec x (fun r => { r with state := .standby }) else t)
  t.report .rampResumed 0 moved

end Sys2Proof.Machine
end

