-- ==== Sys2Proof/Machine/Admission.lean ====
section
/-! DEFINITION. The admission engine: class resolution, draw requests, acceptances, releases, drops, and its part of a position report (R31, R32, Chapter 3). -/

namespace Sys2Proof.Machine
open Sys2Proof

/-! ### Fleet classes (R31, R32) -/

/-- A class entry matches a truck id (R31). -/
def ClassEntry.matchesTruck (e : ClassEntry) (truck : Byte) : Bool :=
  e.valid && (truck &&& e.mask) == (e.matchBits &&& e.mask)

/-- The entry of the class table. -/
def State.classEntry (s : State) (k : Fin 8) : ClassEntry := s.classes[k]

/-- Class resolution (R31). -/
def State.resolveClass (s : State) (truck : Byte) : TruckClass :=
  match (List.finRange 8).find? (fun k => (s.classEntry k).matchesTruck truck) with
  | some k =>
    let e := s.classEntry k
    { index := some k, level := e.base, cap := e.cap, maxHold := e.maxHold, holdThrough := e.holdThrough }
  | none => TruckClass.default s.globals.defaultCap

/-- The effective level of a request (R32). -/
def State.effectiveLevel (s : State) (i : Slot) : Level :=
  let c := s.ctx i
  if c.cls.level == .one || (s.globals.promote == 1 && c.pos.loaded && c.pos.heading == .up) then .one else .two

/-! ### Where a request or an entry may be placed -/

/-- What a resolution gives a request: a refusal, or a section and its feeder. -/
inductive Placement where
  | refused (r : Refuse)
  | placed (x : SectionId) (f : FeederId)
deriving DecidableEq, Repr

/-- The placement of a resolution (R18, R45, R49, R55, R63, R100): a section that is ISOLATED, then one whose
feeder is OFFLINE or TRIPPED, is refused; a section with no feeder counts as one whose feeder is down (R7). -/
def State.place (s : State) (r : Resolution) : Placement :=
  match r with
  | .gap _ => .refused .inGap
  | .offMap => .refused .offMap
  | .sect x =>
    if (s.sec x).state == .isolated then .refused .sectionDown
    else
      match s.feederOf x with
      | none => .refused .feederDown
      | some f => if (s.fdr f).state == .online || (s.fdr f).state == .suspect then .placed x f else .refused .feederDown

/-! ### Amount checks (R43) -/

/-- What a draw request carries (R42). -/
structure Terms where
  tag : Byte
  requested : Nat
  minimum : Nat
  hold : Nat
deriving DecidableEq, Repr

/-- The amount checks against a class: the terms as clipped, or none where they are refused (R43). -/
def Terms.checked (t : Terms) (k : TruckClass) : Option Terms :=
  if t.requested = 0 ∨ t.requested < t.minimum then none
  else
    let requested := min t.requested k.cap
    let minimum := if t.minimum = 0 then requested else t.minimum
    if k.cap < minimum then none
    else some { t with requested := requested, minimum := minimum
                       hold := if t.hold = 0 ∨ k.maxHold < t.hold then k.maxHold else t.hold }

/-- The request fields are replaced by accepted terms and a level (R41). -/
def State.setRequest (s : State) (i : Slot) (t : Terms) (l : Level) : State :=
  s.modCtx i (fun c =>
    { c with req := { tag := some t.tag, requested := t.requested, minimum := t.minimum, hold := some t.hold, level := l } })

/-! ### Direct grants and deferrals (R46) -/

/-- The conditions of a direct grant (R46, R101). -/
def State.grantsDirect (s : State) (i : Slot) (f : FeederId) (x : SectionId) : Bool :=
  (s.fdr f).noneWait && (s.sec x).state == .energised && (s.fdr f).state == .online
    && !s.wouldConflict i x f && s.fits i f x

/-- A direct grant of the fitted amount: committed, DRAWING, the tail of the grant order list, the expiry started
(R46, R71, R101). -/
def State.grantDirect (s : State) (i : Slot) (f : FeederId) (x : SectionId) (expiry : Timer) : State :=
  ((s.setHold i (some ⟨s.candidate i f x, f, x⟩)).joinOrder i f).modCtx i (fun c =>
    { c.settled .drawing with levelAtGrant := some c.req.level, grantExpiry := expiry })

/-- A hold time as a timer. -/
def Request.holdTimer (r : Request) : Timer := seconds (r.hold.getD 0)

/-- A request that passed every check of R45 is accepted (R46). -/
def State.acceptRequest (s : State) (i : Slot) (t : Terms) (l : Level) (x : SectionId) (f : FeederId) : State :=
  let w := (s.setRequest i t l).wake x
  if w.grantsDirect i f x then (w.grantDirect i f x (seconds t.hold)).sendGrt i t.tag
  else ((w.queueAt i f l x .ordinary).arbitrate f).deferIfQueued i t.tag

/-- Refuse a frame of a context's truck under the frame's tag (R147). -/
def State.answer (s : State) (i : Slot) (tag : Byte) (r : Refuse) : State :=
  s.refuseTruck (s.ctx i).address tag r

/-- The checks of R45 on the stored position. -/
def State.placeRequest (s : State) (i : Slot) : Placement :=
  let p := (s.ctx i).pos
  match p.resolution with
  | .sect _ => if p.approach.isSome then .refused .inGap else s.place p.resolution
  | .gap _ => .refused .inGap
  | .offMap => .refused .offMap

/-- A DRQ taken in TRACKED (R45, R46). -/
def State.requestFromTracked (s : State) (i : Slot) (t : Terms) : State :=
  match s.placeRequest i with
  | .refused r => s.answer i t.tag r
  | .placed x f =>
    if (s.ctx i).holdFlag then s.answer i t.tag .held
    else
      match t.checked (s.ctx i).cls with
      | none => s.answer i t.tag .badAmount
      | some u => s.acceptRequest i u (s.effectiveLevel i) x f

/-- A DRQ with a new tag taken in QUEUED (R48). -/
def State.updateRequest (s : State) (i : Slot) (t : Terms) : State :=
  match s.memberOf i with
  | none => s
  | some m =>
    match t.checked (s.ctx i).cls with
    | none => ((s.giveUp i .tracked).answer i t.tag .badAmount).arbitrate m.feeder
    | some u => ((s.setRequest i u m.level).arbitrate m.feeder).deferIfQueued i t.tag

/-- A DRQ with a new tag taken in OFFERED (R53). -/
def State.declineAndAsk (s : State) (i : Slot) (t : Terms) : State :=
  match (s.ctx i).hold with
  | none => s
  | some h =>
    let l := s.effectiveLevel i
    match t.checked (s.ctx i).cls with
    | none => ((s.giveUp i .tracked).answer i t.tag .badAmount).arbitrate h.feeder
    | some u =>
      ((((s.giveUp i .tracked).setRequest i u l).queueAt i h.feeder l h.sect .ordinary).arbitrate h.feeder).deferIfQueued i t.tag

/-! ### Renewal (R56, R57) -/

/-- The whole increase of a renewal may be applied (R56). -/
def State.increaseFits (s : State) (h : Holding) (increase : Nat) : Bool :=
  decide (increase ≤ s.feederRoom h.feeder) && decide (increase ≤ s.sectionRoom h.sect)
    && (s.fdr h.feeder).state == .online && (s.fdr h.feeder).noneWait

/-- The amount of a grant after a renewal (R56). -/
def State.renewedAmount (s : State) (h : Holding) (requested : Nat) : Nat :=
  if requested ≤ h.amount then requested
  else if s.increaseFits h (requested - h.amount) then requested
  else h.amount

/-- The expiry of a renewed grant restarts where nobody waits or the class has hold-through (R57). -/
def State.settleExpiry (s : State) (i : Slot) (f : FeederId) (hold : Nat) : State :=
  if (s.fdr f).noneWait || (s.ctx i).cls.holdThrough then s.modCtx i (fun c => { c with grantExpiry := seconds hold }) else s

/-- A renewal that passed its checks: the amount, then the expiry, then GRT, then the arbitration of a reduction
(R56, R57, R76). -/
def State.renewGrant (s : State) (i : Slot) (h : Holding) (u : Terms) : State :=
  let s1 := s.setRequest i u (s.effectiveLevel i)
  let amount := s1.renewedAmount h u.requested
  let t := ((s1.setHold i (some { h with amount := amount })).settleExpiry i h.feeder u.hold).sendGrt i u.tag
  if amount < h.amount then t.arbitrate h.feeder else t

/-- A DRQ with a new tag taken in DRAWING (R38, R56). -/
def State.renew (s : State) (i : Slot) (t : Terms) : State :=
  match (s.ctx i).hold with
  | none => s
  | some h =>
    if (s.ctx i).holdFlag then s.answer i t.tag .held
    else
      match t.checked (s.ctx i).cls with
      | none => s.answer i t.tag .badAmount
      | some u => s.renewGrant i h u

/-! ### Frames from a truck with a context (R42, R52, R59) -/

/-- A tag equals the stored tag. -/
def Context.hasTag (c : Context) (tag : Byte) : Bool := c.req.tag == some tag

/-- A DRQ from a truck with a context, after its silence timer restarted (R42). -/
def State.takeDrq (s : State) (i : Slot) (t : Terms) : State :=
  let s1 := s.modCtx i (fun c => { c with cls := s.resolveClass c.address })
  if s1.admission == .running then
    match (s1.ctx i).state with
    | .tracked => s1.requestFromTracked i t
    | .queued => if (s1.ctx i).hasTag t.tag then s1.sendDfr i t.tag else s1.updateRequest i t
    | .offered => if (s1.ctx i).hasTag t.tag then s1.sendOfr i t.tag else s1.declineAndAsk i t
    | .drawing => if (s1.ctx i).hasTag t.tag then s1.sendGrt i t.tag else s1.renew i t
    | .dropping => s1.answer i t.tag .dropping
    | .crossing => s1.answer i t.tag .inGap
    | .faulted => s1.answer i t.tag .faulted
    | .free => s1
  else s1.answer i t.tag .stopped

/-- An offer becomes a grant (R52). -/
def State.acceptOffer (s : State) (i : Slot) (h : Holding) : State :=
  (s.joinOrder i h.feeder).modCtx i (fun c =>
    { c.settled .drawing with levelAtGrant := some c.req.level, grantExpiry := c.req.holdTimer })

/-- An ACC from a truck with a context (R52). -/
def State.takeAcc (s : State) (i : Slot) (tag : Byte) : State :=
  let c := s.ctx i
  if s.admission == .running && c.hasTag tag then
    match c.state, c.hold with
    | .offered, some h => (s.acceptOffer i h).sendGrt i tag
    | .drawing, some _ => s.sendGrt i tag
    | _, _ => s.answer i tag .stale
  else s.answer i tag .stale

/-- A context gives up everything and goes to TRACKED; arbitration runs on the feeders that lost something
(R25, R29, R38, R53, R59, R102). -/
def State.endHolding (s : State) (i : Slot) (st : CtxState) : State :=
  (s.giveUp i st).arbitrateOn (s.touches i)

/-! ### The end of a drop (R61, R63, R96) -/

/-- A drop for reason GAP completes into CROSSING; arbitration runs on the origin feeder, and on the feeder of an
entry the context holds (R61, R96). -/
def State.endGapDrop (s : State) (i : Slot) : State :=
  (s.enterCrossing i).arbitrateOn (fun f =>
    ((s.ctx i).hold.map (·.feeder)) == some f || ((s.memberOf i).map (·.feeder)) == some f)

/-- The requested amount becomes the amount of the dropped grant (R63). -/
def State.askForHeld (s : State) (i : Slot) : State :=
  s.modCtx i (fun c => { c with req := { c.req with requested := (c.hold.map (·.amount)).getD 0 } })

/-- A drop for reason SHED completes into a re-queue, a refusal, or TRACKED with the hold flag set (R38, R63). -/
def State.endShedDrop (s : State) (i : Slot) : State :=
  if (s.ctx i).holdFlag then s.endHolding i .tracked
  else
    let t := (s.askForHeld i).giveUp i .tracked
    match t.place (t.ctx i).pos.resolution with
    | .refused r => (t.refuse i r).arbitrateOn (s.touches i)
    | .placed x f =>
      let u := (t.queueAt i f (t.ctx i).req.level x .ordinary).wake x
      (u.arbitrateOn (fun g => s.touches i g || g == f)).deferIfQueued i (u.ctx i).tagByte

/-- A drop ends, on time or late: the grant is released and the context goes to the successor of its drop reason (R61). -/
def State.endDrop (s : State) (i : Slot) : State :=
  match (s.ctx i).dropReason with
  | some .gap => s.endGapDrop i
  | some .shed => s.endShedDrop i
  | some .fault => s.endHolding i .faulted
  | _ => s.endHolding i .tracked

/-- A REL from a truck with a context (R59). -/
def State.takeRel (s : State) (i : Slot) (tag : Byte) : State :=
  if (s.ctx i).hasTag tag then
    match (s.ctx i).state with
    | .drawing => (s.modCtx i (fun c => { c with strikes := c.strikes - 1 })).endHolding i .tracked
    | .queued => s.endHolding i .tracked
    | .offered => s.endHolding i .tracked
    | .dropping => s.endDrop i
    | .crossing => s.endHolding i .tracked
    | .tracked => s.answer i tag .stale
    | .faulted => s.answer i tag .stale
    | .free => s
  else s.answer i tag .stale

/-! ### Position reports (R49, R55, R61, R62, R64) -/

/-- An entry follows its context's last resolution, without the arbitration and DFR that follow (R18, R49). -/
def State.rehome (s : State) (i : Slot) : State :=
  match s.memberOf i with
  | none => s
  | some m =>
    match s.place (s.ctx i).pos.resolution with
    | .refused r => (s.giveUp i .tracked).refuse i r
    | .placed x f =>
      if f == m.feeder then (s.moveEntry i x).wake x
      else (s.queueAt i f m.level x .ordinary).wake x

/-- The entry goes to another feeder by `rehome` (R18, R49). -/
def State.rehomeMoves (s : State) (i : Slot) : Bool :=
  match s.memberOf i, s.place (s.ctx i).pos.resolution with
  | some m, .placed _ f => f != m.feeder
  | some _, .refused _ => false
  | none, _ => false

/-- The entry leaves its list by `rehome` (R18). -/
def State.rehomeLeaves (s : State) (i : Slot) : Bool :=
  match s.memberOf i, s.place (s.ctx i).pos.resolution with
  | some m, .placed _ f => f != m.feeder
  | some _, .refused _ => true
  | none, _ => false

/-- The feeders whose lists lose, gain or change an entry by `rehome`. -/
def State.rehomeTouches (s : State) (i : Slot) (f : FeederId) : Bool :=
  ((s.memberOf i).map (·.feeder)) == some f ||
    match s.place (s.ctx i).pos.resolution with
    | .placed _ g => g == f
    | .refused _ => false

/-- A report taken in QUEUED (R49). -/
def State.reportQueued (s : State) (i : Slot) : State :=
  match s.memberOf i with
  | none => s
  | some m =>
    if (s.ctx i).pos.resolution == .sect m.entry.sect then s
    else
      let t := (s.rehome i).arbitrateOn (s.rehomeTouches i)
      if s.rehomeMoves i then t.deferIfQueued i (s.ctx i).tagByte else t

/-- A report taken in OFFERED (R55). -/
def State.reportOffered (s : State) (i : Slot) : State :=
  match (s.ctx i).hold with
  | none => s
  | some h =>
    if (s.ctx i).pos.resolution == .sect h.sect then s
    else
      let t := s.giveUp i .tracked
      match t.place (t.ctx i).pos.resolution with
      | .refused r => (t.refuse i r).arbitrate h.feeder
      | .placed x f =>
        let u := (t.queueAt i f (t.ctx i).req.level x .carryOver).wake x
        (u.arbitrateOn (fun g => g == h.feeder || g == f)).deferIfQueued i (u.ctx i).tagByte

/-- A drawing truck's grant may move to a section (R64). -/
def State.canMove (s : State) (i : Slot) (h : Holding) (x : SectionId) : Bool :=
  s.feederOf x == some h.feeder && (s.sec x).state == .energised
    && decide ((s.ctx i).req.minimum ≤ s.sectionRoom x) && decide (0 < s.sectionRoom x)

/-- The grant moves to a section, reduced to its headroom where need be; GRT is sent, and a reduction is followed
by arbitration (R64). -/
def State.moveGrant (s : State) (i : Slot) (h : Holding) (x : SectionId) : State :=
  let amount := min h.amount (s.sectionRoom x)
  let t := (s.setHold i (some ⟨amount, h.feeder, x⟩)).sendGrt i (s.ctx i).tagByte
  if amount < h.amount then t.arbitrate h.feeder else t

/-- A report taken in DRAWING (R64); a resolution into a gap is left to the gap sequencer. -/
def State.reportDrawing (s : State) (i : Slot) : State :=
  match (s.ctx i).hold with
  | none => s
  | some h =>
    match (s.ctx i).pos.resolution with
    | .sect x =>
      if x == h.sect then s
      else if s.canMove i h x then s.moveGrant i h x
      else s.startDrop i .reposition s.globals.ordinaryDrop
    | .offMap => s.startDrop i .offMap s.globals.ordinaryDrop
    | .gap _ => s

/-- The report carries current above the zero threshold with the pantograph not lowered (R62, R93, R95). -/
def State.carriesCurrent (s : State) (i : Slot) : Bool :=
  decide (s.globals.zeroThreshold < (s.ctx i).pos.drawn) && (s.ctx i).pos.pantograph != .lowered

/-- A report taken in DROPPING: zero confirmation, or the WDR is set again (R61, R62). -/
def State.reportDropping (s : State) (i : Slot) : State :=
  if s.carriesCurrent i then
    match (s.ctx i).dropReason with
    | some r => s.setWithdraw i r false
    | none => s
  else s.endDrop i

/-- The admission engine's part of a position report, by the state of the context (R26 step 5). -/
def State.admissionReport (s : State) (i : Slot) : State :=
  match (s.ctx i).state with
  | .queued => s.reportQueued i
  | .offered => s.reportOffered i
  | .drawing => s.reportDrawing i
  | .dropping => s.reportDropping i
  | .crossing => s
  | .tracked => s
  | .faulted => s
  | .free => s

end Sys2Proof.Machine
end

