-- ==== Sys2Proof/Machine/Gap.lean ====
section
/-! DEFINITION. The gap sequencer: approach, reservation, arc risk, jump, exits, reversal and stall of a crossing (Chapter 5). -/

namespace Sys2Proof.Machine
open Sys2Proof

/-! ### Sides of a crossing (R90) -/

/-- The target section of an approach (R90). -/
def GapEntry.approachTarget (g : GapEntry) (h : Heading) : SectionId :=
  match h with
  | .down => g.lower
  | .up => g.upper
  | .stopped => g.upper

/-- The target section of a jump, from the grant's section (R90). -/
def GapEntry.jumpTarget (g : GapEntry) (held : SectionId) (h : Heading) : SectionId :=
  if held == g.lower then g.upper
  else if held == g.upper then g.lower
  else
    match h with
    | .down => g.lower
    | .up => g.upper
    | .stopped => g.upper

/-- The origin section of a crossing with a target (R90). -/
def GapEntry.originOf (g : GapEntry) (target : SectionId) : SectionId :=
  if target == g.upper then g.lower else g.upper

/-- A report on the origin side lies in the origin-side zone and does not head away from the gap (R90, R97). -/
def GapEntry.stillBefore (g : GapEntry) (target : SectionId) (h : Heading) (c : Nat) : Bool :=
  if target == g.upper then g.inLowerZone c && h != .down else g.inUpperZone c && h != .up

/-! ### Reservation (R92) -/

/-- The level at grant of a crossing context. -/
def Context.grantLevel (c : Context) : Level := c.levelAtGrant.getD c.req.level

/-- The list of a level holds no eligible carry-over entry (R92). -/
def State.noCarryOver (s : State) (f : FeederId) (l : Level) : Bool :=
  ((s.fdr f).wait l).all (fun e => !(e.mark == .carryOver && s.eligible f e))

/-- The conditions of a reservation on a placed target (R92). -/
def State.canReserve (s : State) (i : Slot) (x : SectionId) (f : FeederId) : Bool :=
  (s.fdr f).state == .online && !s.swapPending && s.noCarryOver f (s.ctx i).grantLevel && s.reserveFits i f x

/-- The reservation attempt: a reservation, a carry-over entry, or neither (R92). The arbitration that follows an
entry is run by the caller. -/
def State.tryReserve (s : State) (i : Slot) : State :=
  match (s.ctx i).gap.target with
  | none => s
  | some x =>
    match s.place (.sect x) with
    | .refused _ => s
    | .placed x f =>
      if s.canReserve i x f then s.makeReservation i f
      else s.addEntry i f (s.ctx i).grantLevel x .carryOver

/-- The gap fields of an approach or jump: the crossing amount is the grant's, the carried hold starts with the
time left on the grant expiry (R91 step 1, R95 step 1). -/
def Context.startCrossing (c : Context) (g : GapId) (target : SectionId) (amount : Nat) : GapFields :=
  { gapId := some g, target := some target, amount := amount, feeder := none
    crossing := none, carried := c.grantExpiry, arcReported := false }

/-- The feeder of a context's entry. -/
def State.entryOn (s : State) (i : Slot) (f : FeederId) : Bool := ((s.memberOf i).map (·.feeder)) == some f

/-- An approach: the gap fields, the gap withdrawal, the wake, the reservation attempt (R91). -/
def State.approachGap (s : State) (i : Slot) (g : GapId) (h : Holding) : State :=
  let target := (s.gapEntry g).approachTarget (s.ctx i).pos.heading
  let t := ((((s.setGap i ((s.ctx i).startCrossing g target h.amount)).startDrop i .gap s.globals.gapDrop).wake target).tryReserve i)
  t.arbitrateOn (t.entryOn i)

/-! ### Arc risk (R93) -/

/-- The report stands where the catenary is interrupted for this context (R93). -/
def State.inArcPlace (s : State) (i : Slot) : Bool :=
  let c := s.ctx i
  match c.pos.resolution with
  | .gap g => !(s.gapEntry g).bridgeable
  | .sect x => c.dropsForGap && c.gap.target == some x
  | .offMap => false

/-- ARC_RISK is reported and the flag set (R93, R95 step 5). -/
def State.reportArc (s : State) (i : Slot) : State :=
  let t := s.report .arcRisk (s.ctx i).address.toNat (s.ctx i).pos.drawn
  t.setGap i { (t.ctx i).gap with arcReported := true }

/-- The arc risk test on a DROPPING or CROSSING context (R93). -/
def State.arcTest (s : State) (i : Slot) : State :=
  if !(s.ctx i).gap.arcReported && s.carriesCurrent i && s.inArcPlace i then (s.reportArc i).strike i else s

/-! ### Jump (R95) -/

/-- Steps 1 to 4 of a jump: the gap fields, the withdrawal with deadline 0, CROSSING, the wake and the reservation
attempt (R95). -/
def State.beginJump (s : State) (i : Slot) (g : GapId) (h : Holding) : State :=
  let target := (s.gapEntry g).jumpTarget h.sect (s.ctx i).pos.heading
  let t := ((s.setGap i ((s.ctx i).startCrossing g target h.amount)).enterCrossing i).setWithdraw i .gap true
  (t.wake target).tryReserve i

/-- A jump into a gap, and the arbitration on the origin feeder, on the feeder of an entry made, and on what a
strike took from (R95). -/
def State.jumpGap (s : State) (i : Slot) (g : GapId) (h : Holding) : State :=
  let t := s.beginJump i g h
  if s.carriesCurrent i then
    let u := t.reportArc i
    (u.strikeQuiet i).arbitrateOn (fun f =>
      f == h.feeder || t.entryOn i f || (u.strikeFaults i && u.faultTouches i f))
  else t.arbitrateOn (fun f => f == h.feeder || t.entryOn i f)

/-! ### Exits (R98 to R102) -/

/-- The request fields are set from the crossing (R98). -/
def State.askForCrossing (s : State) (i : Slot) : State :=
  s.modCtx i (fun c =>
    { c with req := { c.req with requested := c.gap.amount, minimum := min c.req.minimum c.gap.amount, level := c.grantLevel } })

/-- The expiry of a grant that ends a crossing: the time left on the carried hold, or the class maximum (R98). -/
def Context.crossedExpiry (c : Context) : Timer :=
  match c.gap.carried with
  | some n => some n
  | none => seconds c.cls.maxHold

/-- With the hold flag set an exit that would queue gives RFS HELD and TRACKED instead (R99 to R101). On an exit into
the target the request fields then stay as they were, since R98 sets them for a crossing that ends in QUEUED (log 25). -/
def State.exitHeld (s : State) (i : Slot) : State := (s.giveUp i .tracked).refuse i .held

/-- The context goes to QUEUED with a carry-over entry, and the section is woken (R99 to R101, R113). -/
def State.exitQueued (s : State) (i : Slot) (f : FeederId) (x : SectionId) : State :=
  let l := (s.ctx i).grantLevel
  ((s.giveUp i .tracked).queueAt i f l x .carryOver).wake x

/-- A reservation turns into a grant (R99). -/
def State.exitGranted (s : State) (i : Slot) (r : Holding) : State :=
  let expiry := (s.ctx i).crossedExpiry
  let l := (s.ctx i).levelAtGrant
  ((((s.setHold i (some r)).setGap i GapFields.clear).joinOrder i r.feeder).modCtx i (fun c =>
    { c.settled .drawing with levelAtGrant := l, grantExpiry := expiry })).sendGrt i (s.ctx i).tagByte

/-- An exit into the target with a reservation (R99, R13). With the hold flag set and no grant the request fields are not
set from the crossing (log 25). -/
def State.exitReserved (s : State) (i : Slot) (r : Holding) : State :=
  if (s.sec r.sect).state == .energised && !s.wouldConflict i r.sect r.feeder then s.exitGranted i r
  else if (s.ctx i).holdFlag then (s.exitHeld i).arbitrate r.feeder
  else (((s.askForCrossing i).exitQueued i r.feeder r.sect).arbitrate r.feeder).deferIfQueued i (s.ctx i).tagByte

/-- An exit into the target with an entry (R100): the entry keeps its list, its place and its mark. -/
def State.exitEntry (s : State) (i : Slot) (m : Membership) : State :=
  if (s.ctx i).holdFlag then (s.exitHeld i).arbitrate m.feeder
  else
    let t := ((s.askForCrossing i).setGap i GapFields.clear).modCtxTold i (fun c => c.settled .queued)
    ((t.wake m.entry.sect).arbitrate m.feeder).deferIfQueued i (s.ctx i).tagByte

/-- An exit into the target with neither (R100). -/
def State.exitEmpty (s : State) (i : Slot) (x : SectionId) : State :=
  match s.place (.sect x) with
  | .refused r => (s.giveUp i .tracked).refuse i r
  | .placed x f =>
    if (s.ctx i).holdFlag then s.exitHeld i
    else (((s.askForCrossing i).exitQueued i f x).arbitrate f).deferIfQueued i (s.ctx i).tagByte

/-- An exit into the target section (R99, R100). -/
def State.exitTarget (s : State) (i : Slot) (x : SectionId) : State :=
  match (s.ctx i).gap.reserved, s.memberOf i with
  | some r, _ => s.exitReserved i r
  | none, some m => s.exitEntry i m
  | none, none => s.exitEmpty i x

/-- What the context holds on the target feeder is released; the gap fields stand for the decision that follows (R101). -/
def State.dropTarget (s : State) (i : Slot) : State :=
  (s.dropEntry i).setGap i { (s.ctx i).gap with feeder := none }

/-- A reversal grant of the fitted amount (R101). -/
def State.reverseGranted (s : State) (i : Slot) (f : FeederId) (x : SectionId) : State :=
  let expiry := (s.ctx i).crossedExpiry
  ((s.setGap i GapFields.clear).grantDirect i f x expiry).sendGrt i (s.ctx i).tagByte

/-- The decision on the origin side (R101). -/
def State.decideOrigin (s : State) (i : Slot) (x : SectionId) : State :=
  match s.place (.sect x) with
  | .refused r => (s.giveUp i .tracked).refuse i r
  | .placed x f =>
    if s.grantsDirect i f x then s.reverseGranted i f x
    else if (s.ctx i).holdFlag then s.exitHeld i
    else ((s.exitQueued i f x).arbitrate f).deferIfQueued i (s.ctx i).tagByte

/-- A reversal: the target side is released and arbitrated first (R101). -/
def State.reversal (s : State) (i : Slot) (x : SectionId) : State :=
  (((s.dropTarget i).arbitrateOn (s.targetTouches i)).askForCrossing i).decideOrigin i x

/-- An exit into a section, by its place in the crossing (R99 to R102). -/
def State.exitInto (s : State) (i : Slot) (e : GapEntry) (target x : SectionId) : State :=
  if x == target then s.exitTarget i x
  else if x == e.originOf target then s.reversal i x
  else s.endHolding i .tracked

/-- A report taken in CROSSING (R97). -/
def State.reportCrossing (s : State) (i : Slot) : State :=
  let c := s.ctx i
  match c.pos.resolution, c.gap.gapId, c.gap.target with
  | .gap _, _, _ => s.arcTest i
  | .sect x, some g, some target =>
    let e := s.gapEntry g
    if x == e.originOf target && e.stillBefore target c.pos.heading c.pos.chainage then s
    else s.exitInto i e target x
  | _, _, _ => s.endHolding i .tracked

/-- A report taken in DRAWING, after the admission engine (R91, R95, R104). -/
def State.gapDrawing (s : State) (i : Slot) : State :=
  let c := s.ctx i
  match c.pos.resolution, c.hold, c.pos.approach with
  | .gap g, some h, _ => if (s.gapEntry g).bridgeable then s else s.jumpGap i g h
  | .sect _, some h, some g => s.approachGap i g h
  | _, _, _ => s

/-- The gap sequencer's part of a position report, by the state the admission engine left (R26 step 5, R94). -/
def State.gapReport (s : State) (i : Slot) : State :=
  match (s.ctx i).state with
  | .drawing => s.gapDrawing i
  | .dropping => s.arcTest i
  | .crossing => s.reportCrossing i
  | .free => s
  | .tracked => s
  | .queued => s
  | .offered => s
  | .faulted => s

/-- The crossing stalls (R103). -/
def State.stall (s : State) (i : Slot) : State :=
  let g := ((s.ctx i).gap.gapId.map (·.val)).getD 0
  ((s.giveUp i .tracked).report .gapStall (s.ctx i).address.toNat g).arbitrateOn (s.touches i)

end Sys2Proof.Machine
end

