-- ==== Sys2Proof/Machine/Swap.lean ====
section
/-! DEFINITION. The bank swap: the RECONFIG treatment, completion with re-homing, cancel and abandonment (R10 to R20). -/

namespace Sys2Proof.Machine
open Sys2Proof

/-! ### The RECONFIG treatment (R15, R16) -/

/-- The treatment of a context in conflict with a forced swap, by its state (R15). -/
def State.reconfig (s : State) (i : Slot) : State :=
  match (s.ctx i).state with
  | .drawing => s.startDrop i .reconfig s.globals.ordinaryDrop
  | .offered => (s.giveUp i .tracked).refuse i .stale
  | .dropping => if (s.ctx i).dropsForGap then s.redirectDrop i .reconfig else s
  | .crossing => s.withdrawNow i .reconfig .tracked
  | .free => s
  | .tracked => s
  | .queued => s
  | .faulted => s

/-- The feeders that the treatment takes committed current or an entry from. -/
def State.reconfigTouches (s : State) (i : Slot) (f : FeederId) : Bool :=
  match (s.ctx i).state with
  | .drawing => false
  | .offered => s.touches i f
  | .dropping => (s.ctx i).dropsForGap && s.targetTouches i f
  | .crossing => s.touches i f
  | .free => false
  | .tracked => false
  | .queued => false
  | .faulted => false

/-- While the swap state is PENDING_FORCED, a context that a report brought into conflict is withdrawn (R16). -/
def State.reconfigReport (s : State) (i : Slot) : State :=
  if s.swap == .pendingForced && s.inConflict i then (s.reconfig i).arbitrateOn (s.reconfigTouches i) else s

/-- Every context in conflict at the request is withdrawn, in ascending slot order, then arbitration runs (R15). The order is
the model's choice (log 30). -/
def State.reconfigAll (s : State) : State :=
  (s.eachSlot (fun t i => if s.inConflict i then t.reconfig i else t)).arbitrateOn
    (fun f => allSlots.any (fun i => s.inConflict i && s.reconfigTouches i f))

/-! ### Completion (R17, R18) -/

/-- The selector flips and the swap ends (R17). -/
def State.flip (s : State) : State :=
  { s with active := s.active.other, swap := SwapState.none, swapTimer := none }

/-- The last chainage of an allocated context is resolved anew (R17). -/
def State.resettle (s : State) (i : Slot) : State :=
  let c := s.ctx i
  if c.state == .free then s
  else
    let r := s.resolve c.pos.chainage
    s.modCtx i (fun c => { c with pos := { c.pos with resolution := r, approach := s.approachOf c.pos.heading r c.pos.chainage } })

/-- A QUEUED context is re-homed (R18). -/
def State.rehomeQueued (s : State) (i : Slot) : State :=
  if (s.ctx i).state == .queued then s.rehome i else s

/-- DFR for a context that re-homing moved to another feeder, unless the arbitration selected it (R18, R47). -/
def State.tellRehomed (moved : Slot → Bool) (s : State) (i : Slot) : State :=
  if moved i then s.deferIfQueued i (s.ctx i).tagByte else s

/-- The swap completes: the flip, every context resolved anew, the sections checked, the QUEUED contexts re-homed in
ascending slot order, SWAP_DONE, arbitration on every feeder, the DFRs (R17, R18, R117). -/
def State.completeSwap (s : State) : State :=
  let t := (s.flip.eachSlot State.resettle).sectionsAfterSwap
  let moved := fun i => (t.ctx i).state == .queued && t.rehomeMoves i
  let left := (allSlots.filter (fun i => (t.ctx i).state == .queued && t.rehomeLeaves i)).length
  let u := (t.eachSlot State.rehomeQueued).report .swapDone t.active.code left
  u.arbitrateAll.eachSlot (State.tellRehomed moved)

/-- The completion condition is evaluated (R12). -/
def State.evalSwap (s : State) : State :=
  if s.swapPending && s.conflicts == 0 then s.completeSwap else s

/-! ### Ends without a flip (R14, R19) -/

/-- The swap ends in NONE with the selector unchanged and arbitration runs on every feeder (R14, R19). -/
def State.abandonSwap (s : State) : State :=
  ({ s with swap := SwapState.none, swapTimer := none } : State).arbitrateAll

/-- The swap timer expires in PENDING: SWAP_TIMEOUT with the shadow bank and the conflicts, then arbitration (R14). -/
def State.timeoutSwap (s : State) : State :=
  (({ s with swap := SwapState.none, swapTimer := none } : State).report .swapTimeout s.active.other.code s.conflicts).arbitrateAll

/-- A swap begins: PENDING with its timer (R10, R14). -/
def State.beginSwap (s : State) : State :=
  ({ s with swap := SwapState.pending, swapTimer := seconds s.globals.swapTime } : State).evalSwap

/-- A forced swap begins: PENDING_FORCED, then the withdrawals of R15 (R10). -/
def State.beginForcedSwap (s : State) : State :=
  ({ s with swap := SwapState.pendingForced } : State).reconfigAll.evalSwap

end Sys2Proof.Machine
end

