-- ==== Sys2Proof/Machine/Trucks.lean ====
section
/-! DEFINITION. The context table: position reports, allocation, eviction, freeing, silence, truck orders, and the copies of truck traffic (R21 to R29, R35 to R39, R144, R151, R152). -/

namespace Sys2Proof.Machine
open Sys2Proof

/-! ### Freeing (R25) -/

/-- A context returns to FREE with everything it holds given up, without the arbitration that follows (R25). -/
def State.freeQuiet (s : State) (i : Slot) : State :=
  (((s.releaseHold i).setGap i GapFields.clear).dropEntry i).setCtx i Context.freed

/-- A context is freed, and arbitration runs on each feeder it took from (R25). -/
def State.freeCtx (s : State) (i : Slot) : State := (s.freeQuiet i).arbitrateOn (s.touches i)

/-! ### Copies to the C-link (R151, R152) -/

/-- What a position report carries (R146). -/
structure Report where
  tag : Byte
  chainage : Nat
  heading : Heading
  pantograph : Pantograph
  loaded : Bool
  drawn : Nat
deriving DecidableEq, Repr

/-- A resolution as PSA and CONTEXT_DATA carry it: kind and number (R157, R160). -/
def Resolution.bytes : Resolution → List Byte
  | .sect x => [0, byte x.val]
  | .gap g => [1, byte g.val]
  | .offMap => [2, 0]

/-- The granted amount in DRAWING and DROPPING, 0 in every other state (R151). -/
def Context.granted (c : Context) : Nat :=
  if c.state == .drawing || c.state == .dropping then (c.hold.map (·.amount)).getD 0 else 0

/-- A PSA frame (R151, R160). -/
def State.psaFrame (s : State) (truck : Byte) (p : Report) (r : Resolution) (slot : Nat) (st : CtxState) (amount : Nat) : Frame :=
  ⟨0x81, 0, s.cAddress, p.tag,
    [truck] ++ nat16 p.chainage ++ [byte (headingCode p.heading), byte (pantographCode p.pantograph), flagByte p.loaded]
      ++ nat16 p.drawn ++ r.bytes ++ [byte slot, byte st.code] ++ nat16 amount⟩

/-- The PSA of a report whose truck has no context after it: slot none, state FREE, amount 0 (R151). -/
def State.psaWithout (s : State) (truck : Byte) (p : Report) (r : Resolution) : State :=
  if s.globals.psaForward == 1 then s.offerC (s.psaFrame truck p r 255 .free 0) else s

/-- The PSA of a report taken by a context: the resolution of the report, the state and amount after its effects (R151). -/
def State.psaFor (s : State) (i : Slot) (p : Report) (r : Resolution) : State :=
  let c := s.ctx i
  if s.globals.psaForward == 1 then s.offerC (s.psaFrame c.address p r i.val c.state c.granted) else s

/-- The copy of a truck's DAT, the last byte of a 240-byte payload dropped (R152, R160). -/
def State.copyDat (s : State) (truck tag : Byte) (payload : List Byte) : State :=
  if s.globals.datForward == 1 then s.offerC ⟨0x82, 0, s.cAddress, tag, truck :: payload.take 239⟩ else s

/-! ### Frames from a truck (R29, R144) -/

/-- The silence timer restarts; the silence age and count become 0 (R29). -/
def State.heard (s : State) (i : Slot) : State :=
  s.modCtx i (fun c => { c with silenceTimer := seconds s.globals.silenceTime, silenceAge := 0, silenceCount := 0 })

/-- The position fields of a report with its resolution (R26 steps 1 and 2). -/
def State.settle (s : State) (i : Slot) (p : Report) (r : Resolution) : State :=
  s.modCtx i (fun c =>
    { c with pos :=
        { chainage := p.chainage, heading := p.heading, pantograph := p.pantograph, loaded := p.loaded, drawn := p.drawn
          resolution := r, approach := s.approachOf p.heading r p.chainage } })

/-- Overdraw is counted in DRAWING; the third in a row is reported and counts a strike (R27). -/
def State.countOverdraw (s : State) (i : Slot) : State :=
  let c := s.ctx i
  match c.state, c.hold with
  | .drawing, some h =>
    if h.amount + s.globals.overdrawMargin < c.pos.drawn then
      if 3 ≤ c.overdraw + 1 then
        ((s.report .overdraw c.address.toNat c.pos.drawn).modCtx i (fun c => { c with overdraw := 0 })).strike i
      else s.modCtx i (fun c => { c with overdraw := c.overdraw + 1 })
    else s.modCtx i (fun c => { c with overdraw := 0 })
  | _, _ => s

/-- Steps 4 to 7 of R26 on a settled report. -/
def State.actOnReport (s : State) (i : Slot) (p : Report) (r : Resolution) : State :=
  let t := (((s.countOverdraw i).admissionReport i).gapReport i).reconfigReport i
  ((t.approachWake i).psaFor i p r).evalSwap

/-- The report leaves the ramp: off-map with the pantograph lowered (R28). -/
def leavesRamp (p : Report) (r : Resolution) : Bool := r == .offMap && p.pantograph == .lowered

/-- A report from a truck with a context (R26, R28). -/
def State.takeReport (s : State) (i : Slot) (p : Report) : State :=
  let r := s.resolve p.chainage
  let t := (s.heard i).settle i p r
  if leavesRamp p r && (t.ctx i).state != .drawing then
    ((t.freeCtx i).psaWithout (s.ctx i).address p r).evalSwap
  else t.actOnReport i p r

/-! ### Allocation and eviction (R23, R24) -/

/-- A context is a candidate for eviction (R24). -/
def Context.evictable (c : Context) : Bool := c.state == .tracked && c.pos.pantograph == .lowered

/-- The slot of the greater silence age; the lower slot where they are equal (R24). -/
def State.longerSilent (s : State) (best : Option Slot) (i : Slot) : Option Slot :=
  match best with
  | none => some i
  | some b => if (s.ctx b).silenceAge < (s.ctx i).silenceAge then some i else some b

/-- The context to evict (R24). -/
def State.evictee (s : State) : Option Slot :=
  (allSlots.filter (fun i => (s.ctx i).evictable)).foldl s.longerSilent none

/-- The context of a truck newly allocated: TRACKED, with its class, every other field at its FREE value (R23). -/
def Context.newcomer (truck : Byte) (k : TruckClass) : Context :=
  { Context.freed with truck := some truck, cls := k, state := .tracked }

/-- A slot is allocated to a truck in TRACKED, every other field at its FREE value, its silence timer started (R23). -/
def State.allocate (s : State) (i : Slot) (truck : Byte) : State :=
  ((s.freeQuiet i).setCtx i (Context.newcomer truck (s.resolveClass truck))).heard i

/-- A new context takes its first report (R23). -/
def State.admitTruck (s : State) (i : Slot) (truck : Byte) (p : Report) (r : Resolution) : State :=
  ((s.allocate i truck).settle i p r).actOnReport i p r

/-- No slot and no candidate: RFS TABLE_FULL, the event, the PSA (R24). -/
def State.refuseTableFull (s : State) (truck : Byte) (p : Report) (r : Resolution) : State :=
  ((((s.refuseTruck truck p.tag .tableFull).report .tableFull truck.toNat 0).psaWithout truck p r)).evalSwap

/-- A report from a truck without a context (R23, R24). -/
def State.takeStranger (s : State) (truck : Byte) (p : Report) : State :=
  let r := s.resolve p.chainage
  if leavesRamp p r then (s.psaWithout truck p r).evalSwap
  else
    match s.freeSlot, s.evictee with
    | some i, _ => s.admitTruck i truck p r
    | none, some i => (s.freeCtx i).admitTruck i truck p r
    | none, none => s.refuseTableFull truck p r

/-- A PSN that passed the tests of its link (R23, R26). -/
def State.dispatchPsn (s : State) (truck : Byte) (p : Report) : State :=
  match s.slotOf truck with
  | some i => s.takeReport i p
  | none => s.takeStranger truck p

/-- A DRQ that passed the tests of its link (R23, R42). -/
def State.dispatchDrq (s : State) (truck : Byte) (t : Terms) : State :=
  match s.slotOf truck with
  | some i => ((s.heard i).takeDrq i t).evalSwap
  | none => s.refuseTruck truck t.tag .noPosition

/-- An ACC that passed the tests of its link (R23, R52). -/
def State.dispatchAcc (s : State) (truck tag : Byte) : State :=
  match s.slotOf truck with
  | some i => ((s.heard i).takeAcc i tag).evalSwap
  | none => s.refuseTruck truck tag .stale

/-- A REL that passed the tests of its link (R23, R59). -/
def State.dispatchRel (s : State) (truck tag : Byte) : State :=
  match s.slotOf truck with
  | some i => ((s.heard i).takeRel i tag).evalSwap
  | none => s.refuseTruck truck tag .stale

/-- A DAT that passed the tests of its link (R144, R152). -/
def State.dispatchDat (s : State) (truck tag : Byte) (payload : List Byte) : State :=
  match s.slotOf truck with
  | some i => (s.heard i).copyDat truck tag payload
  | none => s.copyDat truck tag payload

/-! ### Silence (R29) -/

/-- The silence count goes up and the timer restarts (R29). -/
def State.countSilence (s : State) (i : Slot) : State :=
  s.modCtx i (fun c =>
    { c with silenceCount := min 2 (c.silenceCount + 1), silenceTimer := seconds s.globals.silenceTime })

/-- The effect of a silence expiry, by the state of the context (R29). -/
def State.actOnSilence (s : State) (i : Slot) : State :=
  match (s.ctx i).state with
  | .drawing => ((s.withdrawNow i .silent .tracked).arbitrateOn (s.touches i)).strike i
  | .queued => s.endHolding i .tracked
  | .offered => s.endHolding i .tracked
  | .dropping => s
  | .crossing => s
  | .tracked => if (s.ctx i).silenceCount = 2 then s.freeCtx i else s
  | .faulted => if (s.ctx i).silenceCount = 2 then s.freeCtx i else s
  | .free => s

/-- The silence timer of a context expires (R29). -/
def State.silence (s : State) (i : Slot) : State := ((s.countSilence i).actOnSilence i).evalSwap

/-! ### Truck orders (R37 to R39) -/

/-- LOWER, by the state of the context (R37). -/
def State.orderLower (s : State) (i : Slot) : State :=
  match (s.ctx i).state with
  | .drawing => s.startDrop i .order s.globals.ordinaryDrop
  | .dropping =>
    if (s.ctx i).dropReason == some .fault then s.setWithdraw i .order false
    else (s.redirectDrop i .order).arbitrateOn (fun f => (s.ctx i).dropsForGap && s.targetTouches i f)
  | .queued => (s.withdrawNow i .order .tracked).arbitrateOn (s.touches i)
  | .offered => (s.withdrawNow i .order .tracked).arbitrateOn (s.touches i)
  | .crossing => (s.withdrawNow i .order .tracked).arbitrateOn (s.touches i)
  | .tracked => s.setWithdraw i .order true
  | .faulted => s.setWithdraw i .order true
  | .free => s

/-- The hold flag is set or cleared. -/
def State.setHoldFlag (s : State) (i : Slot) (b : Bool) : State := s.modCtx i (fun c => { c with holdFlag := b })

/-- A waiting request or an offer ends with RFS HELD (R38). -/
def State.endHeld (s : State) (i : Slot) : State :=
  ((s.giveUp i .tracked).refuse i .held).arbitrateOn (s.touches i)

/-- HOLD, by the state of the context; nothing changes where the flag is set already (R38). -/
def State.orderHold (s : State) (i : Slot) : State :=
  if (s.ctx i).holdFlag then s
  else
    match (s.ctx i).state with
    | .queued => (s.setHoldFlag i true).endHeld i
    | .offered => (s.setHoldFlag i true).endHeld i
    | _ => s.setHoldFlag i true

/-- A FAULTED context goes to TRACKED, and a drop with reason FAULT completes into TRACKED (R35, R39). -/
def Context.unfaulted (c : Context) : Context :=
  match c.state with
  | .faulted => { c with state := .tracked }
  | .dropping => { c with dropReason := if c.dropReason = some .fault then some .order else c.dropReason }
  | _ => c

/-- CLEAR_FAULT (R39). -/
def State.orderClearFault (s : State) (i : Slot) : State :=
  s.modCtx i (fun c => { c.unfaulted with strikes := 0, overdraw := 0 })

/-- A change of the exclusion setting, on one allocated context (R35). -/
def State.clearExclusion (s : State) (i : Slot) : State :=
  if (s.ctx i).state == .free then s else s.modCtx i (fun c => { c.unfaulted with strikes := 0 })

end Sys2Proof.Machine
end

