-- ==== Sys2Proof/Machine/Feeders.lean ====
section
/-! DEFINITION. Feeder states: trip consequences, meter silence and loss, return, overload and shedding (R79 to R86). -/

namespace Sys2Proof.Machine
open Sys2Proof

/-! ### Trip consequences (R84) -/

/-- The context's grant or offer is on the feeder. -/
def State.holdsOn (s : State) (i : Slot) (f : FeederId) : Bool := ((s.ctx i).hold.map (·.feeder)) == some f

/-- A reservation on the feeder is released and an entry on it removed; the context keeps its state (R84). -/
def State.stripFeeder (s : State) (i : Slot) (f : FeederId) : State :=
  let t := if ((s.ctx i).gap.reserved.map (·.feeder)) == some f then s.setGap i { (s.ctx i).gap with feeder := none } else s
  if t.entryOn i f then t.dropEntry i else t

/-- A drop on the feeder ends at once, by its reason (R84, R96). -/
def State.tripDrop (s : State) (i : Slot) (r : Reason) : State :=
  match (s.ctx i).dropReason with
  | some .gap => (s.enterCrossing i).setWithdraw i r true
  | some .fault => s.withdrawNow i r .faulted
  | _ => s.withdrawNow i r .tracked

/-- The trip consequences for feeder `f` with reason `r` on one context (R84). -/
def State.tripContext (f : FeederId) (r : Reason) (s : State) (i : Slot) : State :=
  match (s.ctx i).state with
  | .drawing => if s.holdsOn i f then s.withdrawNow i r .tracked else s
  | .dropping => (if s.holdsOn i f then s.tripDrop i r else s).stripFeeder i f
  | .offered => if s.holdsOn i f then (s.giveUp i .tracked).refuse i .feederDown else s
  | .queued => if s.entryOn i f then (s.giveUp i .tracked).refuse i .feederDown else s
  | .crossing => s.stripFeeder i f
  | .free => s
  | .tracked => s
  | .faulted => s

/-- The other feeders that hold the entry of a context whose gap drop on `f` the trip completes (R76, R84). -/
def State.tripFrees (s : State) (f g : FeederId) : Bool :=
  g != f && allSlots.any (fun i => (s.ctx i).dropsForGap && s.holdsOn i f && s.entryOn i g)

/-- The trip consequences: every context in ascending slot order, the turn counter 0, and arbitration on the feeders
of entries whose contexts went to CROSSING (R84). -/
def State.tripConsequences (s : State) (f : FeederId) (r : Reason) : State :=
  ((s.eachSlot (State.tripContext f r)).modFdr f (fun d => { d with turn := 0 })).arbitrateOn (s.tripFrees f)

/-! ### Leaving and entering ONLINE (R79 to R83) -/

/-- A feeder's state and timers are set as it leaves ONLINE or SUSPECT for good. -/
def State.stopFeeder (s : State) (f : FeederId) (st : FeederState) : State :=
  s.modFdr f (fun d => { d with state := st, overload := none, meterLost := none })

/-- FEEDER_CMD OFFLINE takes its effect (R80). -/
def State.feederOffline (s : State) (f : FeederId) : State :=
  if (s.fdr f).state == .offline then s
  else (((s.stopFeeder f .offline).tripConsequences f .feederDown).sectionsDown f).evalSwap

/-- The meter-lost timer expires in SUSPECT (R82). -/
def State.feederLost (s : State) (f : FeederId) : State :=
  ((((s.stopFeeder f .offline).report .feederOffline f.val (s.fdr f).committed).tripConsequences f .meterLost).sectionsDown f).evalSwap

/-- A feeder trips, up to its sections; the post-trip count and the swap follow (R83). -/
def State.feederTrip (s : State) (f : FeederId) : State :=
  (((s.stopFeeder f .tripped).report .feederTrip f.val (s.fdr f).committed).tripConsequences f .trip).sectionsDown f

/-- A feeder's meter falls silent (R81). -/
def State.feederSilent (s : State) (f : FeederId) : State :=
  if (s.fdr f).state == .online then
    ((s.modFdr f (fun d => { d with state := .suspect, meterLost := seconds d.config.meterLostTime })).report
      .feederSuspect f.val (s.fdr f).committed).sectionsSuspect f
  else s

/-- A feeder enters ONLINE: its meter-lost timer stops, its sections are told, arbitration runs (R79, R81). -/
def State.feederOnline (s : State) (f : FeederId) : State :=
  ((s.modFdr f (fun d => { d with state := .online, meterLost := none })).sectionsBack f).arbitrate f

/-! ### Overload (R85, R86) -/

/-- A measured current is compared with the feeder's capacity (R85). -/
def State.compareOverload (s : State) (f : FeederId) (current : Nat) : State :=
  s.modFdr f (fun d =>
    { d with overload :=
        if d.config.capacity < current then
          match d.overload with
          | some n => some n
          | none => tenths d.config.overloadCode
        else none })

/-- The newest grant of the feeder's order whose DRAWING context meets a test (R86). -/
def State.newest (s : State) (f : FeederId) (p : Context → Bool) : Option Slot :=
  ((s.fdr f).grantOrder.filter (fun i => (s.ctx i).state == .drawing && p (s.ctx i))).getLast?

/-- The shed victim: the first group that has a member (R86). -/
def State.victim (s : State) (f : FeederId) : Option Slot :=
  (s.newest f (fun c => c.levelAtGrant == some .two && !c.cls.holdThrough)).or
    ((s.newest f (fun c => c.levelAtGrant == some .one && !c.cls.holdThrough)).or
      (s.newest f (fun c => c.cls.holdThrough)))

/-- The measured current of the feeder's latest sample. -/
def State.latestCurrent (s : State) (f : FeederId) : Nat := ((s.meter f).latest.map (·.current)).getD 0

/-- The shed counter counts (R163). -/
def State.countShed (s : State) : State :=
  { s with counters := { s.counters with sheds := holdAdd s.counters.sheds 1 } }

/-- The overload timer stops, then restarts where the latest sample's current is above the capacity (R86). -/
def State.restartOverload (s : State) (f : FeederId) : State :=
  s.modFdr f (fun d =>
    { d with overload := if d.config.capacity < s.latestCurrent f then tenths d.config.overloadCode else none })

/-- The overload timer of a feeder expires: one shed, or OVERLOAD_SHED with subject 0 (R86). -/
def State.shed (s : State) (f : FeederId) : State :=
  match s.victim f with
  | some i =>
    (((s.startDrop i .shed s.globals.shedDrop).report .overloadShed (s.ctx i).address.toNat (s.latestCurrent f)).countShed).restartOverload f
  | none => (s.report .overloadShed 0 (s.latestCurrent f)).restartOverload f

end Sys2Proof.Machine
end

