-- ==== Sys2Proof/Machine/Meter.lean ====
section
/-! DEFINITION. The sample unit: the sample memory, the latest sample, the history rings, the step detector, and what a sample hands to the feeder (Chapter 7). -/

namespace Sys2Proof.Machine
open Sys2Proof

/-! ### Sample memory (R129, log 5) -/

/-- What an address that is not listed reads as. -/
def SampleEntry.zero : SampleEntry := { current := 0, voltage := 0, seq := 0 }

/-- The entry at an address. -/
def SampleMemory.read : SampleMemory → Nat → SampleEntry
  | [], _ => SampleEntry.zero
  | (b, e) :: m, a => if b = a then e else SampleMemory.read m a

/-- List an entry at an address among the others, or leave the address unlisted where the entry is the zero entry. -/
def SampleMemory.listed (a : Nat) (e : SampleEntry) (m : SampleMemory) : SampleMemory :=
  if e = SampleEntry.zero then m else (a, e) :: m

/-- Store an entry at an address, keeping the canonical form. -/
def SampleMemory.store : SampleMemory → Nat → SampleEntry → SampleMemory
  | [], a, e => SampleMemory.listed a e []
  | (b, d) :: m, a, e =>
    if a < b then SampleMemory.listed a e ((b, d) :: m)
    else if a = b then SampleMemory.listed a e m
    else (b, d) :: SampleMemory.store m a e

/-- The canonical form from an address on: strictly rising, no zero entry. -/
def SampleMemory.wfFrom : Nat → SampleMemory → Bool
  | _, [] => true
  | n, (b, e) :: m => decide (n ≤ b) && e != SampleEntry.zero && SampleMemory.wfFrom (b + 1) m

/-- The canonical form of the sample memory (log 5). -/
def SampleMemory.wf (m : SampleMemory) : Bool := SampleMemory.wfFrom 0 m

/-! ### Rings (R130, R133) -/

/-- The address of the entry at an offset from the newest (R133). -/
def Ring.address (r : Ring) (offset : Nat) : Nat :=
  r.desc.start + (r.writePos - r.desc.start + r.desc.length - 1 - offset) % r.desc.length

/-- The entry of a feeder's ring at an offset (R133). -/
def State.ringEntry (s : State) (f : FeederId) (offset : Nat) : SampleEntry :=
  s.samples.read ((s.ring f).address offset)

/-- A ring takes writes (R130). -/
def Ring.writes (r : Ring) : Bool := r.state == .recording || r.state == .postTrip

/-- The next write wraps the write position (R133). -/
def Ring.wraps (r : Ring) : Bool := r.writePos + 1 == r.desc.start + r.desc.length

/-- The ring after a write (R133). -/
def Ring.advanced (r : Ring) : Ring :=
  { r with writePos := if r.wraps then r.desc.start else r.writePos + 1
           fill := if r.fill < r.desc.length then r.fill + 1 else r.fill }

/-- A sample is written to a ring that takes it, and a wrap reported where one occurs (R126 step 4, R133). -/
def State.writeRing (s : State) (f : FeederId) (m : Sample) : State :=
  let r := s.ring f
  if r.writes then
    let t := ({ s with samples := s.samples.store r.writePos ⟨m.current, m.voltage, m.seq⟩ } : State).modRing f Ring.advanced
    if r.wraps && r.desc.wrap then t.report .ringWrap f.val r.desc.length else t
  else s

/-- The rise that the step detector finds, in the ring as it stands before the write (R126 step 3, R134). -/
def State.stepFound (s : State) (f : FeederId) (current : Nat) : Option Nat :=
  let r := s.ring f
  let older := (s.ringEntry f r.desc.distance).current
  if r.writes && decide (r.desc.distance < r.fill) && decide (older + r.desc.threshold < current) then some (current - older)
  else none

/-- A step found is reported, and freezes a RECORDING ring with freeze on step (R126 step 5, R134). -/
def State.actOnStep (s : State) (f : FeederId) (rise : Option Nat) : State :=
  match rise with
  | none => s
  | some n =>
    let t := s.report .stepDetect f.val n
    if (t.ring f).state == .recording && (t.ring f).desc.freeze then t.modRing f (fun r => { r with state := .frozen }) else t

/-- The ring freezes and RING_FROZEN is reported with its fill (R136). -/
def State.freezeRing (s : State) (f : FeederId) : State :=
  (s.modRing f (fun r => { r with state := .frozen, countdown := none })).report .ringFrozen f.val (s.ring f).fill

/-- The countdown of a POST_TRIP ring is lowered; at 0 the ring freezes (R126 step 6, R136). -/
def State.lowerCountdown (s : State) (f : FeederId) : State :=
  match (s.ring f).state, (s.ring f).countdown with
  | .postTrip, some n => if n ≤ 1 then s.freezeRing f else s.modRing f (fun r => { r with countdown := some (n - 1) })
  | _, _ => s

/-- The post-trip count starts (R136). -/
def State.startPostTrip (s : State) (f : FeederId) : State :=
  let r := s.ring f
  if r.state == .recording then
    if r.desc.postTrip = 0 then s.freezeRing f
    else s.modRing f (fun r => { r with state := .postTrip, countdown := some r.desc.postTrip })
  else s

/-- A ring in FROZEN or POST_TRIP returns to RECORDING with its contents kept (R137). -/
def Ring.released (r : Ring) : Ring :=
  if r.state == .frozen || r.state == .postTrip then { r with state := .recording, countdown := none } else r

/-- The ring under a written descriptor: an enabled ring that stays enabled keeps its working state; a ring enabled
or disabled begins anew (R131). -/
def Ring.rewritten (r : Ring) (d : RingDesc) : Ring :=
  if r.desc.enabled && d.enabled then { r with desc := d }
  else { desc := d, state := if d.enabled then .recording else .disabled, writePos := d.start, fill := 0, countdown := none }

/-- The ring after RESTART (R139). -/
def Ring.restarted (r : Ring) : Ring :=
  { r with state := if r.desc.enabled then .recording else .disabled, writePos := r.desc.start, fill := 0, countdown := none }

/-- Two rings share an address (R131 check 4). -/
def RingDesc.meets (a b : RingDesc) : Bool := decide (a.start < b.start + b.length) && decide (b.start < a.start + a.length)

/-- The written descriptor shares an address with another enabled ring (R131 check 4). -/
def State.ringOverlaps (s : State) (f : FeederId) (d : RingDesc) : Bool :=
  d.enabled && allFeeders.any (fun g => g != f && (s.ring g).desc.enabled && d.meets (s.ring g).desc)

/-- The written descriptor moves or resizes a ring that stays enabled (R131 check 3). -/
def Ring.moved (r : Ring) (d : RingDesc) : Bool :=
  r.desc.enabled && d.enabled && (d.start != r.desc.start || d.length != r.desc.length)

/-! ### A sample (R126) -/

/-- The time of the meter silence timer: 200 ms (R127). -/
def meterSilenceTime : Timer := some 200

/-- The number of sequences skipped (R128). -/
def skipped (prev seq : Byte) : Nat := (seq - prev - 1).toNat

/-- The missed-sample counter adds the sequences skipped since the previous latest sample (R128). -/
def State.countMissed (s : State) (f : FeederId) (prev : Option Sample) (seq : Byte) : State :=
  match prev with
  | none => s
  | some p =>
    { s with counters :=
        { s.counters with missed := s.counters.missed.set f (holdAdd (s.counters.missed[f]) (skipped p.seq seq)) } }

/-- The sample becomes the latest and the meter silence timer restarts (R126 step 1). -/
def State.storeLatest (s : State) (f : FeederId) (m : Sample) : State :=
  s.modMeter f (fun _ => { latest := some m, silence := meterSilenceTime })

/-- The breaker state and the current are taken by the feeder's state (R126 step 7, R81, R83, R85). -/
def State.feederSample (s : State) (f : FeederId) (m : Sample) : State :=
  match (s.fdr f).state, m.breaker with
  | .online, .closed => s.compareOverload f m.current
  | .suspect, .closed => (s.feederOnline f).compareOverload f m.current
  | .online, _ => ((s.feederTrip f).startPostTrip f).evalSwap
  | .suspect, _ => ((s.feederTrip f).startPostTrip f).evalSwap
  | .offline, _ => s
  | .tripped, _ => s

/-- A sample is taken, step by step (R126). -/
def State.takeSample (s : State) (f : FeederId) (m : Sample) : State :=
  let s2 := (s.storeLatest f m).countMissed f (s.meter f).latest m.seq
  let rise := s2.stepFound f m.current
  (((s2.writeRing f m).actOnStep f rise).lowerCountdown f).feederSample f m

/-- The meter silence timer expires: it stops, and the feeder is told (R127). -/
def State.meterSilent (s : State) (f : FeederId) : State :=
  (s.modMeter f (fun r => { r with silence := none })).feederSilent f

end Sys2Proof.Machine
end

