-- ==== Sys2Proof/Machine/Reports.lean ====
section
/-! DEFINITION. The reply frames and what they carry: ACK, NAK, TABLE_DATA, CONTEXT_DATA, QUEUE_DATA, STATUS_DATA, COUNTER_DATA, HISTORY_DATA (9.4, R138, R156, R157, R162, R163). -/

namespace Sys2Proof.Machine
open Sys2Proof

/-! ### Replies (R154, R160) -/

/-- A reply frame: the request's source as destination, the part's address as source, the request's sequence as tag (R154). -/
def State.replyFrame (s : State) (c : Caller) (kind : Nat) (payload : List Byte) : Frame :=
  ⟨byte kind, c.src, s.cAddress, c.seq, payload⟩

/-- Hand a reply to the C-link transmit queue (R154). -/
def State.reply (s : State) (c : Caller) (kind : Nat) (payload : List Byte) : State :=
  s.sendReply (s.replyFrame c kind payload)

/-- The ACK reply. -/
def State.ack (s : State) (c : Caller) : State := s.reply c 0x70 []

/-- The NAK codes 1 to 12 (R156). -/
inductive NakCode where
  | badKind
  | badTable
  | badIndex
  | badValue
  | activeBank
  | busy
  | invalidMap
  | unknownTruck
  | notIdle
  | overlap
  | badState
  | notReady
deriving DecidableEq, Repr

/-- NAK codes (R156). -/
def NakCode.code : NakCode → Nat
  | .badKind => 1
  | .badTable => 2
  | .badIndex => 3
  | .badValue => 4
  | .activeBank => 5
  | .busy => 6
  | .invalidMap => 7
  | .unknownTruck => 8
  | .notIdle => 9
  | .overlap => 10
  | .badState => 11
  | .notReady => 12

/-- The NAK reply: its code, table and index (R156). -/
def State.nak (s : State) (c : Caller) (k : NakCode) (table index : Byte) : State :=
  s.reply c 0x71 [byte k.code, table, index]

/-! ### Fields that may be none (R157, log 18) -/

/-- A one-byte field, 255 where it is none. -/
def byteOr255 (n : Option Nat) : Byte := byte (n.getD 255)

/-- A one-byte field carried as 0 where it is none. -/
def byteOr0 (n : Option Nat) : Byte := byte (n.getD 0)

/-- A timer: four bytes, the remaining time in tenths of a second, 0 when it is stopped (R157). -/
def timerBytes (t : Timer) : List Byte := nat32 (tenthsLeft t)

/-! ### Table entries as stored (R157) -/

/-- A SECTION entry as stored (R2, R157). -/
def SectionEntry.bytes (e : SectionEntry) : List Byte :=
  [flagByte e.valid] ++ nat16 e.low ++ nat16 e.high ++ [byte e.feeder.val] ++ nat16 e.limit ++ nat16 e.wake
    ++ [byte e.idleCode, byte e.standbyCode, flagByte e.fastRaise]

/-- A GAP entry as stored (R3, R157). -/
def GapEntry.bytes (e : GapEntry) : List Byte :=
  [flagByte e.valid] ++ nat16 e.low ++ nat16 e.high ++ [byte e.lower.val, byte e.upper.val] ++ nat16 e.approach
    ++ [flagByte e.bridgeable, byte e.crossingLimit]

/-- A FEEDER entry as stored (R65, R157). -/
def FeederConfig.bytes (e : FeederConfig) : List Byte :=
  nat16 e.capacity ++ nat16 e.reserve ++ [byte e.share, byte e.overloadCode, byte e.meterLostTime] ++ nat16 e.fastVolts

/-- A CLASS entry as stored (R30, R157). -/
def ClassEntry.bytes (e : ClassEntry) : List Byte :=
  [flagByte e.valid, e.matchBits, e.mask, byte e.base.code] ++ nat16 e.cap ++ [byte e.maxHold, flagByte e.holdThrough]

/-- A RING entry as stored (R130, R157). -/
def RingDesc.bytes (d : RingDesc) : List Byte :=
  [flagByte d.enabled] ++ nat16 d.start ++ nat16 d.length ++ [byte d.distance] ++ nat16 d.threshold
    ++ [byte d.postTrip, flagByte d.freeze, flagByte d.wrap]

/-! ### Working states -/

/-- The last SSU status of a section: four bytes (R157, log 18). -/
def ssuBytes : Option SsuStatus → List Byte
  | some u => [1, flagByte u.closed, flagByte u.voltage, flagByte u.fault]
  | none => [0, 255, 255, 255]

/-- The section state record in the order of R106 (R157). -/
def SectionRec.bytes (r : SectionRec) : List Byte :=
  [byte r.state.code, flagByte r.lockout, byteOr255 (r.raiseOrigin.map RaiseOrigin.code)] ++ timerBytes r.raiseTimer
    ++ timerBytes r.idleTimer ++ timerBytes r.standbyTimer ++ ssuBytes r.ssu
    ++ [byteOr0 (r.command.map (fun c => 1 + c.code))]

/-- The working state of a feeder (R70). -/
def Feeder.bytes (d : Feeder) : List Byte := [byte d.state.code] ++ nat16 d.committed ++ [byte d.turn]

/-- The sample flags (R162). -/
def Meter.flags (m : Meter) : Nat := (if m.latest.isSome then 1 else 0) + (if m.silence.isSome then 2 else 0)

/-- The sample fields of a feeder in STATUS_DATA; free bytes where no sample exists (R162, log 6). -/
def Meter.statusBytes (m : Meter) (n : Nat) : List Byte :=
  [byte m.flags] ++
    match m.latest with
    | some u => [byte (breakerCode u.breaker), u.seq] ++ nat16 u.current ++ nat16 u.voltage
    | none => (List.range 6).map (fun k => Config.freeByte (n + k))

/-- The latest sample in the RING working state; a breaker and a sequence that are none are carried as 255, a current
and a voltage as free bytes (R157, log 6). -/
def Meter.ringBytes (m : Meter) (n : Nat) : List Byte :=
  [byte m.flags] ++
    match m.latest with
    | some u => [byte (breakerCode u.breaker), u.seq] ++ nat16 u.current ++ nat16 u.voltage
    | none => [255, 255] ++ (List.range 4).map (fun k => Config.freeByte (n + k))

/-- The working state of a ring (R132, R157). -/
def Ring.bytes (r : Ring) : List Byte :=
  [byte r.state.code] ++ nat16 r.writePos ++ nat16 r.fill ++ [byteOr255 r.countdown]

/-- Free values are drawn: the model's counter goes on (log 6). -/
def State.drawn (s : State) (n : Nat) : State := { s with fresh := s.fresh + n }

/-- The TABLE_DATA reply: the table, the bank byte, the index, the entry and state (R157). -/
def State.tableData (s : State) (c : Caller) (table : Nat) (bank index : Byte) (body : List Byte) : State :=
  s.reply c 0x72 ([byte table, bank, index] ++ body)

/-! ### CONTEXT_DATA (R21, R40, R157) -/

/-- The position of a slot in the grant order list of its grant's feeder, counted from 1 (R71). -/
def State.orderStamp (s : State) (i : Slot) : Option Nat :=
  match (s.ctx i).hold with
  | none => none
  | some h => ((s.fdr h.feeder).grantOrder.findIdx? (· == i)).map (· + 1)

/-- The list membership: feeder, list level, mark and position (R157, log 18). -/
def membershipBytes : Option Membership → List Byte
  | some m => [byte m.feeder.val, byte m.level.code, byte m.entry.mark.code, byte (min 255 m.position)]
  | none => [255, 0, 255, 0]

/-- The deadline of a withdrawal as it stands: 0 when it is immediate or the drop has ended (R41, R147). -/
def Context.withdrawDeadline (c : Context) (w : Withdrawal) : Nat := if w.immediate then 0 else tenthsLeft c.dropDeadline

/-- The withdraw-pending field: reason and deadline (R157, log 18). -/
def Context.withdrawBytes (c : Context) : List Byte :=
  match c.withdraw with
  | some w => [byte w.reason.code, byte (c.withdrawDeadline w)]
  | none => [0, 255]

/-- The identity and position groups (R21). -/
def Context.positionBytes (c : Context) : List Byte :=
  [byteOr255 (c.truck.map BitVec.toNat), byteOr255 (c.cls.index.map Fin.val), byte c.state.code] ++ nat16 c.pos.chainage
    ++ [byte (headingCode c.pos.heading), byte (pantographCode c.pos.pantograph), flagByte c.pos.loaded]
    ++ nat16 c.pos.drawn ++ c.pos.resolution.bytes ++ [byteOr255 (c.pos.approach.map Fin.val)]
    ++ nat32 (tenthsLeft (some c.silenceAge)) ++ [byte c.silenceCount]

/-- The request group (R21). -/
def Context.requestBytes (c : Context) (m : Option Membership) : List Byte :=
  [c.tagByte] ++ nat16 c.req.requested ++ nat16 c.req.minimum ++ [byteOr0 c.req.hold, byte c.req.level.code]
    ++ membershipBytes m

/-- The grant or offer group (R21). -/
def Context.grantBytes (c : Context) (stamp : Option Nat) : List Byte :=
  nat16 ((c.hold.map (·.amount)).getD 0)
    ++ [byteOr255 (c.hold.map (·.feeder.val)), byteOr255 (c.hold.map (·.sect.val))]
    ++ timerBytes (c.grantExpiry.or c.offerWindow) ++ timerBytes c.offerRepeat
    ++ [byte c.repeatCount, byteOr0 (c.levelAtGrant.map Level.code), byteOr0 stamp]

/-- The gap group (R21, R89). -/
def Context.gapBytes (c : Context) : List Byte :=
  [byteOr255 (c.gap.gapId.map Fin.val), byteOr255 (c.gap.target.map Fin.val)] ++ nat16 c.gap.amount
    ++ [byteOr255 (c.gap.feeder.map Fin.val)] ++ timerBytes c.gap.crossing ++ timerBytes c.gap.carried
    ++ [flagByte c.gap.arcReported]

/-- The drop, discipline and urgent output groups (R21). -/
def Context.disciplineBytes (c : Context) : List Byte :=
  [byteOr0 (c.dropReason.map Reason.code)] ++ timerBytes c.dropDeadline
    ++ [byte c.strikes, byte c.overdraw, flagByte c.holdFlag] ++ c.withdrawBytes

/-- The whole record of R21 in the order of its table (R157). -/
def State.contextBytes (s : State) (i : Slot) : List Byte :=
  let c := s.ctx i
  c.positionBytes ++ c.requestBytes (s.memberOf i) ++ c.grantBytes (s.orderStamp i) ++ c.gapBytes ++ c.disciplineBytes

/-! ### QUEUE_DATA (R70, R157) -/

/-- The start of a member record: the slot, the truck id, the context state. -/
def State.memberBytes (s : State) (i : Slot) : List Byte :=
  [byte i.val, byteOr255 ((s.ctx i).truck.map BitVec.toNat), byte (s.ctx i).state.code]

/-- A grant order record: the amount and its section follow (R157). -/
def State.grantRecord (s : State) (i : Slot) : List Byte :=
  s.memberBytes i ++ nat16 (((s.ctx i).hold.map (·.amount)).getD 0) ++ [byteOr255 ((s.ctx i).hold.map (·.sect.val))]

/-- A wait-list record: the section and the mark follow (R157). -/
def State.waitRecord (s : State) (e : Entry) : List Byte :=
  s.memberBytes e.slot ++ [byte e.sect.val, byte e.mark.code]

/-- The member records of a feeder in order (R157). -/
def State.records (s : State) (f : FeederId) : List (List Byte) :=
  (s.fdr f).grantOrder.map s.grantRecord ++ (s.fdr f).wait1.map s.waitRecord ++ (s.fdr f).wait2.map s.waitRecord

/-- As many records as fit in a room. -/
def takeRecords : Nat → List (List Byte) → List (List Byte)
  | _, [] => []
  | room, r :: rs => if r.length ≤ room then r :: takeRecords (room - r.length) rs else []

/-- The QUEUE_DATA payload: 11 bytes, then the records that fit in the 229 left (R157). -/
def State.queueBytes (s : State) (f : FeederId) (skip : Byte) : List Byte :=
  let d := s.fdr f
  let rs := takeRecords 229 ((s.records f).drop skip.toNat)
  [byte d.state.code] ++ nat16 d.committed ++ nat16 d.config.limit
    ++ [byte d.turn, byte d.grantOrder.length, byte d.wait1.length, byte d.wait2.length, skip, byte rs.length] ++ rs.flatten

/-! ### STATUS_DATA (R162) -/

/-- The lines byte (R162). -/
def State.linesByte (s : State) : Byte := byte ((if s.stopLine then 1 else 0) + (if s.alert then 2 else 0))

/-- The latch set: three bytes (R162). -/
def State.latchBytes (s : State) : List Byte :=
  [byte (s.latches.toNat / 65536), byte (s.latches.toNat / 256), byte s.latches.toNat]

/-- The eight bytes of a feeder (R162). -/
def State.feederStatus (s : State) (f : FeederId) : List Byte :=
  byte (s.fdr f).state.code :: (s.meter f).statusBytes (s.fresh + 6 * f.val)

/-- The STATUS_DATA payload (R162). -/
def State.statusBytes (s : State) : List Byte :=
  [byte s.admission.code, byte s.active.code, byte s.swap.code, byte (secondsLeft s.swapTimer), s.linesByte]
    ++ s.latchBytes ++ allFeeders.flatMap s.feederStatus

/-! ### COUNTER_DATA (R163) -/

/-- The five counters of a link. -/
def LinkCounters.bytes (k : LinkCounters) : List Byte :=
  nat16 k.good ++ nat16 k.checkErrors ++ nat16 k.runts ++ nat16 k.foreign ++ nat16 k.txDrops

/-- The 34 counters in the order of R163. -/
def Counters.bytes (k : Counters) : List Byte :=
  k.w.bytes ++ k.c.bytes ++ nat16 k.overrun ++ k.m.bytes ++ k.missed.toList.flatMap nat16 ++ nat16 k.lapsed ++ nat16 k.sheds

/-! ### HISTORY_DATA (R138) -/

/-- A count of 0 means 32 (R138). -/
def historyCount (count : Byte) : Nat := if count.toNat = 0 then 32 else count.toNat

/-- The delivered count (R138). -/
def delivered (fill offset count : Nat) : Nat := if offset < fill then min count (fill - offset) else 0

/-- An entry of the reply: current, voltage, sequence. -/
def SampleEntry.bytes (e : SampleEntry) : List Byte := nat16 e.current ++ nat16 e.voltage ++ [e.seq]

/-- The HISTORY_DATA payload (R138). -/
def State.historyBytes (s : State) (f : FeederId) (offset count : Nat) : List Byte :=
  let r := s.ring f
  let n := delivered r.fill offset count
  [byte f.val, byte r.state.code] ++ nat16 r.fill ++ nat16 offset ++ [byte n, byte (count - n)]
    ++ (List.range n).flatMap (fun k => (s.ringEntry f (offset + k)).bytes)

end Sys2Proof.Machine
end

