-- ==== Sys2Proof/Machine/Links.lean ====
section
/-! DEFINITION. The link layer: acceptance and dispatch of frames, the receive assemblers byte by byte, and the two transmitters (Chapter 8, R153 to R155). -/

namespace Sys2Proof.Machine
open Sys2Proof

/-! ### The lines -/

/-- The part drives a link's line: a frame is being sent on it. It never drives the M-link (R140, R155). -/
def State.drives (s : State) (l : Link) : Bool :=
  match l with
  | .w => s.wSending.isSome
  | .c => s.cSending.isSome
  | .m => false

/-- A gap of more than 4 byte-times inside a frame ends it as a runt: the bytes held are discarded (R142). -/
def State.endRunt (s : State) (l : Link) : State :=
  if (s.asm l).phase == .hunt then s else (s.setAsm l Assembler.hunting).countRunt l

/-- More than 4 byte-times have passed since the last byte of a frame (R142). -/
def Assembler.late (a : Assembler) : Bool := a.phase != .hunt && decide (400 < a.watch)

/-- A byte arrives after a gap: the frame before it ends as a runt where the gap passed 4 byte-times (R142). -/
def State.endLate (s : State) (l : Link) : State := if (s.asm l).late then s.endRunt l else s

/-- What a link carries reaches its receiver: nothing does while the part drives that line (R140, log 27). -/
def whileListening (l : Link) (s : State) (run : State → State) : Host.Outcome State Fault Refusal :=
  whileOutOfReset s (fun s => if s.drives l then s else run s)

/-! ### W-link acceptance (R143, R144) -/

/-- A W-link frame that passed every test of R143. -/
inductive WFrame where
  | psn (truck : Byte) (report : Report)
  | drq (truck : Byte) (terms : Terms)
  | acc (truck tag : Byte)
  | rel (truck tag : Byte)
  | dat (truck tag : Byte) (payload : List Byte)
  | sst (sect : SectionId) (status : SsuStatus)
deriving DecidableEq, Repr

/-- The report of a PSN payload; none where its length or a coded field fails (R143 tests 4 and 5, R146). -/
def reportOf (tag : Byte) : List Byte → Option Report
  | [c1, c0, h, p, l, d1, d0] =>
    match headingOf h, pantographOf p, flagOf l with
    | some heading, some pantograph, some loaded =>
      some { tag := tag, chainage := (wordOf c1 c0).toNat, heading := heading, pantograph := pantograph
             loaded := loaded, drawn := (wordOf d1 d0).toNat }
    | _, _, _ => none
  | _ => none

/-- The terms of a DRQ payload (R146). -/
def termsOf (tag : Byte) : List Byte → Option Terms
  | [r1, r0, m1, m0, h] =>
    some { tag := tag, requested := (wordOf r1 r0).toNat, minimum := (wordOf m1 m0).toNat, hold := h.toNat }
  | _ => none

/-- The status of an SST payload; its section is its source less 128 (R143 test 5). -/
def statusOf (src : Byte) : List Byte → Option (SectionId × SsuStatus)
  | [x, c, v, f] =>
    match sectionOfByte x, flagOf c, flagOf v, flagOf f with
    | some sect, some closed, some voltage, some fault =>
      if src.toNat = 128 + sect.val then some (sect, { closed := closed, voltage := voltage, fault := fault }) else none
    | _, _, _, _ => none
  | _ => none

/-- What a truck may send (R143 tests 3 to 5). -/
def truckFrameOf (f : Frame) : Option WFrame :=
  match f.kind.toNat with
  | 0x10 => (reportOf f.tag f.payload).map (.psn f.src ·)
  | 0x11 => (termsOf f.tag f.payload).map (.drq f.src ·)
  | 0x12 => if f.payload.isEmpty then some (.acc f.src f.tag) else none
  | 0x13 => if f.payload.isEmpty then some (.rel f.src f.tag) else none
  | 0x14 => some (.dat f.src f.tag f.payload)
  | _ => none

/-- What an SSU may send (R143 tests 3 to 5). -/
def ssuFrameOf (f : Frame) : Option WFrame :=
  if f.kind.toNat = 0x31 then (statusOf f.src f.payload).map (fun p => .sst p.1 p.2) else none

/-- The tests of R143; none is a foreign frame. -/
def wFrameOf (f : Frame) : Option WFrame :=
  if f.dest ≠ 0 then none
  else if isTruckAddress f.src then truckFrameOf f
  else if 128 ≤ f.src.toNat ∧ f.src.toNat ≤ 191 then ssuFrameOf f
  else none

/-- Dispatch of an accepted W-link frame (R144). -/
def State.dispatchW (s : State) : WFrame → State
  | .psn truck p => s.dispatchPsn truck p
  | .drq truck t => s.dispatchDrq truck t
  | .acc truck tag => s.dispatchAcc truck tag
  | .rel truck tag => s.dispatchRel truck tag
  | .dat truck tag payload => s.dispatchDat truck tag payload
  | .sst x u => (s.takeStatus x u).evalSwap

/-- A W-link frame whose check passed (R143). -/
def State.receiveW (s : State) (f : Frame) : State :=
  match wFrameOf f with
  | some w => (s.countGood .w).dispatchW w
  | none => s.countForeign .w

/-- A frame of a truck whose check passed: its marker was found in HUNT, so a frame unfinished before it had ended as a
runt (R142, log 20). A source that is no truck makes the frame foreign (R143 test 2). -/
def State.fromTruck (s : State) (truck : Byte) (w : WFrame) : State :=
  if isTruckAddress truck then ((s.endRunt .w).countGood .w).dispatchW w else (s.endRunt .w).countForeign .w

/-! ### M-link acceptance (R145) -/

/-- The sample of an M-link frame; none is a foreign frame (R145). -/
def sampleOf (f : Frame) : Option (FeederId × Sample) :=
  match f.kind.toNat, f.payload with
  | 0x40, [x, c1, c0, v1, v0, b] =>
    match feederOfByte x, breakerOf b with
    | some feeder, some breaker =>
      some (feeder, { seq := f.tag, current := (wordOf c1 c0).toNat, voltage := (wordOf v1 v0).toNat, breaker := breaker })
    | _, _ => none
  | _, _ => none

/-- An M-link frame whose check passed (R145). -/
def State.receiveM (s : State) (f : Frame) : State :=
  match sampleOf f with
  | some (x, m) => (s.countGood .m).takeSample x m
  | none => s.countForeign .m

/-! ### C-link acceptance (R153, R154) -/

/-- A kind that the part itself sends on the C-link (9.4). -/
def sentByPart (kind : Byte) : Bool :=
  decide (0x70 ≤ kind.toNat ∧ kind.toNat ≤ 0x77) || decide (0x80 ≤ kind.toNat ∧ kind.toNat ≤ 0x83)

/-- The receive-overrun counter adds 1 (R154). -/
def State.countOverrun (s : State) : State :=
  { s with counters := { s.counters with overrun := holdAdd s.counters.overrun 1 } }

/-- A request is offered to the request buffer (R154). -/
def State.offerRequest (s : State) (f : Frame) : State :=
  if s.requestBuffer.length < 4 then { s with requestBuffer := s.requestBuffer ++ [f] } else s.countOverrun

/-- A C-link frame whose check passed (R153). -/
def State.receiveC (s : State) (f : Frame) : State :=
  if f.dest ≠ s.cAddress then s
  else if sentByPart f.kind then s.countForeign .c
  else (s.countGood .c).offerRequest f

/-- A frame of any link whose check passed (R143, R145, R153). -/
def State.receiveFrame (s : State) (l : Link) (f : Frame) : State :=
  match l with
  | .w => s.receiveW f
  | .c => s.receiveC f
  | .m => s.receiveM f

/-! ### The receive assemblers (R142) -/

/-- What the byte that completes a part of a frame does. -/
inductive Received where
  | going (a : Assembler)
  | complete (f : Frame)
  | failed (bytes : List Byte)
deriving DecidableEq, Repr

/-- The payload length of a header. -/
def payloadLength (held : List Byte) : Nat := (held.getD 4 0).toNat

/-- The assembler after the last header byte (R142). -/
def afterHeader (held : List Byte) : Received :=
  if 240 < payloadLength held then .failed held
  else if payloadLength held = 0 then .going { phase := .check, held := held, watch := 0 }
  else .going { phase := .payload, held := held, watch := 0 }

/-- The check is tested (R141, R142). -/
def afterCheck (held : List Byte) : Received :=
  let body := held.take (5 + payloadLength held)
  match frameOfBody body with
  | some f => if checkBytes body = held.drop (5 + payloadLength held) then .complete f else .failed held
  | none => .failed held

/-- An assembler takes one byte (R142). -/
def Assembler.take (a : Assembler) (b : Byte) : Received :=
  let held := a.held ++ [b]
  match a.phase with
  | .hunt => if b = markerByte then .going { phase := .header, held := [], watch := 0 } else .going Assembler.hunting
  | .header => if held.length < 5 then .going { a with held := held, watch := 0 } else afterHeader held
  | .payload =>
    if held.length < 5 + payloadLength held then .going { a with held := held, watch := 0 }
    else .going { phase := .check, held := held, watch := 0 }
  | .check =>
    if held.length < 9 + payloadLength held then .going { a with held := held, watch := 0 } else afterCheck held

/-- A run of bytes is taken in order, at most `n` of them; the bytes of a frame that fails its check are examined
again before the bytes that follow (R142). -/
def State.feedFor (l : Link) : Nat → State → List Byte → State
  | 0, s, _ => s
  | _ + 1, s, [] => s
  | n + 1, s, b :: rest =>
    match (s.asm l).take b with
    | .going a => State.feedFor l n (s.setAsm l a) rest
    | .complete f => State.feedFor l n ((s.setAsm l Assembler.hunting).receiveFrame l f) rest
    | .failed bytes => State.feedFor l n ((s.setAsm l Assembler.hunting).countCheckError l) (bytes ++ rest)

/-- A run of bytes is taken on a link. Every failure uses up a marker, so the square of the number of bytes at
hand, and one, bounds the bytes examined. -/
def State.feed (s : State) (l : Link) (bytes : List Byte) : State :=
  let n := (s.asm l).held.length + bytes.length + 2
  State.feedFor l (n * n) s bytes

/-- Bytes that follow a marker; where the assembler is in HUNT the marker comes first (log 20). -/
def State.feedFrame (s : State) (l : Link) (bytes : List Byte) : State :=
  if (s.asm l).phase == .hunt then s.feed l (markerByte :: bytes) else s.feed l bytes

/-! ### The transmitters (R148, R155) -/

/-- The time a frame takes on the line, in tenths of a bit-time: 10 bits a byte (R140, R141). -/
def frameTime (f : Frame) : Nat := 100 * (10 + f.payload.length)

/-- The bits of a link in a millisecond, in tenths (R140). -/
def rateTenths (code : Nat) : Nat :=
  match code with
  | 0 => 192
  | 1 => 384
  | 2 => 576
  | 3 => 1152
  | _ => 2304

/-- A GRT, WDR or RFS is mirrored (R152). -/
def mirrored (kind : Byte) : Bool := kind == 0x20 || kind == 0x23 || kind == 0x24

/-- The MIRROR copy of a frame started on the W-link (R152, R160). -/
def State.mirror (s : State) (f : Frame) : State :=
  if s.globals.mirror == 1 && mirrored f.kind then s.offerC ⟨0x83, 0, s.cAddress, f.tag, [f.dest, f.kind] ++ f.payload⟩
  else s

/-- The W-link transmitter is free: no frame is being sent, and the receive assembler is in HUNT (R148). -/
def State.wFree (s : State) : Bool := s.wSending.isNone && s.asmW.phase == .hunt

/-- The C-link transmitter is free: no frame is being sent, and the receive assembler is in HUNT (R155). -/
def State.cFree (s : State) : Bool := s.cSending.isNone && s.asmC.phase == .hunt

/-- The W-link rate in force becomes the rate of the GLOBAL table (R140). -/
def State.settleW (s : State) : State := { s with wRate := s.globals.wRate }

/-- A frame is started on the W-link at the rate then in force (R140, R148). -/
def State.startW (s : State) (f : Frame) : State :=
  ({ s.settleW with wSending := some { frame := f, left := frameTime f } } : State).mirror f

/-- The broadcast withdrawal (R149). -/
def broadcastFrame : Frame := wdrFrame 255 0 .restart 0

/-- The lowest slot with a withdrawal pending (R148). -/
def State.withdrawSlot (s : State) : Option Slot := allSlots.find? (fun i => (s.ctx i).withdraw.isSome)

/-- The lowest section with a command pending (R148). -/
def State.commandSection (s : State) : Option SectionId := allSections.find? (fun x => (s.sec x).command.isSome)

/-- The arbiter sends the broadcast withdrawal where its flag is set (R148, R149). -/
def State.sendBroadcast (s : State) : State :=
  if s.wFree && s.broadcast then ({ s with broadcast := false } : State).startW broadcastFrame else s

/-- The WDR of a withdraw-pending field as it then stands (R147, R149). -/
def Context.wdr (c : Context) (w : Withdrawal) : Frame := wdrFrame c.address c.tagByte w.reason (c.withdrawDeadline w)

/-- The arbiter sends the withdrawal of the lowest slot; the field is cleared (R148). -/
def State.sendWdr (s : State) : State :=
  if s.wFree && !s.broadcast then
    match s.withdrawSlot with
    | none => s
    | some i =>
      match (s.ctx i).withdraw with
      | none => s
      | some w => (s.modCtx i (fun c => { c with withdraw := none })).startW ((s.ctx i).wdr w)
  else s

/-- The arbiter sends the command of the lowest section; the field is cleared (R108, R148). -/
def State.sendScm (s : State) : State :=
  if s.wFree && !s.broadcast && s.withdrawSlot.isNone then
    match s.commandSection with
    | none => s
    | some x =>
      match (s.sec x).command with
      | none => s
      | some c => (s.modSec x (fun r => { r with command := none })).startW (scmFrame x c)
  else s

/-- No source before the normal queue is ready (R148). -/
def State.nothingUrgent (s : State) : Bool := !s.broadcast && s.withdrawSlot.isNone && s.commandSection.isNone

/-- The arbiter sends the oldest frame of the normal queue (R148). -/
def State.sendQueued (s : State) : State :=
  if s.wFree && s.nothingUrgent then
    match s.normalQueue with
    | [] => s
    | f :: fs => ({ s with normalQueue := fs } : State).startW f
  else s

/-- Accepted C-link rates whose reply has been sent take effect; the newest stays (R140, log 26). -/
def settleRates : Nat → List (Nat × Nat) → Nat × List (Nat × Nat)
  | r, [] => (r, [])
  | _, (0, v) :: ps => settleRates v ps
  | r, (n + 1, v) :: ps => (r, (n + 1, v) :: ps)

/-- The C-link rate in force follows the replies that have been sent (R140). -/
def State.settleC (s : State) : State :=
  let p := settleRates s.cRate s.cRatePending
  { s with cRate := p.1, cRatePending := p.2 }

/-- A frame leaves the C-link queue: the replies behind it are one frame nearer. -/
def nearer (ps : List (Nat × Nat)) : List (Nat × Nat) := ps.map (fun p => (p.1 - 1, p.2))

/-- The C-link transmitter starts the oldest frame of its queue (R155). -/
def State.sendC (s : State) : State :=
  if s.cFree then
    match s.cQueue with
    | [] => s
    | f :: fs =>
      { s.settleC with
        cQueue := fs
        cRatePending := nearer s.settleC.cRatePending
        cSending := some { frame := f, left := frameTime f } }
  else s

/-- W_LINK_RATE_CHANGE: the transmitter is free and the new rate takes effect (R140). -/
def State.changeWRate (s : State) : State := if s.wFree then s.settleW else s

/-- A reply that set a rate has left the queue. -/
def State.cRateDue (s : State) : Bool :=
  match s.cRatePending with
  | (0, _) :: _ => true
  | _ => false

/-- C_LINK_RATE_CHANGE: the reply that set a rate has been sent whole and the new rate takes effect (R140). -/
def State.changeCRate (s : State) : State := if s.cSending.isNone && s.cRateDue then s.settleC else s

/-! ### The commands -/

/-- PSN: a position report arrives on the W-link (R26, R143). -/
def execPsn (truck tag : Byte) (chainage : Word) (heading : Heading) (pantograph : Pantograph) (loaded : Bool) (drawn : Word)
    (s : State) : Host.Outcome State Fault Refusal :=
  whileListening .w s (fun s => s.fromTruck truck (.psn truck
    { tag := tag, chainage := chainage.toNat, heading := heading, pantograph := pantograph, loaded := loaded, drawn := drawn.toNat }))

/-- DRQ: a draw request arrives on the W-link (R42, R143). -/
def execDrq (truck tag : Byte) (requested minimum : Word) (hold : Byte) (s : State) : Host.Outcome State Fault Refusal :=
  whileListening .w s (fun s => s.fromTruck truck (.drq truck
    { tag := tag, requested := requested.toNat, minimum := minimum.toNat, hold := hold.toNat }))

/-- ACC: an acceptance arrives on the W-link (R52, R143). -/
def execAcc (truck tag : Byte) (s : State) : Host.Outcome State Fault Refusal :=
  whileListening .w s (fun s => s.fromTruck truck (.acc truck tag))

/-- REL: a release arrives on the W-link (R59, R143). -/
def execRel (truck tag : Byte) (s : State) : Host.Outcome State Fault Refusal :=
  whileListening .w s (fun s => s.fromTruck truck (.rel truck tag))

/-- DAT: truck data arrives on the W-link; a payload above 240 bytes is a check error (R142, R152). -/
def execDat (truck tag : Byte) (payload : List Byte) (s : State) : Host.Outcome State Fault Refusal :=
  whileListening .w s (fun s =>
    if fitsPayload payload then s.fromTruck truck (.dat truck tag payload) else (s.endRunt .w).countCheckError .w)

/-- SST: section switch status arrives on the W-link (R118, R143). -/
def execSst (sect : Byte) (contactor voltage fault : Bool) (s : State) : Host.Outcome State Fault Refusal :=
  whileListening .w s (fun s =>
    match sectionOfByte sect with
    | some x => ((s.endRunt .w).countGood .w).dispatchW (.sst x { closed := contactor, voltage := voltage, fault := fault })
    | none => (s.endRunt .w).countForeign .w)

/-- SMP: a sample arrives on the M-link (R126, R145). -/
def execSmp (feeder seq : Byte) (current voltage : Word) (breaker : Breaker) (s : State) : Host.Outcome State Fault Refusal :=
  whileListening .m s (fun s =>
    match feederOfByte feeder with
    | some f => ((s.endRunt .m).countGood .m).takeSample f
        { seq := seq, current := current.toNat, voltage := voltage.toNat, breaker := breaker }
    | none => (s.endRunt .m).countForeign .m)

/-- CHECK_ERROR: the bytes after a marker, whose frame fails its check (R142). -/
def execCheckError (link : Link) (bytes : List Byte) (s : State) : Host.Outcome State Fault Refusal :=
  whileListening link s (fun s => (s.endLate link).feedFrame link bytes)

/-- RUNT: a gap of more than 4 byte-times inside a frame (R142). -/
def execRunt (link : Link) (s : State) : Host.Outcome State Fault Refusal :=
  whileOutOfReset s (fun s => s.endRunt link)

/-- FOREIGN_FRAME: a frame whose check passed meets the acceptance tests of its link (R143, R145, R153). -/
def execForeignFrame (link : Link) (frame : Frame) (s : State) : Host.Outcome State Fault Refusal :=
  whileListening link s (fun s => (s.endRunt link).receiveFrame link frame)

/-- REQUEST_FRAME: a C-link frame whose check passed (R153). -/
def execRequestFrame (frame : Frame) (s : State) : Host.Outcome State Fault Refusal :=
  whileListening .c s (fun s => (s.endRunt .c).receiveC frame)

/-- MARKER: a marker byte arrives on a link (R142). -/
def execMarker (link : Link) (s : State) : Host.Outcome State Fault Refusal :=
  whileListening link s (fun s => (s.endLate link).feed link [markerByte])

/-- BROADCAST_WITHDRAWAL (R149). -/
def execBroadcastWithdrawal (s : State) : Host.Outcome State Fault Refusal := whileOutOfReset s State.sendBroadcast

/-- WDR_TRANSMIT (R148). -/
def execWdrTransmit (s : State) : Host.Outcome State Fault Refusal := whileOutOfReset s State.sendWdr

/-- SCM_TRANSMIT (R148). -/
def execScmTransmit (s : State) : Host.Outcome State Fault Refusal := whileOutOfReset s State.sendScm

/-- NORMAL_QUEUE_TRANSMIT (R148). -/
def execNormalQueueTransmit (s : State) : Host.Outcome State Fault Refusal := whileOutOfReset s State.sendQueued

/-- C_LINK_TRANSMIT (R155). -/
def execCLinkTransmit (s : State) : Host.Outcome State Fault Refusal := whileOutOfReset s State.sendC

/-- W_LINK_RATE_CHANGE (R140). -/
def execWLinkRateChange (s : State) : Host.Outcome State Fault Refusal := whileOutOfReset s State.changeWRate

/-- C_LINK_RATE_CHANGE (R140). -/
def execCLinkRateChange (s : State) : Host.Outcome State Fault Refusal := whileOutOfReset s State.changeCRate

end Sys2Proof.Machine
end

