-- ==== Sys2Proof/Machine/Management.lean ====
section
/-! DEFINITION. The management agent: taking a request and every request of the catalogue (Chapter 9 and the rules it names). -/

namespace Sys2Proof.Machine
open Sys2Proof

/-! ### Taking a request (R153, R154, log 7) -/

/-- A frame is the request a command names. -/
def isRequest (i : Instr) (f : Frame) : Bool := requestOfFrame f == i

/-- The request a command names is the oldest of the buffer. -/
def State.oldestIs (s : State) (i : Instr) : Bool :=
  match s.requestBuffer with
  | f :: _ => isRequest i f
  | [] => false

/-- The frame of the request a command names arrives on the C-link and meets the tests of R153, as REQUEST_FRAME does. -/
def State.arriveRequest (s : State) (i : Instr) : State :=
  match frameOfRequest s.cAddress i with
  | some f => (s.endRunt .c).receiveC f
  | none => s

/-- MA takes the oldest request of the buffer while an entry of the C-link queue is free (R154). -/
def State.serveOldest (s : State) (run : State → State) : State :=
  if s.cQueue.length < 32 then
    match s.requestBuffer with
    | _ :: fs => run { s with requestBuffer := fs }
    | [] => s
  else s

/-- A request command: the request is the oldest of the buffer and MA takes it; or its frame arrives now (R153), and MA
takes it at once where none waits before it (R154, log 7). Nothing arrives while the part drives the C-link (log 27). -/
def takeRequest (i : Instr) (s : State) (run : State → State) : Host.Outcome State Fault Refusal :=
  whileOutOfReset s (fun s =>
    if s.oldestIs i then s.serveOldest run
    else if s.drives .c then s
    else if s.requestBuffer.isEmpty then (s.arriveRequest i).serveOldest run
    else s.arriveRequest i)

/-! ### Malformed requests (R36, R79, R120, R156; log 16) -/

/-- The six table codes (R157). -/
def isTable (t : Byte) : Bool := decide (1 ≤ t.toNat ∧ t.toNat ≤ 6)

/-- The NAK of a request that no row of the catalogue names: its code, table and index (R156). -/
def malformed (s : State) (kind : Byte) (payload : List Byte) : NakCode × Byte × Byte :=
  match kind.toNat, payload with
  | 0x50, t :: _ => if isTable t then (.badKind, t, 255) else (.badTable, t, 255)
  | 0x51, [t, _, _] => (.badTable, t, 255)
  | 0x51, t :: _ => (.badKind, t, 255)
  | 0x54, [x, _] => if (sectionOfByte x).isSome then (.badValue, 0, x) else (.badIndex, 0, x)
  | 0x55, [f, _] => if (feederOfByte f).isSome then (.badValue, 0, f) else (.badIndex, 0, f)
  | 0x56, [t, _] => if (s.slotOf t).isSome then (.badValue, 0, t) else (.unknownTruck, 0, t)
  | _, _ => (.badKind, 0, 255)

/-- The answer to a request that no row of the catalogue names (R156). -/
def State.answerMalformed (s : State) (c : Caller) (kind : Byte) (payload : List Byte) : State :=
  s.nak c (malformed s kind payload).1 (malformed s kind payload).2.1 (malformed s kind payload).2.2

/-- UNKNOWN_REQUEST_KIND (R156). A kind that the part itself sends is dropped on arrival and counted foreign (R153). -/
def execUnknownRequestKind (c : Caller) (kind : Byte) (payload : List Byte) (s : State) : Host.Outcome State Fault Refusal :=
  takeRequest (.unknownRequestKind c kind payload) s (fun s => s.answerMalformed c kind payload)

/-! ### TABLE_WRITE of the map (R4) -/

/-- A section entry replaces the one stored in a bank. -/
def State.putSection (s : State) (k : BankId) (x : SectionId) (e : SectionEntry) : State :=
  s.setBank k { s.bank k with sections := (s.bank k).sections.set x e }

/-- A gap entry replaces the one stored in a bank. -/
def State.putGap (s : State) (k : BankId) (g : GapId) (e : GapEntry) : State :=
  s.setBank k { s.bank k with gaps := (s.bank k).gaps.set g e }

/-- A write of a section entry, checked in the order of R4. Every NAK carries the entry's index, those of checks 2 and 3
too, where R4 names none (log 16). -/
def State.writeSection (s : State) (c : Caller) (bank index : Byte) (e : SectionWire) : State :=
  match bankOfByte bank, sectionOfByte index with
  | some k, some x =>
    if k == s.active then s.nak c .activeBank 1 index
    else if s.swapPending then s.nak c .busy 1 index
    else
      match sectionEntryOf e with
      | none => s.nak c .badValue 1 index
      | some v => (s.putSection k x v).ack c
  | _, _ => s.nak c .badIndex 1 index

/-- TABLE_WRITE of the SECTION table (R4). -/
def execTableWriteSection (c : Caller) (bank index : Byte) (e : SectionWire) (s : State) : Host.Outcome State Fault Refusal :=
  takeRequest (.tableWriteSection c bank index e) s (fun s => s.writeSection c bank index e)

/-- A write of a gap entry, checked in the order of R4. Every NAK carries the entry's index, as in `writeSection` (log 16). -/
def State.writeGap (s : State) (c : Caller) (bank index : Byte) (e : GapWire) : State :=
  match bankOfByte bank, gapOfByte index with
  | some k, some g =>
    if k == s.active then s.nak c .activeBank 2 index
    else if s.swapPending then s.nak c .busy 2 index
    else
      match gapEntryOf e with
      | none => s.nak c .badValue 2 index
      | some v => (s.putGap k g v).ack c
  | _, _ => s.nak c .badIndex 2 index

/-- TABLE_WRITE of the GAP table (R4). -/
def execTableWriteGap (c : Caller) (bank index : Byte) (e : GapWire) (s : State) : Host.Outcome State Fault Refusal :=
  takeRequest (.tableWriteGap c bank index e) s (fun s => s.writeGap c bank index e)

/-! ### TABLE_WRITE of the other tables (R30, R69, R131, R159) -/

/-- A feeder takes a written configuration; the turn counter is held at the new K (R69). -/
def Feeder.reconfigured (d : Feeder) (k : FeederConfig) : Feeder :=
  { d with config := k, turn := min d.turn k.share }

/-- BUDGET_OVER where committed stands above the new limit (R69). -/
def State.reportOver (s : State) (f : FeederId) : State :=
  if (s.fdr f).config.limit < (s.fdr f).committed then
    s.report .budgetOver f.val ((s.fdr f).committed - (s.fdr f).config.limit)
  else s

/-- The configuration of a feeder is replaced with its effects (R69). -/
def State.applyFeeder (s : State) (f : FeederId) (k : FeederConfig) : State :=
  let t := (s.modFdr f (fun d => d.reconfigured k)).reportOver f
  if (s.fdr f).config.limit < k.limit then t.arbitrate f else t

/-- A write of a feeder record (R69). -/
def State.writeFeeder (s : State) (c : Caller) (index : Byte) (e : FeederWire) : State :=
  match feederOfByte index with
  | none => s.nak c .badIndex 3 index
  | some f =>
    match feederConfigOf e with
    | none => s.nak c .badValue 3 index
    | some k => (s.applyFeeder f k).ack c

/-- TABLE_WRITE of the FEEDER table (R69). -/
def execTableWriteFeeder (c : Caller) (bank index : Byte) (e : FeederWire) (s : State) : Host.Outcome State Fault Refusal :=
  takeRequest (.tableWriteFeeder c bank index e) s (fun s => s.writeFeeder c index e)

/-- A write of a class entry (R30). -/
def State.writeClass (s : State) (c : Caller) (index : Byte) (e : ClassWire) : State :=
  match classOfByte index with
  | none => s.nak c .badIndex 4 index
  | some k =>
    match classEntryOf e with
    | none => s.nak c .badValue 4 index
    | some v => ({ s with classes := s.classes.set k v } : State).ack c

/-- TABLE_WRITE of the CLASS table (R30). -/
def execTableWriteClass (c : Caller) (bank index : Byte) (e : ClassWire) (s : State) : Host.Outcome State Fault Refusal :=
  takeRequest (.tableWriteClass c bank index e) s (fun s => s.writeClass c index e)

/-- A write of a ring descriptor, checked in the order of R131. -/
def State.writeDescriptor (s : State) (c : Caller) (index : Byte) (e : RingWire) : State :=
  match feederOfByte index with
  | none => s.nak c .badIndex 5 index
  | some f =>
    match ringDescOf e with
    | none => s.nak c .badValue 5 index
    | some d =>
      if (s.ring f).moved d then s.nak c .notIdle 5 index
      else if s.ringOverlaps f d then s.nak c .overlap 5 index
      else (s.modRing f (fun r => r.rewritten d)).ack c

/-- TABLE_WRITE of the RING table (R131). -/
def execTableWriteRing (c : Caller) (bank index : Byte) (e : RingWire) (s : State) : Host.Outcome State Fault Refusal :=
  takeRequest (.tableWriteRing c bank index e) s (fun s => s.writeDescriptor c index e)

/-- An accepted C-link rate waits for the reply of its write: the frames in the queue and the reply itself (R140, log 26). -/
def State.awaitRate (s : State) (v : Nat) : State :=
  { s with cRatePending := s.cRatePending ++ [(s.cQueue.length + 1, v)] }

/-- A change of the exclusion setting acts on every allocated context (R35). -/
def State.changeExclusion (s : State) (v : Nat) : State :=
  if v = s.globals.exclusion then s else s.eachSlot State.clearExclusion

/-- A GLOBAL value is replaced with its effects (R35, R140, R159, R161). -/
def State.applyGlobal (s : State) (index v : Nat) : State :=
  let t : State := { s with globals := s.globals.write index v }
  if index = 2 then t.awaitRate v
  else if index = 9 then { s.changeExclusion v with globals := s.globals.write index v }
  else if (controlPlace index).isSome then t.evalAlert
  else t

/-- A write of a GLOBAL value (R159). -/
def State.writeGlobal (s : State) (c : Caller) (index : Byte) (v : Word) : State :=
  match globalRange index.toNat with
  | none => s.nak c .badIndex 6 index
  | some (lo, hi) =>
    if lo ≤ v.toNat ∧ v.toNat ≤ hi then (s.applyGlobal index.toNat v.toNat).ack c else s.nak c .badValue 6 index

/-- TABLE_WRITE of the GLOBAL table (R159). -/
def execTableWriteGlobal (c : Caller) (bank index : Byte) (v : Word) (s : State) : Host.Outcome State Fault Refusal :=
  takeRequest (.tableWriteGlobal c bank index v) s (fun s => s.writeGlobal c index v)

/-! ### TABLE_READ (R5, R30, R70, R106, R132, R159) -/

/-- A read of a section entry with its state record (R5, R106). -/
def State.readSection (s : State) (c : Caller) (bank index : Byte) : State :=
  match bankOfByte bank, sectionOfByte index with
  | some k, some x => s.tableData c 1 bank index (((s.bank k).sect x).bytes ++ (s.sec x).bytes)
  | _, _ => s.nak c .badIndex 1 index

/-- TABLE_READ of the SECTION table (R5). -/
def execTableReadSection (c : Caller) (bank index : Byte) (s : State) : Host.Outcome State Fault Refusal :=
  takeRequest (.tableReadSection c bank index) s (fun s => s.readSection c bank index)

/-- A read of a gap entry (R5). -/
def State.readGap (s : State) (c : Caller) (bank index : Byte) : State :=
  match bankOfByte bank, gapOfByte index with
  | some k, some g => s.tableData c 2 bank index ((s.bank k).gap g).bytes
  | _, _ => s.nak c .badIndex 2 index

/-- TABLE_READ of the GAP table (R5). -/
def execTableReadGap (c : Caller) (bank index : Byte) (s : State) : Host.Outcome State Fault Refusal :=
  takeRequest (.tableReadGap c bank index) s (fun s => s.readGap c bank index)

/-- A read of a feeder record (R70). -/
def State.readFeeder (s : State) (c : Caller) (bank index : Byte) : State :=
  match feederOfByte index with
  | some f => s.tableData c 3 bank index ((s.fdr f).config.bytes ++ (s.fdr f).bytes)
  | none => s.nak c .badIndex 3 index

/-- TABLE_READ of the FEEDER table (R70). -/
def execTableReadFeeder (c : Caller) (bank index : Byte) (s : State) : Host.Outcome State Fault Refusal :=
  takeRequest (.tableReadFeeder c bank index) s (fun s => s.readFeeder c bank index)

/-- A read of a class entry (R30). -/
def State.readClass (s : State) (c : Caller) (bank index : Byte) : State :=
  match classOfByte index with
  | some k => s.tableData c 4 bank index (s.classEntry k).bytes
  | none => s.nak c .badIndex 4 index

/-- TABLE_READ of the CLASS table (R30). -/
def execTableReadClass (c : Caller) (bank index : Byte) (s : State) : Host.Outcome State Fault Refusal :=
  takeRequest (.tableReadClass c bank index) s (fun s => s.readClass c bank index)

/-- A read of a ring descriptor with its working state and the latest sample (R132). -/
def State.readRing (s : State) (c : Caller) (bank index : Byte) : State :=
  match feederOfByte index with
  | some f =>
    let t := s.tableData c 5 bank index ((s.ring f).desc.bytes ++ (s.ring f).bytes ++ (s.meter f).ringBytes s.fresh)
    if (s.meter f).latest.isNone then t.drawn 4 else t
  | none => s.nak c .badIndex 5 index

/-- TABLE_READ of the RING table (R132). -/
def execTableReadRing (c : Caller) (bank index : Byte) (s : State) : Host.Outcome State Fault Refusal :=
  takeRequest (.tableReadRing c bank index) s (fun s => s.readRing c bank index)

/-- A read of a GLOBAL value (R159). -/
def State.readGlobal (s : State) (c : Caller) (bank index : Byte) : State :=
  match s.globals.read index.toNat with
  | some v => s.tableData c 6 bank index (nat16 v)
  | none => s.nak c .badIndex 6 index

/-- TABLE_READ of the GLOBAL table (R159). -/
def execTableReadGlobal (c : Caller) (bank index : Byte) (s : State) : Host.Outcome State Fault Refusal :=
  takeRequest (.tableReadGlobal c bank index) s (fun s => s.readGlobal c bank index)

/-! ### The swap (R10, R19) -/

/-- The checks of BANK_SWAP past its force byte, and its effect (R6, R10). -/
def State.requestSwap (s : State) (c : Caller) (begin : State → State) : State :=
  if s.swapPending then s.nak c .busy 0 255
  else
    match s.shadowBank.invalid with
    | some (table, index) => s.nak c .invalidMap (byte table) (byte index)
    | none => (begin s).ack c

/-- BANK_SWAP without force; a force byte above 1 is refused first (R10). -/
def State.swapUnforced (s : State) (c : Caller) (force : Byte) : State :=
  if force = 0 then s.requestSwap c State.beginSwap
  else if force = 1 then s.requestSwap c State.beginForcedSwap
  else s.nak c .badValue 0 255

/-- BANK_SWAP (R10). -/
def execBankSwap (c : Caller) (force : Byte) (s : State) : Host.Outcome State Fault Refusal :=
  takeRequest (.bankSwap c force) s (fun s => s.swapUnforced c force)

/-- BANK_SWAP with the force flag set (R10, R15). -/
def execBankSwapForced (c : Caller) (s : State) : Host.Outcome State Fault Refusal :=
  takeRequest (.bankSwapForced c) s (fun s => s.requestSwap c State.beginForcedSwap)

/-- SWAP_CANCEL's checks and effect (R19). -/
def State.cancelSwap (s : State) (c : Caller) : State :=
  if s.swapPending then s.abandonSwap.ack c else s.nak c .badState 0 255

/-- SWAP_CANCEL (R19). -/
def execSwapCancel (c : Caller) (s : State) : Host.Outcome State Fault Refusal :=
  takeRequest (.swapCancel c) s (fun s => s.cancelSwap c)

/-! ### SECTION_CMD (R120, R121) -/

/-- A request for a section, refused with NAK BAD_INDEX above 63 (R120). -/
def State.forSection (s : State) (c : Caller) (sect : Byte) (run : SectionId → State) : State :=
  match sectionOfByte sect with
  | some x => run x
  | none => s.nak c .badIndex 0 sect

/-- ISOLATE: a section already ISOLATED takes lockout and OPEN alone (R119, R120). -/
def State.commandIsolate (s : State) (x : SectionId) : State :=
  if (s.sec x).state == .isolated then s.modSec x (fun r => { r with lockout := true, command := some .opening })
  else (s.isolate x).evalSwap

/-- SECTION_CMD ISOLATE (R120). -/
def execSectionCmdIsolate (c : Caller) (sect : Byte) (s : State) : Host.Outcome State Fault Refusal :=
  takeRequest (.sectionCmdIsolate c sect) s (fun s => s.forSection c sect (fun x => (s.commandIsolate x).ack c))

/-- ENABLE clears lockout; an ISOLATED section goes to STANDBY in RUNNING (R120). -/
def State.commandEnable (s : State) (x : SectionId) : State :=
  s.modSec x (fun r =>
    { r with lockout := false
             state := if r.state == .isolated && s.admission == .running then .standby else r.state })

/-- SECTION_CMD ENABLE (R120). -/
def execSectionCmdEnable (c : Caller) (sect : Byte) (s : State) : Host.Outcome State Fault Refusal :=
  takeRequest (.sectionCmdEnable c sect) s (fun s => s.forSection c sect (fun x => (s.commandEnable x).ack c))

/-- The NAK that answers WAKE, if any (R121). -/
def State.wakeRefused (s : State) (x : SectionId) : Option NakCode :=
  match (s.sec x).state with
  | .isolated => some .badState
  | .raising => none
  | .energised => none
  | .idle => if s.feederStateOf x == .online then none else some .notReady
  | .standby => if s.feederStateOf x == .online then none else some .notReady

/-- WAKE's checks and effect (R121). -/
def State.commandWake (s : State) (c : Caller) (sect : Byte) (x : SectionId) : State :=
  match s.wakeRefused x with
  | some k => s.nak c k 0 sect
  | none => (s.wake x).ack c

/-- SECTION_CMD WAKE (R121). -/
def execSectionCmdWake (c : Caller) (sect : Byte) (s : State) : Host.Outcome State Fault Refusal :=
  takeRequest (.sectionCmdWake c sect) s (fun s => s.forSection c sect (fun x => s.commandWake c sect x))

/-- A section that a rest may not take: its load is above 0, or any entry refers to it (R121). -/
def State.restRefused (s : State) (x : SectionId) : Bool :=
  decide (0 < s.load x)
    || s.feeders.toList.any (fun d => d.wait1.any (fun e => e.sect == x) || d.wait2.any (fun e => e.sect == x))

/-- REST_IDLE's checks and effect (R121). -/
def State.commandRestIdle (s : State) (c : Caller) (sect : Byte) (x : SectionId) : State :=
  if s.restRefused x then s.nak c .badState 0 sect
  else
    match (s.sec x).state with
    | .energised => (s.restIdle x).ack c
    | .idle => s.ack c
    | .standby => s.nak c .badState 0 sect
    | .raising => s.nak c .badState 0 sect
    | .isolated => s.nak c .badState 0 sect

/-- SECTION_CMD REST_IDLE (R121). -/
def execSectionCmdRestIdle (c : Caller) (sect : Byte) (s : State) : Host.Outcome State Fault Refusal :=
  takeRequest (.sectionCmdRestIdle c sect) s (fun s => s.forSection c sect (fun x => s.commandRestIdle c sect x))

/-- REST_STANDBY's checks and effect (R121). -/
def State.commandRestStandby (s : State) (c : Caller) (sect : Byte) (x : SectionId) : State :=
  if s.restRefused x then s.nak c .badState 0 sect
  else
    match (s.sec x).state with
    | .energised => (s.openToStandby x).ack c
    | .idle => (s.openToStandby x).ack c
    | .standby => s.ack c
    | .raising => (s.openToStandby x).ack c
    | .isolated => s.nak c .badState 0 sect

/-- SECTION_CMD REST_STANDBY (R121). -/
def execSectionCmdRestStandby (c : Caller) (sect : Byte) (s : State) : Host.Outcome State Fault Refusal :=
  takeRequest (.sectionCmdRestStandby c sect) s (fun s => s.forSection c sect (fun x => s.commandRestStandby c sect x))

/-! ### FEEDER_CMD (R79, R80) -/

/-- A request for a feeder, refused with NAK BAD_INDEX above 15. -/
def State.forFeeder (s : State) (c : Caller) (feeder : Byte) (run : FeederId → State) : State :=
  match feederOfByte feeder with
  | some f => run f
  | none => s.nak c .badIndex 0 feeder

/-- The feeder's latest sample is fresh and shows CLOSED (R79). -/
def Meter.showsClosed (m : Meter) : Bool := m.silence.isSome && (m.latest.map (·.breaker)) == some .closed

/-- An accepted RESUME: the ring, ONLINE, the sections, arbitration (R79). -/
def State.resumeFeeder (s : State) (f : FeederId) : State := (s.modRing f Ring.released).feederOnline f

/-- RESUME's checks and effect (R79). -/
def State.commandResume (s : State) (c : Caller) (feeder : Byte) (f : FeederId) : State :=
  match (s.fdr f).state with
  | .online => s.nak c .badState 0 feeder
  | .suspect => s.nak c .badState 0 feeder
  | .offline => if (s.meter f).showsClosed then (s.resumeFeeder f).ack c else s.nak c .notReady 0 feeder
  | .tripped => if (s.meter f).showsClosed then (s.resumeFeeder f).ack c else s.nak c .notReady 0 feeder

/-- FEEDER_CMD RESUME (R79). -/
def execFeederCmdResume (c : Caller) (feeder : Byte) (s : State) : Host.Outcome State Fault Refusal :=
  takeRequest (.feederCmdResume c feeder) s (fun s => s.forFeeder c feeder (fun f => s.commandResume c feeder f))

/-- FEEDER_CMD OFFLINE (R80). -/
def execFeederCmdOffline (c : Caller) (feeder : Byte) (s : State) : Host.Outcome State Fault Refusal :=
  takeRequest (.feederCmdOffline c feeder) s (fun s => s.forFeeder c feeder (fun f => (s.feederOffline f).ack c))

/-! ### TRUCK_ORDER (R36 to R39) -/

/-- A request for a truck with a context, refused with NAK UNKNOWN_TRUCK otherwise (R36). -/
def State.forTruck (s : State) (c : Caller) (truck : Byte) (run : Slot → State) : State :=
  match s.slotOf truck with
  | some i => run i
  | none => s.nak c .unknownTruck 0 truck

/-- TRUCK_ORDER LOWER (R37). -/
def execTruckOrderLower (c : Caller) (truck : Byte) (s : State) : Host.Outcome State Fault Refusal :=
  takeRequest (.truckOrderLower c truck) s (fun s => s.forTruck c truck (fun i => ((s.orderLower i).evalSwap).ack c))

/-- TRUCK_ORDER HOLD (R38). -/
def execTruckOrderHold (c : Caller) (truck : Byte) (s : State) : Host.Outcome State Fault Refusal :=
  takeRequest (.truckOrderHold c truck) s (fun s => s.forTruck c truck (fun i => ((s.orderHold i).evalSwap).ack c))

/-- TRUCK_ORDER UNHOLD (R38). -/
def execTruckOrderUnhold (c : Caller) (truck : Byte) (s : State) : Host.Outcome State Fault Refusal :=
  takeRequest (.truckOrderUnhold c truck) s (fun s => s.forTruck c truck (fun i => (s.setHoldFlag i false).ack c))

/-- TRUCK_ORDER CLEAR_FAULT (R39). -/
def execTruckOrderClearFault (c : Caller) (truck : Byte) (s : State) : Host.Outcome State Fault Refusal :=
  takeRequest (.truckOrderClearFault c truck) s (fun s => s.forTruck c truck (fun i => (s.orderClearFault i).ack c))

/-- EVICT's check and effect (R39). -/
def State.orderEvict (s : State) (c : Caller) (truck : Byte) (i : Slot) : State :=
  match (s.ctx i).state with
  | .tracked => ((s.freeCtx i).evalSwap).ack c
  | .faulted => ((s.freeCtx i).evalSwap).ack c
  | _ => s.nak c .badState 0 truck

/-- TRUCK_ORDER EVICT (R39). -/
def execTruckOrderEvict (c : Caller) (truck : Byte) (s : State) : Host.Outcome State Fault Refusal :=
  takeRequest (.truckOrderEvict c truck) s (fun s => s.forTruck c truck (fun i => s.orderEvict c truck i))

/-! ### PASS_DATA (R158) -/

/-- The stored tag that a downward DAT carries: 0 for broadcast; none where the request is refused (R158). -/
def State.passTag (s : State) (truck : Byte) : Option Byte :=
  if truck = 255 then some 0
  else if isTruckAddress truck then (s.slotOf truck).map (fun i => (s.ctx i).tagByte)
  else none

/-- PASS_DATA's check and effect (R158). -/
def State.pass (s : State) (c : Caller) (truck : Byte) (data : List Byte) : State :=
  if 239 < data.length then s.nak c .badKind 0 255
  else
    match s.passTag truck with
    | some tag => (s.sendNormal (datFrame truck tag data)).ack c
    | none => s.nak c .unknownTruck 0 truck

/-- PASS_DATA (R158). -/
def execPassData (c : Caller) (truck : Byte) (data : List Byte) (s : State) : Host.Outcome State Fault Refusal :=
  takeRequest (.passData c truck data) s (fun s => s.pass c truck data)

/-! ### History (R137, R138) -/

/-- HISTORY_READ's checks and reply (R138). -/
def State.history (s : State) (c : Caller) (feeder : Byte) (offset : Word) (count : Byte) : State :=
  match feederOfByte feeder with
  | none => s.nak c .badIndex 0 feeder
  | some f =>
    if 32 < count.toNat then s.nak c .badValue 0 feeder
    else if (s.ring f).state == .disabled then s.nak c .badState 0 feeder
    else s.reply c 0x73 (s.historyBytes f offset.toNat (historyCount count))

/-- HISTORY_READ (R138). -/
def execHistoryRead (c : Caller) (feeder : Byte) (offset : Word) (count : Byte) (s : State) : Host.Outcome State Fault Refusal :=
  takeRequest (.historyRead c feeder offset count) s (fun s => s.history c feeder offset count)

/-- HISTORY_RELEASE's checks and effect (R137). -/
def State.releaseRing (s : State) (c : Caller) (feeder : Byte) (f : FeederId) : State :=
  if (s.ring f).state == .disabled then s.nak c .badState 0 feeder else (s.modRing f Ring.released).ack c

/-- HISTORY_RELEASE (R137). -/
def execHistoryRelease (c : Caller) (feeder : Byte) (s : State) : Host.Outcome State Fault Refusal :=
  takeRequest (.historyRelease c feeder) s (fun s => s.forFeeder c feeder (fun f => s.releaseRing c feeder f))

/-! ### Reads of the whole part (R40, R70, R162, R163) -/

/-- The STATUS_DATA reply; then every latch is cleared and the ALERT line evaluated (R162). -/
def State.readStatus (s : State) (c : Caller) : State :=
  ({ (s.reply c 0x74 s.statusBytes).drawn 96 with latches := 0 } : State).evalAlert

/-- STATUS_READ (R162). -/
def execStatusRead (c : Caller) (s : State) : Host.Outcome State Fault Refusal :=
  takeRequest (.statusRead c) s (fun s => s.readStatus c)

/-- COUNTER_READ (R163). -/
def execCounterRead (c : Caller) (s : State) : Host.Outcome State Fault Refusal :=
  takeRequest (.counterRead c) s (fun s => s.reply c 0x75 s.counters.bytes)

/-- CONTEXT_READ's checks and reply (R40). -/
def State.readContext (s : State) (c : Caller) (selector value : Byte) : State :=
  if selector = 0 then
    match slotOfByte value with
    | some i => s.reply c 0x76 (s.contextBytes i)
    | none => s.nak c .badIndex 0 value
  else if selector = 1 then
    match s.slotOf value with
    | some i => s.reply c 0x76 (s.contextBytes i)
    | none => s.nak c .unknownTruck 0 value
  else s.nak c .badValue 0 255

/-- CONTEXT_READ (R40). -/
def execContextRead (c : Caller) (selector value : Byte) (s : State) : Host.Outcome State Fault Refusal :=
  takeRequest (.contextRead c selector value) s (fun s => s.readContext c selector value)

/-- QUEUE_READ (R70). -/
def execQueueRead (c : Caller) (feeder skip : Byte) (s : State) : Host.Outcome State Fault Refusal :=
  takeRequest (.queueRead c feeder skip) s (fun s => s.forFeeder c feeder (fun f => s.reply c 0x77 (s.queueBytes f skip)))

/-! ### Ramp stop and resume (R123 to R125) -/

/-- RAMP_STOP by request: the stop, the swap, the ACK (R123, R124). -/
def execRampStop (c : Caller) (s : State) : Host.Outcome State Fault Refusal :=
  takeRequest (.rampStop c) s (fun s => ((s.takeRampStop 1).evalSwap).ack c)

/-- RAMP_RESUME's checks and effect (R125). -/
def State.resumeRamp (s : State) (c : Caller) : State :=
  if s.stopLine || s.admission == .running then s.nak c .badState 0 255 else s.takeRampResume.ack c

/-- RAMP_RESUME (R125). -/
def execRampResume (c : Caller) (s : State) : Host.Outcome State Fault Refusal :=
  takeRequest (.rampResume c) s (fun s => s.resumeRamp c)

end Sys2Proof.Machine
end

