-- ==== Sys2Proof/Machine/Timers.lean ====
section
/-! DEFINITION. The expiry of each timer, and the end of a post-trip count. An expiry is taken where its timer runs, whatever time is left on it (log 3); a stopped timer does not expire (R41). -/

namespace Sys2Proof.Machine
open Sys2Proof

/-- The timer of a context runs. -/
def State.runs (s : State) (i : Slot) (timer : Context → Timer) : Bool := (timer (s.ctx i)).isSome

/-- An expiry takes its effect where its timer runs. -/
def State.expire (s : State) (running : Bool) (effect : State → State) : State := if running then effect s else s

/-- SILENCE_EXPIRY (R29). -/
def execSilenceExpiry (slot : Slot) (s : State) : Host.Outcome State Fault Refusal :=
  whileOutOfReset s (fun s => s.expire (s.runs slot (·.silenceTimer)) (fun s => s.silence slot))

/-- The grant expiry runs out: reason EXPIRED and the ordinary drop time (R58). -/
def State.expireGrant (s : State) (i : Slot) : State :=
  if (s.ctx i).state == .drawing then s.startDrop i .expired s.globals.ordinaryDrop
  else s.modCtx i (fun c => { c with grantExpiry := none })

/-- GRANT_EXPIRY (R58). -/
def execGrantExpiry (slot : Slot) (s : State) : Host.Outcome State Fault Refusal :=
  whileOutOfReset s (fun s => s.expire (s.runs slot (·.grantExpiry)) (fun s => s.expireGrant slot))

/-- The offers-lapsed counter counts (R163). -/
def State.countLapsed (s : State) : State :=
  { s with counters := { s.counters with lapsed := holdAdd s.counters.lapsed 1 } }

/-- The offer window closes: the offer lapses (R54). -/
def State.lapse (s : State) (i : Slot) : State :=
  let amount := ((s.ctx i).hold.map (·.amount)).getD 0
  if (s.ctx i).state == .offered then
    ((((s.giveUp i .tracked).report .offerLapsed (s.ctx i).address.toNat amount).countLapsed).arbitrateOn (s.touches i)).evalSwap
  else s.modCtx i (fun c => { c with offerWindow := none })

/-- OFFER_WINDOW_EXPIRY (R54). -/
def execOfferWindowExpiry (slot : Slot) (s : State) : Host.Outcome State Fault Refusal :=
  whileOutOfReset s (fun s => s.expire (s.runs slot (·.offerWindow)) (fun s => s.lapse slot))

/-- The offer repeat timer expires: OFR again while repeats remain. Where the window has run out its expiry is taken
instead (R51). The limit is the one in the GLOBAL table at the expiry (log 31). The count holds at 15 (R21, log 17). -/
def State.repeatOffer (s : State) (i : Slot) : State :=
  if (s.ctx i).state == .offered && (s.ctx i).offerWindow == some 0 then s.lapse i
  else if (s.ctx i).state == .offered
      && (s.globals.repeatLimit == 0 || decide ((s.ctx i).repeatCount < s.globals.repeatLimit)) then
    (s.modCtx i (fun c =>
      { c with repeatCount := min 15 (c.repeatCount + 1), offerRepeat := quarters s.globals.offerRepeat })).sendOfr i (s.ctx i).tagByte
  else s.modCtx i (fun c => { c with offerRepeat := none })

/-- OFFER_REPEAT_EXPIRY (R51). -/
def execOfferRepeatExpiry (slot : Slot) (s : State) : Host.Outcome State Fault Refusal :=
  whileOutOfReset s (fun s => s.expire (s.runs slot (·.offerRepeat)) (fun s => s.repeatOffer slot))

/-- The drop deadline runs out: DROP_LATE, the end of the drop, one strike (R62). -/
def State.dropLate (s : State) (i : Slot) : State :=
  if (s.ctx i).state == .dropping then
    ((((s.report .dropLate (s.ctx i).address.toNat (s.ctx i).pos.drawn).endDrop i).strikeLate i)).evalSwap
  else s.modCtx i (fun c => { c with dropDeadline := none })

/-- DROP_DEADLINE_EXPIRY (R62). -/
def execDropDeadlineExpiry (slot : Slot) (s : State) : Host.Outcome State Fault Refusal :=
  whileOutOfReset s (fun s => s.expire (s.runs slot (·.dropDeadline)) (fun s => s.dropLate slot))

/-- The crossing timer runs out (R103). -/
def State.crossingOut (s : State) (i : Slot) : State :=
  if (s.ctx i).state == .crossing then (s.stall i).evalSwap
  else s.setGap i { (s.ctx i).gap with crossing := none }

/-- CROSSING_TIMER_EXPIRY (R103). -/
def execCrossingTimerExpiry (slot : Slot) (s : State) : Host.Outcome State Fault Refusal :=
  whileOutOfReset s (fun s => s.expire (s.runs slot (·.gap.crossing)) (fun s => s.crossingOut slot))

/-- CARRIED_HOLD_EXPIRY: the carried hold stops, with no other effect (R89). -/
def execCarriedHoldExpiry (slot : Slot) (s : State) : Host.Outcome State Fault Refusal :=
  whileOutOfReset s (fun s =>
    s.expire (s.runs slot (·.gap.carried)) (fun s => s.setGap slot { (s.ctx slot).gap with carried := none }))

/-- SWAP_TIMER_EXPIRY (R14). -/
def execSwapTimerExpiry (s : State) : Host.Outcome State Fault Refusal :=
  whileOutOfReset s (fun s => s.expire (s.swapTimer.isSome && s.swap == .pending) State.timeoutSwap)

/-- OVERLOAD_TIMER_EXPIRY (R86). -/
def execOverloadTimerExpiry (feeder : FeederId) (s : State) : Host.Outcome State Fault Refusal :=
  whileOutOfReset s (fun s => s.expire (s.fdr feeder).overload.isSome (fun s => s.shed feeder))

/-- METER_SILENCE_EXPIRY (R81, R127). -/
def execMeterSilenceExpiry (feeder : FeederId) (s : State) : Host.Outcome State Fault Refusal :=
  whileOutOfReset s (fun s => s.expire (s.meter feeder).silence.isSome (fun s => s.meterSilent feeder))

/-- The meter-lost timer runs out in SUSPECT (R82). -/
def State.meterLostOut (s : State) (f : FeederId) : State :=
  if (s.fdr f).state == .suspect then s.feederLost f else s.modFdr f (fun d => { d with meterLost := none })

/-- METER_LOST_TIMER_EXPIRY (R82). -/
def execMeterLostTimerExpiry (feeder : FeederId) (s : State) : Host.Outcome State Fault Refusal :=
  whileOutOfReset s (fun s => s.expire (s.fdr feeder).meterLost.isSome (fun s => s.meterLostOut feeder))

/-- The idle timer runs out in ENERGISED: KEEPALIVE, IDLE, the standby timer (R110, R111). -/
def State.idleOut (s : State) (x : SectionId) : State :=
  if (s.sec x).state == .energised then s.restIdle x else s.modSec x (fun r => { r with idleTimer := none })

/-- IDLE_TIMER_EXPIRY (R110). -/
def execIdleTimerExpiry (sect : SectionId) (s : State) : Host.Outcome State Fault Refusal :=
  whileOutOfReset s (fun s => s.expire (s.sec sect).idleTimer.isSome (fun s => s.idleOut sect))

/-- The standby timer runs out in IDLE: OPEN, STANDBY (R111). -/
def State.standbyOut (s : State) (x : SectionId) : State :=
  if (s.sec x).state == .idle then s.openToStandby x else s.modSec x (fun r => { r with standbyTimer := none })

/-- STANDBY_TIMER_EXPIRY (R111). -/
def execStandbyTimerExpiry (sect : SectionId) (s : State) : Host.Outcome State Fault Refusal :=
  whileOutOfReset s (fun s => s.expire (s.sec sect).standbyTimer.isSome (fun s => s.standbyOut sect))

/-- The raise timer runs out in RAISING: the raise fails (R116). -/
def State.raiseOut (s : State) (x : SectionId) : State :=
  if (s.sec x).state == .raising then (s.failRaise x false).evalSwap else s.modSec x (fun r => { r with raiseTimer := none })

/-- RAISE_LIMIT_EXPIRY (R116). -/
def execRaiseLimitExpiry (sect : SectionId) (s : State) : Host.Outcome State Fault Refusal :=
  whileOutOfReset s (fun s => s.expire (s.sec sect).raiseTimer.isSome (fun s => s.raiseOut sect))

/-- The countdown of a POST_TRIP ring has reached 0 (R136). -/
def Ring.countEnded (r : Ring) : Bool := r.state == .postTrip && r.countdown == some 0

/-- POST_TRIP_COUNT_END: the ring whose countdown has reached 0 freezes (R136, log 19). -/
def execPostTripCountEnd (feeder : FeederId) (s : State) : Host.Outcome State Fault Refusal :=
  whileOutOfReset s (fun s => s.expire (s.ring feeder).countEnded (fun s => s.freezeRing feeder))

end Sys2Proof.Machine
end

