-- ==== Sys2Proof/Machine/Resets.lean ====
section
/-! DEFINITION. The reset pin, the hard reset, the ramp-stop line and RESTART (R122 to R124, R164, R165). -/

namespace Sys2Proof.Machine
open Sys2Proof

/-! ### Ramp-stop line (R122, R123) -/

/-- A ramp stop by the line: the stop and the evaluation of a pending swap (R123, R124). -/
def State.lineStop (s : State) : State := (s.takeRampStop 0).evalSwap

/-- The ramp stop that a reset takes where the line is asserted at its end (R122, R164, R165). -/
def State.stopIfAsserted (s : State) : State := if s.stopLine then s.lineStop else s

/-- RAMP_STOP_LINE_ASSERT: the line goes from not asserted to asserted. The line's level is followed while the reset
pin is asserted, where the stop waits for the end of the reset (R122, R123, log 28). -/
def execRampStopLineAssert (s : State) : Host.Outcome State Fault Refusal :=
  .next (if s.stopLine then s
    else if s.resetPin then { s with stopLine := true }
    else ({ s with stopLine := true } : State).lineStop)

/-- RAMP_STOP_LINE_RELEASE: the line's return changes nothing but its own level (R122). -/
def execRampStopLineRelease (s : State) : Host.Outcome State Fault Refusal :=
  .next { s with stopLine := false }

/-! ### Hard reset (R165) -/

/-- The part's C-link address: 224 plus the straps (R153). -/
def strapAddress (straps : BitVec 3) : Byte := byte (224 + straps.toNat)

/-- HARD_RESET: the pin is released or the supply has settled; the five steps of R165. -/
def execHardReset (straps : BitVec 3) (s : State) : Host.Outcome State Fault Refusal :=
  .next ((((State.powerOn (strapAddress straps) s.stopLine s.samples s.fresh s.pending).report
    .restartDone 0 (strapAddress straps).toNat)).stopIfAsserted)

/-- RESET_PIN_ASSERTION: the part drives no link, releases ALERT, cuts short what it was sending, and takes no
character until the pin is released (R165, log 9). -/
def execResetPinAssertion (s : State) : Host.Outcome State Fault Refusal :=
  .next { s with
    resetPin := true, alert := false, wSending := none, cSending := none
    asmW := Assembler.hunting, asmC := Assembler.hunting, asmM := Assembler.hunting }

/-! ### RESTART (R164) -/

/-- A section record after RESTART: lockout and last SSU status kept (R106). -/
def SectionRec.restarted (r : SectionRec) : SectionRec :=
  { SectionRec.reset with lockout := r.lockout, ssu := r.ssu }

/-- Steps 2 to 9 of R164. -/
def State.restarted (s : State) : State :=
  { s with
    alert := false
    broadcast := true
    normalQueue := []
    latches := 0
    eventSeq := 0
    counters := Counters.zero
    swap := SwapState.none
    swapTimer := none
    contexts := Vector.replicate 48 Context.freed
    feeders := s.feeders.map (fun d => Feeder.resetWith d.config)
    loads := Vector.replicate 64 0
    sections := s.sections.map SectionRec.restarted
    admission := .halted
    rings := s.rings.map Ring.restarted }

/-- RESTART: the ACK first, the reset state, RESTART_DONE, and a ramp stop where the line is asserted (R164). -/
def execRestart (c : Caller) (s : State) : Host.Outcome State Fault Refusal :=
  takeRequest (.restart c) s (fun s =>
    ((s.ack c).restarted.report .restartDone 1 s.cAddress.toNat).stopIfAsserted)

end Sys2Proof.Machine
end

