-- ==== Sys2Proof/Machine/Dispatch.lean ====
section
/-! DEFINITION. One arm per command: its meaning. -/

namespace Sys2Proof.Machine
open Sys2Proof

/-- The effect of a command on everything but the queue. -/
def exec (i : Instr) (s : State) : Host.Outcome State Fault Refusal :=
  match i with
  | .hardReset straps => Sys2Proof.Machine.execHardReset straps s
  | .rampStopLineAssert => Sys2Proof.Machine.execRampStopLineAssert s
  | .rampStopLineRelease => Sys2Proof.Machine.execRampStopLineRelease s
  | .psn truck tag chainage heading pantograph loaded drawn => Sys2Proof.Machine.execPsn truck tag chainage heading pantograph loaded drawn s
  | .drq truck tag requested minimum hold => Sys2Proof.Machine.execDrq truck tag requested minimum hold s
  | .acc truck tag => Sys2Proof.Machine.execAcc truck tag s
  | .rel truck tag => Sys2Proof.Machine.execRel truck tag s
  | .dat truck tag payload => Sys2Proof.Machine.execDat truck tag payload s
  | .sst sect contactor voltage fault => Sys2Proof.Machine.execSst sect contactor voltage fault s
  | .smp feeder seq current voltage breaker => Sys2Proof.Machine.execSmp feeder seq current voltage breaker s
  | .checkError link bytes => Sys2Proof.Machine.execCheckError link bytes s
  | .runt link => Sys2Proof.Machine.execRunt link s
  | .foreignFrame link frame => Sys2Proof.Machine.execForeignFrame link frame s
  | .requestFrame frame => Sys2Proof.Machine.execRequestFrame frame s
  | .unknownRequestKind caller kind payload => Sys2Proof.Machine.execUnknownRequestKind caller kind payload s
  | .tableWriteSection caller bank index entry => Sys2Proof.Machine.execTableWriteSection caller bank index entry s
  | .tableWriteGap caller bank index entry => Sys2Proof.Machine.execTableWriteGap caller bank index entry s
  | .tableWriteFeeder caller bank index entry => Sys2Proof.Machine.execTableWriteFeeder caller bank index entry s
  | .tableWriteClass caller bank index entry => Sys2Proof.Machine.execTableWriteClass caller bank index entry s
  | .tableWriteRing caller bank index entry => Sys2Proof.Machine.execTableWriteRing caller bank index entry s
  | .tableWriteGlobal caller bank index value => Sys2Proof.Machine.execTableWriteGlobal caller bank index value s
  | .tableReadSection caller bank index => Sys2Proof.Machine.execTableReadSection caller bank index s
  | .tableReadGap caller bank index => Sys2Proof.Machine.execTableReadGap caller bank index s
  | .tableReadFeeder caller bank index => Sys2Proof.Machine.execTableReadFeeder caller bank index s
  | .tableReadClass caller bank index => Sys2Proof.Machine.execTableReadClass caller bank index s
  | .tableReadRing caller bank index => Sys2Proof.Machine.execTableReadRing caller bank index s
  | .tableReadGlobal caller bank index => Sys2Proof.Machine.execTableReadGlobal caller bank index s
  | .bankSwap caller force => Sys2Proof.Machine.execBankSwap caller force s
  | .bankSwapForced caller => Sys2Proof.Machine.execBankSwapForced caller s
  | .swapCancel caller => Sys2Proof.Machine.execSwapCancel caller s
  | .sectionCmdIsolate caller sect => Sys2Proof.Machine.execSectionCmdIsolate caller sect s
  | .sectionCmdEnable caller sect => Sys2Proof.Machine.execSectionCmdEnable caller sect s
  | .sectionCmdWake caller sect => Sys2Proof.Machine.execSectionCmdWake caller sect s
  | .sectionCmdRestIdle caller sect => Sys2Proof.Machine.execSectionCmdRestIdle caller sect s
  | .sectionCmdRestStandby caller sect => Sys2Proof.Machine.execSectionCmdRestStandby caller sect s
  | .feederCmdResume caller feeder => Sys2Proof.Machine.execFeederCmdResume caller feeder s
  | .feederCmdOffline caller feeder => Sys2Proof.Machine.execFeederCmdOffline caller feeder s
  | .truckOrderLower caller truck => Sys2Proof.Machine.execTruckOrderLower caller truck s
  | .truckOrderHold caller truck => Sys2Proof.Machine.execTruckOrderHold caller truck s
  | .truckOrderUnhold caller truck => Sys2Proof.Machine.execTruckOrderUnhold caller truck s
  | .truckOrderClearFault caller truck => Sys2Proof.Machine.execTruckOrderClearFault caller truck s
  | .truckOrderEvict caller truck => Sys2Proof.Machine.execTruckOrderEvict caller truck s
  | .passData caller truck data => Sys2Proof.Machine.execPassData caller truck data s
  | .historyRead caller feeder offset count => Sys2Proof.Machine.execHistoryRead caller feeder offset count s
  | .historyRelease caller feeder => Sys2Proof.Machine.execHistoryRelease caller feeder s
  | .statusRead caller => Sys2Proof.Machine.execStatusRead caller s
  | .counterRead caller => Sys2Proof.Machine.execCounterRead caller s
  | .contextRead caller selector value => Sys2Proof.Machine.execContextRead caller selector value s
  | .queueRead caller feeder skip => Sys2Proof.Machine.execQueueRead caller feeder skip s
  | .rampStop caller => Sys2Proof.Machine.execRampStop caller s
  | .rampResume caller => Sys2Proof.Machine.execRampResume caller s
  | .restart caller => Sys2Proof.Machine.execRestart caller s
  | .broadcastWithdrawal => Sys2Proof.Machine.execBroadcastWithdrawal s
  | .wdrTransmit => Sys2Proof.Machine.execWdrTransmit s
  | .scmTransmit => Sys2Proof.Machine.execScmTransmit s
  | .normalQueueTransmit => Sys2Proof.Machine.execNormalQueueTransmit s
  | .cLinkTransmit => Sys2Proof.Machine.execCLinkTransmit s
  | .wLinkRateChange => Sys2Proof.Machine.execWLinkRateChange s
  | .cLinkRateChange => Sys2Proof.Machine.execCLinkRateChange s
  | .silenceExpiry slot => Sys2Proof.Machine.execSilenceExpiry slot s
  | .grantExpiry slot => Sys2Proof.Machine.execGrantExpiry slot s
  | .offerWindowExpiry slot => Sys2Proof.Machine.execOfferWindowExpiry slot s
  | .offerRepeatExpiry slot => Sys2Proof.Machine.execOfferRepeatExpiry slot s
  | .dropDeadlineExpiry slot => Sys2Proof.Machine.execDropDeadlineExpiry slot s
  | .crossingTimerExpiry slot => Sys2Proof.Machine.execCrossingTimerExpiry slot s
  | .carriedHoldExpiry slot => Sys2Proof.Machine.execCarriedHoldExpiry slot s
  | .swapTimerExpiry => Sys2Proof.Machine.execSwapTimerExpiry s
  | .overloadTimerExpiry feeder => Sys2Proof.Machine.execOverloadTimerExpiry feeder s
  | .meterSilenceExpiry feeder => Sys2Proof.Machine.execMeterSilenceExpiry feeder s
  | .meterLostTimerExpiry feeder => Sys2Proof.Machine.execMeterLostTimerExpiry feeder s
  | .idleTimerExpiry sect => Sys2Proof.Machine.execIdleTimerExpiry sect s
  | .standbyTimerExpiry sect => Sys2Proof.Machine.execStandbyTimerExpiry sect s
  | .raiseLimitExpiry sect => Sys2Proof.Machine.execRaiseLimitExpiry sect s
  | .postTripCountEnd feeder => Sys2Proof.Machine.execPostTripCountEnd feeder s
  | .resetPinAssertion => Sys2Proof.Machine.execResetPinAssertion s
  | .marker link => Sys2Proof.Machine.execMarker link s

end Sys2Proof.Machine
end

