-- ==== Sys2Proof/Machine/Clock.lean ====
section
/-! DEFINITION. What the part does while no command waits: its own next step, or the passing of a millisecond (log 1, log 2). -/

namespace Sys2Proof.Machine
open Sys2Proof

/-! ### Timers that have run out -/

/-- A timer has run out. -/
def isDue (t : Timer) : Bool := t == some 0

/-- The first of some commands whose timer has run out. -/
def firstDue (timers : List (Timer × Instr)) : Option Instr := (timers.find? (fun p => isDue p.1)).map (·.2)

/-- The expiry due in a context; the window before the repeat (R51). -/
def State.dueInSlot (s : State) (i : Slot) : Option Instr :=
  let c := s.ctx i
  firstDue [(c.silenceTimer, .silenceExpiry i), (c.grantExpiry, .grantExpiry i), (c.offerWindow, .offerWindowExpiry i),
    (c.offerRepeat, .offerRepeatExpiry i), (c.dropDeadline, .dropDeadlineExpiry i),
    (c.gap.crossing, .crossingTimerExpiry i), (c.gap.carried, .carriedHoldExpiry i)]

/-- The expiry due in a feeder. -/
def State.dueInFeeder (s : State) (f : FeederId) : Option Instr :=
  firstDue [((s.fdr f).overload, .overloadTimerExpiry f), ((s.meter f).silence, .meterSilenceExpiry f),
    ((s.fdr f).meterLost, .meterLostTimerExpiry f)]

/-- The expiry due in a section. -/
def State.dueInSection (s : State) (x : SectionId) : Option Instr :=
  let r := s.sec x
  firstDue [(r.idleTimer, .idleTimerExpiry x), (r.standbyTimer, .standbyTimerExpiry x), (r.raiseTimer, .raiseLimitExpiry x)]

/-- The swap timer has run out in PENDING (R14). -/
def State.dueSwap (s : State) : Option Instr :=
  if isDue s.swapTimer && s.swap == .pending then some .swapTimerExpiry else none

/-- The first expiry due. -/
def State.dueTimer (s : State) : Option Instr :=
  s.dueSwap.or ((allSlots.findSome? s.dueInSlot).or ((allFeeders.findSome? s.dueInFeeder).or (allSections.findSome? s.dueInSection)))

/-! ### The blocks that act of their own accord -/

/-- The request MA takes: the oldest of the buffer, while an entry of the C-link queue is free (R154). -/
def State.dueRequest (s : State) : Option Instr :=
  if s.cQueue.length < 32 then s.requestBuffer.head?.map requestOfFrame else none

/-- The link whose frame ends as a runt (R142). -/
def State.dueRunt (s : State) : Option Instr :=
  if s.asmW.late then some (.runt .w) else if s.asmC.late then some (.runt .c) else if s.asmM.late then some (.runt .m) else none

/-- The link rate that takes effect (R140). -/
def State.dueRate (s : State) : Option Instr :=
  if s.wFree && s.wRate != s.globals.wRate then some .wLinkRateChange
  else if s.cSending.isNone && s.cRateDue then some .cLinkRateChange
  else none

/-- The choice of the W-link transmit arbiter while the transmitter is free (R148). -/
def State.dueW (s : State) : Option Instr :=
  if s.wFree then
    if s.broadcast then some .broadcastWithdrawal
    else if s.withdrawSlot.isSome then some .wdrTransmit
    else if s.commandSection.isSome then some .scmTransmit
    else if s.normalQueue.isEmpty then none
    else some .normalQueueTransmit
  else none

/-- The C-link transmitter starts a frame while it is free (R155). -/
def State.dueC (s : State) : Option Instr :=
  if s.cFree && !s.cQueue.isEmpty then some .cLinkTransmit else none

/-- The part's own next step, if one is due (log 2). -/
def State.ownStep (s : State) : Option Instr :=
  s.dueTimer.or (s.dueRequest.or (s.dueRunt.or (s.dueRate.or (s.dueW.or s.dueC))))

/-! ### A millisecond (log 1) -/

/-- The timers of a context run; the silence age of an allocated context grows (R21, R29). -/
def Context.tick (c : Context) : Context :=
  { c with
    silenceAge := if c.state == .free then c.silenceAge else c.silenceAge + 1
    silenceTimer := tickTimer c.silenceTimer
    grantExpiry := tickTimer c.grantExpiry
    offerWindow := tickTimer c.offerWindow
    offerRepeat := tickTimer c.offerRepeat
    dropDeadline := tickTimer c.dropDeadline
    gap := { c.gap with crossing := tickTimer c.gap.crossing, carried := tickTimer c.gap.carried } }

/-- The timers of a feeder run. -/
def Feeder.tick (d : Feeder) : Feeder := { d with overload := tickTimer d.overload, meterLost := tickTimer d.meterLost }

/-- The timers of a section run. -/
def SectionRec.tick (r : SectionRec) : SectionRec :=
  { r with raiseTimer := tickTimer r.raiseTimer, idleTimer := tickTimer r.idleTimer, standbyTimer := tickTimer r.standbyTimer }

/-- The meter silence timer runs. -/
def Meter.tick (m : Meter) : Meter := { m with silence := tickTimer m.silence }

/-- A frame being sent goes on, or ends (R148). -/
def Sending.tick (bits : Nat) (f : Sending) : Option Sending :=
  if f.left ≤ bits then none else some { f with left := f.left - bits }

/-- The gap watch of a frame being received runs (R142). -/
def Assembler.tick (bits : Nat) (a : Assembler) : Assembler :=
  if a.phase == .hunt then a else { a with watch := a.watch + bits }

/-- The bits of the M-link in a millisecond, in tenths: 460800 bit/s (R140). -/
def meterBits : Nat := 4608

/-- A millisecond passes (log 1). -/
def State.tick (s : State) : State :=
  { s with
    asmW := s.asmW.tick (rateTenths s.wRate)
    asmC := s.asmC.tick (rateTenths s.cRate)
    asmM := s.asmM.tick meterBits
    wSending := s.wSending.bind (Sending.tick (rateTenths s.wRate))
    cSending := s.cSending.bind (Sending.tick (rateTenths s.cRate))
    swapTimer := tickTimer s.swapTimer
    contexts := s.contexts.map Context.tick
    feeders := s.feeders.map Feeder.tick
    sections := s.sections.map SectionRec.tick
    meters := s.meters.map Meter.tick }

/-- The step of an empty queue: nothing while the reset pin is asserted; the part's own next step; or a millisecond. -/
def State.idle (s : State) : Host.Outcome State Fault Refusal :=
  if s.resetPin then .next s
  else
    match s.ownStep with
    | some i => exec i s
    | none => .next s.tick

end Sys2Proof.Machine
end

