-- ==== Sys2Proof/Safety.lean ====
section
/-! DEFINITION. What keeps the part sound: the properties of a state that every step is to keep, and the words in which they are said. -/

namespace Sys2Proof.Machine
open Sys2Proof

/-! ### Budgets (R66, R67) -/

/-- What a grant, offer or reservation puts on a feeder. -/
def heldOn (f : FeederId) : Option Holding → Nat
  | some h => if h.feeder = f then h.amount else 0
  | none => 0

/-- What a grant, offer or reservation puts on a section. -/
def heldIn (x : SectionId) : Option Holding → Nat
  | some h => if h.sect = x then h.amount else 0
  | none => 0

/-- What a context puts on a feeder: its grant or offer, and its reservation. -/
def Context.onFeeder (c : Context) (f : FeederId) : Nat := heldOn f c.hold + heldOn f c.gap.reserved

/-- What a context puts on a section. -/
def Context.inSection (c : Context) (x : SectionId) : Nat := heldIn x c.hold + heldIn x c.gap.reserved

/-- The sum of the grant, offer and reservation amounts that refer to a feeder (R66). -/
def State.feederSum (s : State) (f : FeederId) : Nat := (allSlots.map (fun i => (s.ctx i).onFeeder f)).sum

/-- The sum of the grant, offer and reservation amounts that refer to a section (R67). -/
def State.sectionSum (s : State) (x : SectionId) : Nat := (allSlots.map (fun i => (s.ctx i).inSection x)).sum

/-- Each feeder's committed current and each section's load is the sum of what refers to it (R66, R67). -/
def State.budgetsAgree (s : State) : Prop :=
  (∀ f, (s.fdr f).committed = s.feederSum f) ∧ ∀ x, s.load x = s.sectionSum x

/-! ### Queues (R150, R154, R155) -/

/-- The normal queue and the C-link queue hold at most 32 frames, the request buffer at most 4. -/
def State.queuesBounded (s : State) : Prop :=
  s.normalQueue.length ≤ 32 ∧ s.cQueue.length ≤ 32 ∧ s.requestBuffer.length ≤ 4

/-! ### Rings and sample memory (R129 to R131) -/

/-- A ring's length and place in the sample memory, its write position and its fill lie in their ranges (R130, R131). -/
def Ring.sound (r : Ring) : Prop :=
  16 ≤ r.desc.length ∧ r.desc.length ≤ 2048 ∧ r.desc.length % 16 = 0 ∧ r.desc.start + r.desc.length ≤ 8192
    ∧ r.desc.start ≤ r.writePos ∧ r.writePos < r.desc.start + r.desc.length ∧ r.fill ≤ r.desc.length

/-- Every ring is sound. -/
def State.ringsSound (s : State) : Prop := ∀ f, (s.ring f).sound

/-- The sample memory is in its canonical form and lists addresses 0 to 8191 alone (R129, log 5). -/
def State.memoryCanonical (s : State) : Prop := s.samples.wf = true ∧ ∀ p ∈ s.samples, p.1 < 8192

/-! ### Sections (R107) -/

/-- While the admission state is HALTED or STOPPED every section is ISOLATED; while it is RUNNING an ISOLATED section has its
lockout set (R107). -/
def State.sectionsAgree (s : State) : Prop :=
  (s.admission ≠ .running → ∀ x, (s.sec x).state = .isolated)
    ∧ (s.admission = .running → ∀ x, (s.sec x).state = .isolated → (s.sec x).lockout = true)

/-! ### Contexts and lists (R21, R22, R71 to R73) -/

/-- The number of entries of a slot in all wait lists. -/
def State.entryCount (s : State) (i : Slot) : Nat :=
  (allFeeders.map (fun f => ((s.fdr f).wait1 ++ (s.fdr f).wait2).countP (fun e => e.slot == i))).sum

/-- What a context holds fits its state (R22): a grant or offer in OFFERED, DRAWING and DROPPING and in no other state; a
crossing's fields and reservation in CROSSING and in a drop for GAP alone; one entry in QUEUED, at most one where a crossing
holds no reservation, none elsewhere; and a FREE slot the values of R21's last column. -/
def State.contextFits (s : State) (i : Slot) : Prop :=
  let c := s.ctx i
  let crosses := c.state = .crossing ∨ c.state = .dropping ∧ c.dropReason = some .gap
  (c.hold.isSome = true ↔ c.state = .offered ∨ c.state = .drawing ∨ c.state = .dropping)
    ∧ (¬crosses → c.gap.gapId = none ∧ c.gap.target = none ∧ c.gap.feeder = none)
    ∧ (c.state = .queued → s.entryCount i = 1)
    ∧ (crosses → s.entryCount i ≤ 1 ∧ (c.gap.feeder ≠ none → s.entryCount i = 0))
    ∧ (c.state ≠ .queued → ¬crosses → s.entryCount i = 0)
    ∧ (c.state = .free → c = Context.freed)

/-- Every context fits its state, and no two contexts carry one truck (R21, R22). -/
def State.contextsFit (s : State) : Prop :=
  (∀ i, s.contextFits i) ∧ ∀ i j, (s.ctx i).truck ≠ none → (s.ctx i).truck = (s.ctx j).truck → i = j

/-- The lists of each feeder: its grant order holds, once each, exactly the contexts in DRAWING and DROPPING whose grant is on
it (R71); in each wait list carry-over entries stand before ordinary ones (R73), and the entry of a crossing is for its target
section (R72). -/
def State.listsFit (s : State) : Prop :=
  ∀ f,
    (s.fdr f).grantOrder.Nodup
    ∧ (∀ i, i ∈ (s.fdr f).grantOrder ↔
        ((s.ctx i).state = .drawing ∨ (s.ctx i).state = .dropping) ∧ (s.ctx i).hold.map (·.feeder) = some f)
    ∧ ∀ l, ((s.fdr f).wait l).Pairwise (fun a b => a.mark = .ordinary → b.mark = .ordinary)
      ∧ ∀ e ∈ (s.fdr f).wait l, (s.ctx e.slot).state ≠ .queued → (s.ctx e.slot).gap.target = some e.sect

/-! ### The swap (R12) -/

/-- No swap waits to be completed: none is pending, or a context is in conflict with it (R12). -/
def State.swapSettled (s : State) : Prop := s.swap = .none ∨ ∃ i, s.inConflict i = true

/-! ### Requests and replies (R153, R154, R160) -/

/-- The sender and sequence of a request command; none for a command that is no request. -/
def callerOf (i : Instr) : Option Caller := (frameOfRequest 0 i).map (fun f => ⟨f.src, f.tag⟩)

/-- MA takes the request that a command names: the part is out of reset, an entry of the C-link queue is free, and the
request is the oldest of the buffer, or the buffer is empty and its frame arrives while the part does not drive the C-link
and is of no kind that the part itself sends (R153, R154, log 7, log 27). -/
def State.takes (s : State) (i : Instr) : Prop :=
  s.resetPin = false ∧ s.cQueue.length < 32
    ∧ (s.requestBuffer = [] ∧ s.cSending = none ∧ (∃ f, frameOfRequest s.cAddress i = some f ∧ sentByPart f.kind = false)
      ∨ ∃ f fs, s.requestBuffer = f :: fs ∧ requestOfFrame f = i)

/-- The state once MA has taken a request: one that waited has left the buffer; the frame of one that arrives has ended an
unfinished frame as a runt and is counted as a good frame (R142, R153, R154). -/
def State.taken (s : State) : State :=
  match s.requestBuffer with
  | _ :: fs => { s with requestBuffer := fs }
  | [] => (s.endRunt .c).countGood .c

/-- The state with a reply at the tail of the C-link queue (R154, R160). -/
def State.withReply (s : State) (c : Caller) (kind : Byte) (payload : List Byte) : State :=
  { s with cQueue := s.cQueue ++ [⟨kind, c.src, s.cAddress, c.seq, payload⟩] }

/-- The state with an ACK at the tail of the C-link queue (R160). -/
def State.withAck (s : State) (c : Caller) : State := s.withReply c 0x70 []

/-- The state with a NAK of a code, table and index at the tail of the C-link queue (R156, R160). -/
def State.withNak (s : State) (c : Caller) (code table index : Byte) : State := s.withReply c 0x71 [code, table, index]

/-- A frame of a reply kind, 0x70 to 0x77 (9.4). -/
def isReply (f : Frame) : Bool := decide (0x70 ≤ f.kind.toNat ∧ f.kind.toNat ≤ 0x77)

/-! ### Frames of the field stations (8.4) -/

/-- The link and frame of a command that is a frame of a truck, a section switch unit or a meter (R146). -/
def linkFrame : Instr → Option (Link × Frame)
  | .psn truck tag chainage heading pantograph loaded drawn =>
    some (.w, ⟨0x10, 0, truck, tag, be16 chainage
      ++ [byte (headingCode heading), byte (pantographCode pantograph), flagByte loaded] ++ be16 drawn⟩)
  | .drq truck tag requested minimum hold => some (.w, ⟨0x11, 0, truck, tag, be16 requested ++ be16 minimum ++ [hold]⟩)
  | .acc truck tag => some (.w, ⟨0x12, 0, truck, tag, []⟩)
  | .rel truck tag => some (.w, ⟨0x13, 0, truck, tag, []⟩)
  | .dat truck tag payload => some (.w, ⟨0x14, 0, truck, tag, payload⟩)
  | .sst sect contactor voltage fault =>
    some (.w, ⟨0x31, 0, 128 + sect, 0, [sect, flagByte contactor, flagByte voltage, flagByte fault]⟩)
  | .smp feeder seq current voltage breaker =>
    some (.m, ⟨0x40, 0, 0, seq, [feeder] ++ be16 current ++ be16 voltage ++ [byte (breakerCode breaker)]⟩)
  | _ => none

end Sys2Proof.Machine
end

