-- ==== Sys2Proof/Certificates/Slice0/Obligations.lean ====
section
/-! DEFINITION. The statements for the provers: the step, the resets, the invariants, the links, the requests, the swap, the sections, the feeders, the trucks, the samples, the timers and the transmitters. -/

open Sys2Proof Sys2Proof.Machine

/-! ### The step -/

/-- A step takes the command at the front of the queue and runs it on the rest of the queue. -/
def Obligations.StepTakesTheFrontCommand : Prop :=
  ∀ (c : Instr) (rest : List Instr) (s : State),
    step { s with pending := c :: rest } = exec c { s with pending := rest }

/-- With no command waiting (the model's choice, log 1 and log 2): nothing while the reset pin is asserted, else the
part's own next step if one is due, else a millisecond, in which every running timer of a context, feeder, section and
meter and the swap timer lose 1 and every state stays. -/
def Obligations.EmptyQueueIdles : Prop :=
  ∀ s : State, s.pending = [] →
    (s.resetPin = true → step s = .next s)
    ∧ (s.resetPin = false → ∀ i, s.ownStep = some i → step s = exec i s)
    ∧ (s.resetPin = false → s.ownStep = none → ∃ t, step s = .next t
        ∧ t.swapTimer = s.swapTimer.map (· - 1)
        ∧ (∀ i, (t.ctx i).state = (s.ctx i).state ∧ (t.ctx i).hold = (s.ctx i).hold
            ∧ (t.ctx i).silenceTimer = (s.ctx i).silenceTimer.map (· - 1)
            ∧ (t.ctx i).grantExpiry = (s.ctx i).grantExpiry.map (· - 1)
            ∧ (t.ctx i).offerWindow = (s.ctx i).offerWindow.map (· - 1)
            ∧ (t.ctx i).offerRepeat = (s.ctx i).offerRepeat.map (· - 1)
            ∧ (t.ctx i).dropDeadline = (s.ctx i).dropDeadline.map (· - 1)
            ∧ (t.ctx i).gap.crossing = (s.ctx i).gap.crossing.map (· - 1)
            ∧ (t.ctx i).gap.carried = (s.ctx i).gap.carried.map (· - 1))
        ∧ (∀ f, (t.fdr f).state = (s.fdr f).state ∧ (t.fdr f).committed = (s.fdr f).committed
            ∧ (t.fdr f).overload = (s.fdr f).overload.map (· - 1)
            ∧ (t.fdr f).meterLost = (s.fdr f).meterLost.map (· - 1)
            ∧ (t.meter f).silence = (s.meter f).silence.map (· - 1))
        ∧ ∀ x, (t.sec x).state = (s.sec x).state
            ∧ (t.sec x).raiseTimer = (s.sec x).raiseTimer.map (· - 1)
            ∧ (t.sec x).idleTimer = (s.sec x).idleTimer.map (· - 1)
            ∧ (t.sec x).standbyTimer = (s.sec x).standbyTimer.map (· - 1))

/-- Every command ends in a next state, never in a fault or a refusal, and leaves the queue of commands alone. -/
def Obligations.EveryCommandEndsInANextState : Prop :=
  ∀ (c : Instr) (s : State), ∃ t, exec c s = .next t ∧ t.pending = s.pending

/-! ### Resets -/

/-- A hard reset leaves hard-reset values, the strapped C-link address, the broadcast withdrawal pending and
RESTART_DONE reported with subject 0; with the ramp-stop line asserted it goes on to a ramp stop from HALTED. The
sample memory stands. With all straps 0 and the line released it brings a part whose sample memory lists nothing, for which no
free value was drawn and no command waits to `State.reset` (those three and the pins are the model's choice, log 4 to log 6). -/
def Obligations.HardResetSetsEveryBlock : Prop :=
  (∀ s : State, s.stopLine = false → s.samples = [] → s.fresh = 0 → s.pending = [] → exec (.hardReset 0) s = .next State.reset)
  ∧ ∀ (straps : BitVec 3) (s : State),
    let addr := byte (224 + straps.toNat)
    let done : Frame := ⟨0x80, 0, addr, 1, [1, 0, 0, addr]⟩
    (s.stopLine = false → exec (.hardReset straps) s = .next
      { State.powerOn addr false s.samples s.fresh s.pending with latches := 1, eventSeq := 1, cQueue := [done] })
    ∧ (s.stopLine = true → ∃ t, exec (.hardReset straps) s = .next t
        ∧ t.resetPin = false ∧ t.cAddress = addr ∧ t.broadcast = true ∧ t.admission = .stopped ∧ t.alert = true
        ∧ t.latches = 0x80001 ∧ t.cQueue = [done, ⟨0x80, 0, addr, 2, [20, 0, 0, 0]⟩]
        ∧ t.contexts = Vector.replicate 48 Context.freed ∧ t.feeders = Vector.replicate 16 Feeder.reset
        ∧ t.samples = s.samples ∧ t.globals = Globals.reset
        ∧ ∀ x, t.sec x = { SectionRec.reset with command := some .opening })

/-- Asserting the reset pin releases ALERT, cuts short what was being sent and empties the assemblers; while it stays
asserted no command but a hard reset, the reset pin and the ramp-stop line does anything (the last by log 9). -/
def Obligations.ResetPinHoldsThePart : Prop :=
  (∀ s : State, exec .resetPinAssertion s = .next
    { s with resetPin := true, alert := false, wSending := none, cSending := none
             asmW := Assembler.hunting, asmC := Assembler.hunting, asmM := Assembler.hunting })
  ∧ ∀ (c : Instr) (s : State), s.resetPin = true → (∀ straps, c ≠ .hardReset straps) → c ≠ .rampStopLineAssert →
      c ≠ .rampStopLineRelease → c ≠ .resetPinAssertion → exec c s = .next s

/-- RESTART: the ACK first; every context FREE, every feeder OFFLINE with its configuration and empty lists, every load
0, every section ISOLATED with lockout and last SSU status kept, HALTED, no swap, the rings begun anew, counters clear,
the normal queue empty, the broadcast withdrawal pending, RESTART_DONE latched; the tables, the banks, the selector,
the latest samples, the sample memory, the address and the waiting requests stand. With the ramp-stop line asserted the
part goes on to a ramp stop: STOPPED, RAMP_STOP latched beside RESTART_DONE, OPEN pending on every section. -/
def Obligations.RestartReturnsAdmissionToItsStart : Prop :=
  (∀ (c : Caller) (s : State), s.takes (.restart c) → s.stopLine = false →
    ∃ t l, exec (.restart c) s = .next t
      ∧ t.cQueue = s.cQueue ++ ⟨0x70, c.src, s.cAddress, c.seq, []⟩ :: l
      ∧ t.requestBuffer = s.requestBuffer.tail ∧ t.normalQueue = [] ∧ t.broadcast = true
      ∧ t.contexts = Vector.replicate 48 Context.freed
      ∧ (∀ f, t.fdr f = Feeder.resetWith (s.fdr f).config) ∧ (∀ x, t.load x = 0)
      ∧ (∀ x, t.sec x = { SectionRec.reset with lockout := (s.sec x).lockout, ssu := (s.sec x).ssu })
      ∧ t.admission = .halted ∧ t.swap = .none ∧ t.swapTimer = none
      ∧ (∀ f, t.ring f = { s.ring f with
            state := if (s.ring f).desc.enabled then .recording else .disabled
            writePos := (s.ring f).desc.start, fill := 0, countdown := none })
      ∧ t.latches = 1 ∧ t.counters = { Counters.zero with c := { LinkCounters.zero with txDrops := t.counters.c.txDrops } }
      ∧ t.bankA = s.bankA ∧ t.bankB = s.bankB ∧ t.active = s.active ∧ t.classes = s.classes ∧ t.globals = s.globals
      ∧ t.meters = s.meters ∧ t.samples = s.samples ∧ t.cAddress = s.cAddress ∧ t.pending = s.pending)
  ∧ ∀ (c : Caller) (s : State), s.takes (.restart c) → s.stopLine = true →
    ∃ t l, exec (.restart c) s = .next t
      ∧ t.cQueue = s.cQueue ++ ⟨0x70, c.src, s.cAddress, c.seq, []⟩ :: l
      ∧ t.normalQueue = [] ∧ t.broadcast = true ∧ t.admission = .stopped ∧ t.swap = .none ∧ t.latches = 0x80001
      ∧ t.contexts = Vector.replicate 48 Context.freed
      ∧ (∀ f, t.fdr f = Feeder.resetWith (s.fdr f).config) ∧ (∀ x, t.load x = 0)
      ∧ (∀ x, t.sec x = { SectionRec.reset with lockout := (s.sec x).lockout, ssu := (s.sec x).ssu, command := some .opening })
      ∧ t.bankA = s.bankA ∧ t.bankB = s.bankB ∧ t.classes = s.classes ∧ t.globals = s.globals ∧ t.samples = s.samples

/-! ### Ramp stop and resume -/

/-- A ramp stop, by the line or by RAMP_STOP: admission STOPPED; every context that held, dropped, crossed or waited
holds nothing and is TRACKED, or FAULTED where it dropped for FAULT; those that held have WDR STOP with deadline 0
pending; every section is ISOLATED with OPEN pending, its timers stopped, its origin none and its lockout kept; with
no swap pending RAMP_STOP is latched. RAMP_STOP is answered with ACK last. The line acts on its transition to asserted alone:
its return changes nothing but its own level, and an assertion of an asserted line changes nothing; while the reset pin is
asserted only its level is followed (the last by log 28). -/
def Obligations.RampStopTakesEveryHolding : Prop :=
  ∀ s : State,
    let stopped : State → Prop := fun t =>
      t.admission = .stopped
      ∧ (∀ x, (t.sec x).state = .isolated ∧ (t.sec x).command = some .opening ∧ (t.sec x).raiseOrigin = none
          ∧ (t.sec x).raiseTimer = none ∧ (t.sec x).idleTimer = none ∧ (t.sec x).standbyTimer = none
          ∧ (t.sec x).lockout = (s.sec x).lockout)
      ∧ (∀ i, (s.ctx i).toldOfStop = true →
          (t.ctx i).state = (if (s.ctx i).state = .dropping ∧ (s.ctx i).dropReason = some .fault then .faulted else .tracked)
          ∧ (t.ctx i).hold = none ∧ (t.ctx i).gap = GapFields.clear
          ∧ ((s.ctx i).state ≠ .queued → (t.ctx i).withdraw = some ⟨.stop, true⟩))
      ∧ (∀ i, (s.ctx i).toldOfStop = false → (t.ctx i).state = (s.ctx i).state)
      ∧ (s.swap = .none → t.latches = s.latches ||| 0x80000)
    (s.resetPin = false → s.stopLine = false →
      ∃ t, exec .rampStopLineAssert s = .next t ∧ t.stopLine = true ∧ stopped t)
    ∧ (∀ c, s.takes (.rampStop c) →
        ∃ t, exec (.rampStop c) s = .next t ∧ stopped t
          ∧ t.cQueue.getLast? = some ⟨0x70, c.src, s.cAddress, c.seq, []⟩)
    ∧ exec .rampStopLineRelease s = .next { s with stopLine := false }
    ∧ (s.stopLine = true → exec .rampStopLineAssert s = .next s)
    ∧ (s.resetPin = true → exec .rampStopLineAssert s = .next { s with stopLine := true })

/-- RAMP_RESUME: NAK BAD_STATE while the line is asserted and in RUNNING; otherwise the admission state is RUNNING, every
ISOLATED section without lockout is in STANDBY with its record otherwise as it was, RAMP_RESUMED is reported with subject
0 and the number of sections so moved, the request is answered with ACK, and nothing else changes. That a refusal carries
table 0 and index 255 is the model's choice (log 16). -/
def Obligations.RampResumeOpensAdmission : Prop :=
  ∀ (c : Caller) (s : State), s.takes (.rampResume c) →
    let opens := fun (r : SectionRec) => r.state = .isolated ∧ r.lockout = false
    let moved := (allSections.filter (fun x => opens (s.sec x))).length
    (s.stopLine = true ∨ s.admission = .running → exec (.rampResume c) s = .next (s.taken.withNak c 11 0 255))
    ∧ (s.stopLine = false → s.admission ≠ .running → exec (.rampResume c) s = .next
        ((({ s.taken with
          admission := .running
          sections := s.sections.map (fun r => if opens r then { r with state := .standby } else r) } : State).report
            .rampResumed 0 moved).withAck c))

/-! ### Invariants -/

/-- The reset state has every invariant stated below. -/
def Obligations.ResetStateIsSound : Prop :=
  State.reset.memoryCanonical ∧ State.reset.ringsSound ∧ State.reset.queuesBounded ∧ State.reset.budgetsAgree
    ∧ State.reset.sectionsAgree ∧ State.reset.contextsFit ∧ State.reset.listsFit ∧ State.reset.swapSettled

/-- Every step keeps the sample memory in its canonical form with addresses 0 to 8191 alone, and every ring's start,
length, write position and fill in their ranges. -/
def Obligations.StepKeepsTheSampleMemory : Prop :=
  ∀ s t : State, s.memoryCanonical ∧ s.ringsSound → step s = .next t → t.memoryCanonical ∧ t.ringsSound

/-- Every step keeps the queues within their sizes: 32 frames in the normal queue, 32 in the C-link queue, 4 requests. -/
def Obligations.StepKeepsTheQueuesBounded : Prop :=
  ∀ s t : State, s.queuesBounded → step s = .next t → t.queuesBounded

/-- Every step keeps each feeder's committed current and each section's load equal to the sum of the grants, offers and
reservations that refer to it. Every step keeps every context holding what its state lets it hold, no two contexts of one
truck, every grant order list the DRAWING and DROPPING contexts of its feeder, once each, and every wait list with its
carry-over entries before its ordinary ones, one entry a QUEUED context and at most one a crossing. -/
def Obligations.StepKeepsTheBudgets : Prop :=
  (∀ s t : State, s.budgetsAgree → step s = .next t → t.budgetsAgree)
  ∧ ∀ s t : State, s.contextsFit ∧ s.listsFit → step s = .next t → t.contextsFit ∧ t.listsFit

/-- Every step keeps every section ISOLATED while the admission state is not RUNNING, and every ISOLATED section locked out
while it is. No step leaves a swap pending with which no context is in conflict, unless one stood so before it. -/
def Obligations.StepKeepsSectionsIsolated : Prop :=
  (∀ s t : State, s.sectionsAgree → step s = .next t → t.sectionsAgree)
  ∧ ∀ s t : State, s.swapSettled → step s = .next t → t.swapSettled

/-- No step brings a feeder's committed current above both what it was and the admission limit the feeder has after
the step, nor a section's load above both what it was and the limits that the active banks before and after the step give
the section, 0 where its entry is not valid. -/
def Obligations.NoStepOvercommitsAFeeder : Prop :=
  ∀ s t : State, step s = .next t →
    let limit := fun (u : State) (x : SectionId) => if (u.entry x).valid then (u.entry x).limit else 0
    (∀ f, (t.fdr f).committed ≤ max (s.fdr f).committed (t.fdr f).config.limit)
    ∧ ∀ x, t.load x ≤ max (s.load x) (max (limit s x) (limit t x))

/-- A taken request is answered exactly once: of the frames it puts in the C-link queue one alone is of a reply kind,
and it carries the request's source as destination, the part's address as source and the request's sequence as tag. -/
def Obligations.EveryTakenRequestIsAnsweredOnce : Prop :=
  ∀ (i : Instr) (c : Caller) (s : State), callerOf i = some c → s.takes i →
    ∃ t l p k, exec i s = .next t ∧ t.cQueue = s.cQueue ++ l
      ∧ l.filter isReply = [⟨k, c.src, s.cAddress, c.seq, p⟩]

/-! ### Frames and bytes -/

/-- The check over the nine characters "123456789". -/
def Obligations.CheckOfTheNineDigits : Prop :=
  crc32 [0x31, 0x32, 0x33, 0x34, 0x35, 0x36, 0x37, 0x38, 0x39] = 0xCBF43926

/-- The bytes of a frame as it stands on the line, arriving at an assembler in HUNT, are received as that frame. -/
def Obligations.FrameBytesAreReceivedAsTheFrame : Prop :=
  ∀ (l : Link) (f : Frame) (s : State), f.payload.length ≤ 240 → (s.asm l).phase = .hunt →
    s.feed l f.bytes = (s.setAsm l Assembler.hunting).receiveFrame l f

/-- A well-formed request laid out as a frame is read back as that request, addressed to the part. -/
def Obligations.RequestsSurviveTheWire : Prop :=
  ∀ (i : Instr) (addr : Byte) (f : Frame), i.wellFormed = true → frameOfRequest addr i = some f →
    requestOfFrame f = i ∧ f.dest = addr

/-- The frame of a truck, a section switch unit or a meter that passes its check does what its command does. That the row
of foreign frames meets the acceptance tests of its link, and then takes a frame that passes them, is the model's choice
(log 20). -/
def Obligations.StationFramesAreTheirCommands : Prop :=
  ∀ (i : Instr) (l : Link) (f : Frame) (s : State), i.wellFormed = true → linkFrame i = some (l, f) →
    exec (.foreignFrame l f) s = exec i s

/-- A marker in HUNT begins a frame; a marker inside a header is data; a marker after a gap of more than 4 byte-times ends
the frame before it as a runt and begins another; a gap inside a frame ends it as a runt and counts one, and in HUNT does
nothing. While the part drives a line nothing that the line carries is received (for the C-link log 27). -/
def Obligations.AssemblersHuntForTheMarker : Prop :=
  ∀ (l : Link) (s : State), s.resetPin = false →
    let driven := (l = .w ∧ s.wSending ≠ none) ∨ (l = .c ∧ s.cSending ≠ none)
    let ended := (s.setAsm l Assembler.hunting).modLink l (fun k => { k with runts := min 65535 (k.runts + 1) })
    (¬driven → (s.asm l).phase = .hunt →
      exec (.marker l) s = .next (s.setAsm l { phase := .header, held := [], watch := 0 }))
    ∧ (¬driven → (s.asm l).phase = .header → (s.asm l).held.length < 4 → (s.asm l).watch ≤ 400 → exec (.marker l) s
        = .next (s.setAsm l { phase := .header, held := (s.asm l).held ++ [0x7E], watch := 0 }))
    ∧ (¬driven → (s.asm l).phase ≠ .hunt → 400 < (s.asm l).watch →
      exec (.marker l) s = .next (ended.setAsm l { phase := .header, held := [], watch := 0 }))
    ∧ ((s.asm l).phase = .hunt → exec (.runt l) s = .next s ∧ s.endRunt l = s)
    ∧ ((s.asm l).phase ≠ .hunt → exec (.runt l) s = .next ended ∧ s.endRunt l = ended)
    ∧ (driven → exec (.marker l) s = .next s
        ∧ (∀ bytes, exec (.checkError l bytes) s = .next s) ∧ (∀ f, exec (.foreignFrame l f) s = .next s)
        ∧ (∀ i f, linkFrame i = some (l, f) → exec i s = .next s)
        ∧ (l = .c → ∀ f, exec (.requestFrame f) s = .next s))

/-- A frame whose check fails, and whose bytes hold no marker, counts one check error on its link and changes nothing
else but that the assembler is in HUNT; likewise a header with a payload length above 240. That the row's bytes are those
after a marker is the model's choice (log 20). -/
def Obligations.FramesThatFailTheirCheckAreCounted : Prop :=
  ∀ (l : Link) (s : State) (kind dest src tag len : Byte) (rest : List Byte),
    s.resetPin = false → ¬((l = .w ∧ s.wSending ≠ none) ∨ (l = .c ∧ s.cSending ≠ none)) →
    (s.asm l).phase = .hunt → markerByte ∉ [kind, dest, src, tag, len] ++ rest →
    (len.toNat ≤ 240 ∧ rest.length = len.toNat + 4
        ∧ rest.drop len.toNat ≠ checkBytes ([kind, dest, src, tag, len] ++ rest.take len.toNat)
      ∨ 240 < len.toNat ∧ rest = []) →
    exec (.checkError l ([kind, dest, src, tag, len] ++ rest)) s
      = .next ((s.setAsm l Assembler.hunting).modLink l (fun k => { k with checkErrors := min 65535 (k.checkErrors + 1) }))

/-- A W-link frame that fails a test of acceptance (its destination, its source, its kind, its length, or a coded field of a
PSN or an SST), and an M-link frame that does, count one foreign frame on their link and change nothing else but that a frame
unfinished before them has ended as a runt (log 20). -/
def Obligations.ForeignFramesAreCountedAndDropped : Prop :=
  ∀ (f : Frame) (s : State), s.resetPin = false →
    let field := fun (n : Nat) => (f.payload.getD n 0).toNat
    (s.wSending = none → (f.dest ≠ 0 ∨ f.src = 0 ∨ 192 ≤ f.src.toNat
        ∨ (f.src.toNat ≤ 127 ∧ f.kind ∉ [0x10, 0x11, 0x12, 0x13, 0x14])
        ∨ (128 ≤ f.src.toNat ∧ f.kind ≠ 0x31)
        ∨ (f.kind = 0x10 ∧ f.payload.length ≠ 7) ∨ (f.kind = 0x11 ∧ f.payload.length ≠ 5)
        ∨ (f.kind = 0x12 ∧ f.payload ≠ []) ∨ (f.kind = 0x13 ∧ f.payload ≠ []) ∨ (f.kind = 0x31 ∧ f.payload.length ≠ 4)
        ∨ (f.kind = 0x10 ∧ (2 < field 2 ∨ 3 < field 3 ∨ 1 < field 4))
        ∨ (f.kind = 0x31 ∧ (field 0 + 128 ≠ f.src.toNat ∨ 1 < field 1 ∨ 1 < field 2 ∨ 1 < field 3))) →
      exec (.foreignFrame .w f) s
        = .next ((s.endRunt .w).modLink .w (fun k => { k with foreign := min 65535 (k.foreign + 1) })))
    ∧ (f.kind ≠ 0x40 ∨ f.payload.length ≠ 6 ∨ 15 < field 0 ∨ 2 < field 5 →
      exec (.foreignFrame .m f) s
        = .next ((s.endRunt .m).modLink .m (fun k => { k with foreign := min 65535 (k.foreign + 1) })))

/-- A C-link frame: to another address it is ignored; of a kind the part itself sends it counts one foreign frame; any
other counts one good frame and waits in the buffer, or is dropped and counted as an overrun while 4 wait. A frame unfinished
before it has ended as a runt (log 20), and none is received while the part sends on the link (log 27). -/
def Obligations.RequestFramesEnterTheBuffer : Prop :=
  ∀ (f : Frame) (s : State), s.resetPin = false → s.cSending = none →
    let q := s.endRunt .c
    let good := q.modLink .c (fun k => { k with good := min 65535 (k.good + 1) })
    (f.dest ≠ s.cAddress → exec (.requestFrame f) s = .next q)
    ∧ (f.dest = s.cAddress → (0x70 ≤ f.kind.toNat ∧ f.kind.toNat ≤ 0x77 ∨ 0x80 ≤ f.kind.toNat ∧ f.kind.toNat ≤ 0x83) →
        exec (.requestFrame f) s = .next (q.modLink .c (fun k => { k with foreign := min 65535 (k.foreign + 1) })))
    ∧ (f.dest = s.cAddress → ¬(0x70 ≤ f.kind.toNat ∧ f.kind.toNat ≤ 0x77 ∨ 0x80 ≤ f.kind.toNat ∧ f.kind.toNat ≤ 0x83) →
        (s.requestBuffer.length < 4 →
          exec (.requestFrame f) s = .next { good with requestBuffer := s.requestBuffer ++ [f] })
        ∧ (4 ≤ s.requestBuffer.length → exec (.requestFrame f) s = .next
            { good with counters := { good.counters with overrun := min 65535 (s.counters.overrun + 1) } }))

/-- A request command (its form is log 7) whose request is not the oldest of the buffer is the arrival of its frame: while the
part sends on the C-link it is lost (log 27); of a kind that the part itself sends, which only UNKNOWN_REQUEST_KIND can
carry, it is dropped and counts one foreign frame; any other counts one good frame and joins the buffer, is dropped and
counted as an overrun where 4 wait, or is taken at once where none waits and the C-link queue has room, just as if its frame
had come first. A frame unfinished before it has ended as a runt (log 20). While the C-link queue is full the oldest request
stands. -/
def Obligations.RequestsWaitWhileTheQueueIsFull : Prop :=
  ∀ (i : Instr) (f : Frame) (s : State), frameOfRequest s.cAddress i = some f → s.resetPin = false →
    let oldest := ∃ g gs, s.requestBuffer = g :: gs ∧ requestOfFrame g = i
    let sent := 0x70 ≤ f.kind.toNat ∧ f.kind.toNat ≤ 0x77 ∨ 0x80 ≤ f.kind.toNat ∧ f.kind.toNat ≤ 0x83
    let q := s.endRunt .c
    let good := q.modLink .c (fun k => { k with good := min 65535 (k.good + 1) })
    (oldest → 32 ≤ s.cQueue.length → exec i s = .next s)
    ∧ (oldest → s.taken = { s with requestBuffer := s.requestBuffer.tail })
    ∧ (¬oldest → s.cSending ≠ none → exec i s = .next s)
    ∧ (¬oldest → s.cSending = none → sent →
        exec i s = .next (q.modLink .c (fun k => { k with foreign := min 65535 (k.foreign + 1) })))
    ∧ (¬oldest → s.cSending = none → ¬sent →
        (s.requestBuffer ≠ [] ∨ 32 ≤ s.cQueue.length →
          (s.requestBuffer.length < 4 → exec i s = .next { good with requestBuffer := s.requestBuffer ++ [f] })
          ∧ (4 ≤ s.requestBuffer.length → exec i s = .next
              { good with counters := { good.counters with overrun := min 65535 (s.counters.overrun + 1) } }))
        ∧ (s.requestBuffer = [] → s.cQueue.length < 32 → s.takes i ∧ s.taken = good
            ∧ (i.wellFormed = true → exec i s = exec i { good with requestBuffer := [f] })))

/-- A request of an unknown kind is answered with NAK BAD_KIND; a TABLE_WRITE or TABLE_READ of an unknown table with NAK
BAD_TABLE, of the wrong length with NAK BAD_KIND, both carrying the table code, 0 where there is none; a SECTION_CMD,
FEEDER_CMD or TRUCK_ORDER whose command is outside its list with NAK BAD_VALUE, once its section, feeder or truck is in range;
any other request of the wrong length with NAK BAD_KIND. Nothing else changes. That one row stands for them all, and the
index, 255 where none is named, is log 16. -/
def Obligations.MalformedRequestsAreRefused : Prop :=
  ∀ (c : Caller) (kind : Byte) (payload : List Byte) (s : State), s.takes (.unknownRequestKind c kind payload) →
    let refused := fun (code table index : Byte) =>
      exec (.unknownRequestKind c kind payload) s = .next (s.taken.withNak c code table index)
    (kind.toNat < 0x50 ∨ 0x60 < kind.toNat → refused 1 0 255)
    ∧ (kind = 0x50 → payload = [] → refused 1 0 255)
    ∧ (∀ t rest, kind = 0x50 → payload = t :: rest → (t.toNat = 0 ∨ 6 < t.toNat) → refused 2 t 255)
    ∧ (∀ t rest, kind = 0x50 → payload = t :: rest → 1 ≤ t.toNat → t.toNat ≤ 6 → catalogueOf c kind payload = none →
        refused 1 t 255)
    ∧ (kind = 0x51 → payload = [] → refused 1 0 255)
    ∧ (∀ t rest, kind = 0x51 → payload = t :: rest → rest.length ≠ 2 → refused 1 t 255)
    ∧ (∀ t rest, kind = 0x51 → payload = t :: rest → rest.length = 2 → (t.toNat = 0 ∨ 6 < t.toNat) → refused 2 t 255)
    ∧ (∀ x k, kind = 0x54 → payload = [x, k] → 4 < k.toNat →
        (63 < x.toNat → refused 3 0 x) ∧ (x.toNat ≤ 63 → refused 4 0 x))
    ∧ (∀ f k, kind = 0x55 → payload = [f, k] → 1 < k.toNat →
        (15 < f.toNat → refused 3 0 f) ∧ (f.toNat ≤ 15 → refused 4 0 f))
    ∧ (∀ t k, kind = 0x56 → payload = [t, k] → 4 < k.toNat →
        (s.slotOf t = none → refused 8 0 t) ∧ (s.slotOf t ≠ none → refused 4 0 t))
    ∧ (kind ∈ [0x54, 0x55, 0x56] → payload.length ≠ 2 → refused 1 0 255)
    ∧ (kind ∈ [0x52, 0x53, 0x57, 0x58, 0x59, 0x5A, 0x5B, 0x5C, 0x5D, 0x5E, 0x5F, 0x60] → catalogueOf c kind payload = none →
        refused 1 0 255)

/-! ### Tables -/

/-- TABLE_WRITE of the SECTION or GAP table: the first failure of bank or index, active bank, pending swap and field is
answered, and a write that passes replaces the entry of the shadow bank whole, with nothing else changed. That a flag
above 1, a feeder above 15 and a section above 63 are fields outside their ranges is the model's reading (log 15). That
NAK ACTIVE_BANK and NAK BUSY carry the entry's index is the model's choice (log 16). -/
def Obligations.MapWritesAreCheckedInOrder : Prop :=
  (∀ (c : Caller) (bank index : Byte) (e : SectionWire) (s : State), s.takes (.tableWriteSection c bank index e) →
    let run := exec (.tableWriteSection c bank index e) s
    let bad := e.high.toNat < e.low.toNat ∨ 2000 < e.wake.toNat ∨ 123 < e.idle.toNat ∨ 123 < e.standby.toNat
      ∨ 1 < e.valid.toNat ∨ 15 < e.feeder.toNat ∨ 1 < e.fast.toNat
    (1 < bank.toNat ∨ 63 < index.toNat → run = .next (s.taken.withNak c 3 1 index))
    ∧ (bank.toNat ≤ 1 → ∀ x : SectionId, x.val = index.toNat →
        (bank.toNat = s.active.code → run = .next (s.taken.withNak c 5 1 index))
        ∧ (bank.toNat ≠ s.active.code → s.swap ≠ .none → run = .next (s.taken.withNak c 6 1 index))
        ∧ (bank.toNat ≠ s.active.code → s.swap = .none → bad → run = .next (s.taken.withNak c 4 1 index))
        ∧ (bank.toNat ≠ s.active.code → s.swap = .none → ¬bad → ∃ f : FeederId, f.val = e.feeder.toNat ∧
            let v : SectionEntry := { valid := e.valid == 1, low := e.low.toNat, high := e.high.toNat, feeder := f
                                      limit := e.limit.toNat, wake := e.wake.toNat, idleCode := e.idle.toNat
                                      standbyCode := e.standby.toNat, fastRaise := e.fast == 1 }
            run = .next ((s.taken.setBank s.active.other
              { s.shadowBank with sections := s.shadowBank.sections.set x v }).withAck c))))
  ∧ ∀ (c : Caller) (bank index : Byte) (e : GapWire) (s : State), s.takes (.tableWriteGap c bank index e) →
    let run := exec (.tableWriteGap c bank index e) s
    let bad := e.high.toNat < e.low.toNat ∨ 1000 < e.approach.toNat ∨ e.crossing = 0 ∨ 120 < e.crossing.toNat
      ∨ 1 < e.valid.toNat ∨ 63 < e.lower.toNat ∨ 63 < e.upper.toNat ∨ 1 < e.bridgeable.toNat
    (1 < bank.toNat ∨ 31 < index.toNat → run = .next (s.taken.withNak c 3 2 index))
    ∧ (bank.toNat ≤ 1 → ∀ g : GapId, g.val = index.toNat →
        (bank.toNat = s.active.code → run = .next (s.taken.withNak c 5 2 index))
        ∧ (bank.toNat ≠ s.active.code → s.swap ≠ .none → run = .next (s.taken.withNak c 6 2 index))
        ∧ (bank.toNat ≠ s.active.code → s.swap = .none → bad → run = .next (s.taken.withNak c 4 2 index))
        ∧ (bank.toNat ≠ s.active.code → s.swap = .none → ¬bad → ∃ lo up : SectionId,
            lo.val = e.lower.toNat ∧ up.val = e.upper.toNat ∧
            let v : GapEntry := { valid := e.valid == 1, low := e.low.toNat, high := e.high.toNat, lower := lo, upper := up
                                  approach := e.approach.toNat, bridgeable := e.bridgeable == 1, crossingLimit := e.crossing.toNat }
            run = .next ((s.taken.setBank s.active.other { s.shadowBank with gaps := s.shadowBank.gaps.set g v }).withAck c)))

/-- TABLE_WRITE of the FEEDER table: a bad index or field is refused; a write that passes replaces the configuration, holds
the turn counter at the new K, reports BUDGET_OVER with the excess where committed stands above the new limit, runs
arbitration where the limit rose, and is answered with ACK. Nothing else changes. -/
def Obligations.FeederWritesReplaceTheConfiguration : Prop :=
  ∀ (c : Caller) (bank index : Byte) (e : FeederWire) (s : State), s.takes (.tableWriteFeeder c bank index e) →
    let run := exec (.tableWriteFeeder c bank index e) s
    let bad := e.share = 0 ∨ 8 < e.share.toNat ∨ e.overload = 0 ∨ 50 < e.overload.toNat ∨ e.meterLost = 0 ∨ 10 < e.meterLost.toNat
    (15 < index.toNat → run = .next (s.taken.withNak c 3 3 index))
    ∧ ∀ f : FeederId, f.val = index.toNat →
        let old := (s.fdr f).config.capacity - (s.fdr f).config.reserve
        let new := e.capacity.toNat - e.reserve.toNat
        let u := s.taken.modFdr f (fun d => { d with
          turn := min d.turn e.share.toNat
          config := { capacity := e.capacity.toNat, reserve := e.reserve.toNat, share := e.share.toNat
                      overloadCode := e.overload.toNat, meterLostTime := e.meterLost.toNat, fastVolts := e.fastVolts.toNat } })
        let v := if new < (s.fdr f).committed then u.report .budgetOver f.val ((s.fdr f).committed - new) else u
        (bad → run = .next (s.taken.withNak c 4 3 index))
        ∧ (¬bad → new ≤ old → run = .next (v.withAck c))
        ∧ (¬bad → old < new → run = .next ((v.arbitrate f).withAck c))

/-- TABLE_WRITE of the CLASS table. That a flag above 1 is a field outside its range is the model's reading (log 15). A truck
has the class of the first valid entry whose masked match is its masked id; of none, the default class. -/
def Obligations.ClassWritesReplaceTheEntry : Prop :=
  (∀ (c : Caller) (bank index : Byte) (e : ClassWire) (s : State), s.takes (.tableWriteClass c bank index e) →
    let run := exec (.tableWriteClass c bank index e) s
    let bad := (e.base ≠ 1 ∧ e.base ≠ 2) ∨ e.cap = 0 ∨ e.maxHold = 0 ∨ 1 < e.valid.toNat ∨ 1 < e.through.toNat
    (7 < index.toNat → run = .next (s.taken.withNak c 3 4 index))
    ∧ ∀ k : Fin 8, k.val = index.toNat →
        let v : ClassEntry := { valid := e.valid == 1, matchBits := e.matchBits, mask := e.mask
                                base := if e.base = 1 then .one else .two
                                cap := e.cap.toNat, maxHold := e.maxHold.toNat, holdThrough := e.through == 1 }
        (bad → run = .next (s.taken.withNak c 4 4 index))
        ∧ (¬bad → run = .next (({ s.taken with classes := s.classes.set k v } : State).withAck c)))
  ∧ ∀ (truck : Byte) (s : State),
    let hit := fun (k : Fin 8) => s.classes[k].valid = true ∧ truck &&& s.classes[k].mask = s.classes[k].matchBits &&& s.classes[k].mask
    (∀ k : Fin 8, hit k → (∀ j, j < k → ¬hit j) → s.resolveClass truck
      = { index := some k, level := s.classes[k].base, cap := s.classes[k].cap, maxHold := s.classes[k].maxHold
          holdThrough := s.classes[k].holdThrough })
    ∧ ((∀ k, ¬hit k) → s.resolveClass truck
      = { index := none, level := .two, cap := s.globals.defaultCap, maxHold := 60, holdThrough := false })

/-- TABLE_WRITE of the RING table: the checks in order, and the working state by the change of the enabled field. That a
flag above 1 is a field outside its range is the model's reading (log 15). -/
def Obligations.RingWritesActOnTheRing : Prop :=
  ∀ (c : Caller) (bank index : Byte) (e : RingWire) (s : State), s.takes (.tableWriteRing c bank index e) →
    let run := exec (.tableWriteRing c bank index e) s
    let bad := 8191 < e.start.toNat ∨ e.length.toNat < 16 ∨ 2048 < e.length.toNat ∨ e.length.toNat % 16 ≠ 0
      ∨ e.distance = 0 ∨ 63 < e.distance.toNat ∨ 8192 < e.start.toNat + e.length.toNat
      ∨ 1 < e.enabled.toNat ∨ 1 < e.freeze.toNat ∨ 1 < e.wrap.toNat
    (15 < index.toNat → run = .next (s.taken.withNak c 3 5 index))
    ∧ ∀ f : FeederId, f.val = index.toNat →
        let r := s.ring f
        let d : RingDesc := { enabled := e.enabled == 1, start := e.start.toNat, length := e.length.toNat
                              distance := e.distance.toNat, threshold := e.threshold.toNat, postTrip := e.postTrip.toNat
                              freeze := e.freeze == 1, wrap := e.wrap == 1 }
        let moved := r.desc.enabled = true ∧ e.enabled = 1 ∧ (d.start ≠ r.desc.start ∨ d.length ≠ r.desc.length)
        let overlaps := e.enabled = 1 ∧ ∃ g, g ≠ f ∧ (s.ring g).desc.enabled = true ∧ ∃ a, d.start ≤ a ∧ a < d.start + d.length
          ∧ (s.ring g).desc.start ≤ a ∧ a < (s.ring g).desc.start + (s.ring g).desc.length
        let written : Ring := if r.desc.enabled = true ∧ e.enabled = 1 then { r with desc := d }
          else { desc := d, state := if e.enabled = 1 then .recording else .disabled, writePos := d.start, fill := 0, countdown := none }
        (bad → run = .next (s.taken.withNak c 4 5 index))
        ∧ (¬bad → moved → run = .next (s.taken.withNak c 9 5 index))
        ∧ (¬bad → ¬moved → s.ringsSound → overlaps → run = .next (s.taken.withNak c 10 5 index))
        ∧ (¬bad → ¬moved → ¬overlaps → s.ringsSound → run = .next ((s.taken.modRing f (fun _ => written)).withAck c))

/-- TABLE_WRITE of the GLOBAL table: the parameter and the range of each index are those of R159's tables; an index of no
parameter and a value out of range are refused; a write that passes replaces the value and is answered with ACK. A C-link
rate waits for that reply and the frames ahead of it (log 26); an exclusion setting that changes clears the strikes of
every allocated context, returns FAULTED ones to TRACKED and gives drops for FAULT the reason ORDER; an event control
evaluates the ALERT line; nothing else changes. -/
def Obligations.GlobalWritesTakeEffect : Prop :=
  (∀ n : Fin 21,
    globalRange (n.val + 1) = [(0, 4), (0, 4), (1, 255), (2, 60), (0, 500), (1, 65535), (0, 1), (1, 15), (0, 1), (2, 60), (1, 8),
      (0, 15), (0, 255), (5, 100), (5, 100), (5, 100), (5, 50), (2, 60), (0, 1), (0, 1), (0, 1)][n.val]?
    ∧ ∀ g : Globals, g.read (n.val + 1) = [g.wRate, g.cRate, g.swapTime, g.silenceTime, g.overdrawMargin, g.defaultCap, g.promote,
      g.strikeThreshold, g.exclusion, g.offerWindow, g.offerRepeat, g.repeatLimit, g.zeroThreshold, g.gapDrop, g.shedDrop,
      g.ordinaryDrop, g.idleRaise, g.standbyRaise, g.psaForward, g.datForward, g.mirror][n.val]?)
  ∧ (∀ k : Fin 22, globalRange (32 + k.val) = some (0, 3) ∧ ∀ g : Globals, g.read (32 + k.val) = some g.eventControl[k])
  ∧ (∀ n, n = 0 ∨ 22 ≤ n ∧ n ≤ 31 ∨ 54 ≤ n → globalRange n = none ∧ ∀ g : Globals, g.read n = none)
  ∧ ∀ (c : Caller) (bank index : Byte) (v : Word) (s : State), s.takes (.tableWriteGlobal c bank index v) →
    let run := exec (.tableWriteGlobal c bank index v) s
    let u : State := { s.taken with globals := s.globals.write index.toNat v.toNat }
    (index = 0 ∨ (22 ≤ index.toNat ∧ index.toNat ≤ 31) ∨ 54 ≤ index.toNat → run = .next (s.taken.withNak c 3 6 index))
    ∧ ∀ lo hi, globalRange index.toNat = some (lo, hi) →
        (v.toNat < lo ∨ hi < v.toNat → run = .next (s.taken.withNak c 4 6 index))
        ∧ (lo ≤ v.toNat → v.toNat ≤ hi →
            u.globals.read index.toNat = some v.toNat
            ∧ (∀ j, j ≠ index.toNat → u.globals.read j = s.globals.read j)
            ∧ (index ≠ 2 → index ≠ 9 → index.toNat ≤ 21 → run = .next (u.withAck c))
            ∧ (index = 2 → run = .next
                (({ u with cRatePending := s.cRatePending ++ [(s.cQueue.length + 1, v.toNat)] } : State).withAck c))
            ∧ (index = 9 → s.globals.exclusion = v.toNat → run = .next (u.withAck c))
            ∧ (index = 9 → s.globals.exclusion ≠ v.toNat → ∃ t : State, run = .next (t.withAck c)
                ∧ (∀ i, t.ctx i = if (s.ctx i).state = .free then s.ctx i else { s.ctx i with
                    strikes := 0
                    state := if (s.ctx i).state = .faulted then .tracked else (s.ctx i).state
                    dropReason := if (s.ctx i).state = .dropping ∧ (s.ctx i).dropReason = some .fault then some .order
                      else (s.ctx i).dropReason })
                ∧ t = { u with contexts := t.contexts })
            ∧ (32 ≤ index.toNat → run = .next (({ u with alert := u.alertDue } : State).withAck c)))

/-- TABLE_READ of each table returns the entry as stored, with the state of a section and of a feeder and the working
state and latest sample of a ring; an index or map bank out of range is refused; reading changes nothing. What a write
stored is read as it was written. The bytes of every entry and of a section's state record are spelled in the order of
their tables; that a section status that does not exist is 0, 255, 255, 255 and that a remaining time is rounded up to
tenths is the model's reading (log 18). -/
def Obligations.TableReadsReturnWhatIsStored : Prop :=
  ∀ (c : Caller) (bank index : Byte) (s : State),
    let reply := fun (table : Byte) (body : List Byte) => s.taken.withReply c 0x72 ([table, bank, index] ++ body)
    (s.takes (.tableReadSection c bank index) →
      (1 < bank.toNat ∨ 63 < index.toNat → exec (.tableReadSection c bank index) s = .next (s.taken.withNak c 3 1 index))
      ∧ ∀ k x, bankOfByte bank = some k → x.val = index.toNat → exec (.tableReadSection c bank index) s
          = .next (reply 1 ((s.bank k).sections[x].bytes ++ (s.sec x).bytes)))
    ∧ (s.takes (.tableReadGap c bank index) →
      (1 < bank.toNat ∨ 31 < index.toNat → exec (.tableReadGap c bank index) s = .next (s.taken.withNak c 3 2 index))
      ∧ ∀ k (g : GapId), bankOfByte bank = some k → g.val = index.toNat → exec (.tableReadGap c bank index) s
          = .next (reply 2 (s.bank k).gaps[g].bytes))
    ∧ (s.takes (.tableReadFeeder c bank index) →
      (15 < index.toNat → exec (.tableReadFeeder c bank index) s = .next (s.taken.withNak c 3 3 index))
      ∧ ∀ f, f.val = index.toNat → exec (.tableReadFeeder c bank index) s
          = .next (reply 3 ((s.fdr f).config.bytes ++ [byte (s.fdr f).state.code] ++ nat16 (s.fdr f).committed ++ [byte (s.fdr f).turn])))
    ∧ (s.takes (.tableReadClass c bank index) →
      (7 < index.toNat → exec (.tableReadClass c bank index) s = .next (s.taken.withNak c 3 4 index))
      ∧ ∀ k : Fin 8, k.val = index.toNat → exec (.tableReadClass c bank index) s = .next (reply 4 s.classes[k].bytes))
    ∧ (s.takes (.tableReadRing c bank index) →
      (15 < index.toNat → exec (.tableReadRing c bank index) s = .next (s.taken.withNak c 3 5 index))
      ∧ ∀ f, f.val = index.toNat → ∃ p n, exec (.tableReadRing c bank index) s
            = .next { reply 5 ((s.ring f).desc.bytes ++ [byte (s.ring f).state.code] ++ nat16 (s.ring f).writePos
                ++ nat16 (s.ring f).fill ++ [byte ((s.ring f).countdown.getD 255)]
                ++ [byte ((if (s.meter f).latest.isSome then 1 else 0) + if (s.meter f).silence.isSome then 2 else 0)] ++ p) with fresh := n }
          ∧ p.length = 6 ∧ ∀ m, (s.meter f).latest = some m →
              p = [byte (breakerCode m.breaker), m.seq] ++ nat16 m.current ++ nat16 m.voltage)
    ∧ (s.takes (.tableReadGlobal c bank index) →
      (s.globals.read index.toNat = none → exec (.tableReadGlobal c bank index) s = .next (s.taken.withNak c 3 6 index))
      ∧ ∀ v, s.globals.read index.toNat = some v → exec (.tableReadGlobal c bank index) s = .next (reply 6 (nat16 v)))
    ∧ (∀ e v, sectionEntryOf e = some v → v.bytes = e.bytes) ∧ (∀ e v, gapEntryOf e = some v → v.bytes = e.bytes)
    ∧ (∀ e v, feederConfigOf e = some v → v.bytes = e.bytes) ∧ (∀ e v, classEntryOf e = some v → v.bytes = e.bytes)
    ∧ (∀ e v, ringDescOf e = some v → v.bytes = e.bytes)
    ∧ (∀ n, nat16 n = [BitVec.ofNat 8 (n / 256), BitVec.ofNat 8 n])
    ∧ (∀ r : SectionRec,
      let timer := fun (w : Timer) => let n := (w.getD 0 + 99) / 100; nat16 (n / 65536) ++ nat16 n
      let code : Byte := match r.state with | .isolated => 0 | .standby => 1 | .idle => 2 | .raising => 3 | .energised => 4
      let origin : Byte := match r.raiseOrigin with | none => 255 | some .standby => 1 | some .idle => 2
      let status : List Byte := match r.ssu with
        | none => [0, 255, 255, 255]
        | some u => [1, flagByte u.closed, flagByte u.voltage, flagByte u.fault]
      let command : Byte := match r.command with
        | none => 0 | some .opening => 1 | some .keepalive => 2 | some .close => 3 | some .closeFast => 4
      r.bytes = [code, flagByte r.lockout, origin] ++ timer r.raiseTimer ++ timer r.idleTimer ++ timer r.standbyTimer
        ++ status ++ [command])
    ∧ (∀ e : SectionEntry, e.bytes = [flagByte e.valid] ++ nat16 e.low ++ nat16 e.high ++ [byte e.feeder.val] ++ nat16 e.limit
        ++ nat16 e.wake ++ [byte e.idleCode, byte e.standbyCode, flagByte e.fastRaise])
    ∧ (∀ e : GapEntry, e.bytes = [flagByte e.valid] ++ nat16 e.low ++ nat16 e.high ++ [byte e.lower.val, byte e.upper.val]
        ++ nat16 e.approach ++ [flagByte e.bridgeable, byte e.crossingLimit])
    ∧ (∀ e : FeederConfig, e.bytes = nat16 e.capacity ++ nat16 e.reserve
        ++ [byte e.share, byte e.overloadCode, byte e.meterLostTime] ++ nat16 e.fastVolts)
    ∧ (∀ e : ClassEntry, e.bytes = [flagByte e.valid, e.matchBits, e.mask, if e.base = .one then 1 else 2] ++ nat16 e.cap
        ++ [byte e.maxHold, flagByte e.holdThrough])
    ∧ ∀ e : RingDesc, e.bytes = [flagByte e.enabled] ++ nat16 e.start ++ nat16 e.length ++ [byte e.distance]
        ++ nat16 e.threshold ++ [byte e.postTrip, flagByte e.freeze, flagByte e.wrap]

/-! ### Status, counters, contexts, queues and events -/

/-- STATUS_READ replies with the state of the part, the latches and the feeders, then clears the latches and the ALERT
line; the bytes of a sample that does not exist are left open (log 6). COUNTER_READ (R163) replies with the 34
counters in their order, the frame of the request counted where it arrives with the command (log 7), and does not clear them. -/
def Obligations.StatusAndCountersAreRead : Prop :=
  (∀ (c : Caller) (s : State), s.takes (.counterRead c) →
    let k := s.taken.counters
    exec (.counterRead c) s = .next (s.taken.withReply c 0x75
      (([k.w.good, k.w.checkErrors, k.w.runts, k.w.foreign, k.w.txDrops, k.c.good, k.c.checkErrors, k.c.runts, k.c.foreign,
         k.c.txDrops, k.overrun, k.m.good, k.m.checkErrors, k.m.runts, k.m.foreign, k.m.txDrops]
        ++ k.missed.toList ++ [k.lapsed, k.sheds]).flatMap nat16)))
  ∧ ∀ (c : Caller) (s : State), s.takes (.statusRead c) →
    ∃ p n, exec (.statusRead c) s = .next { s.taken.withReply c 0x74 p with latches := 0, alert := false, fresh := n }
      ∧ p.length = 136
      ∧ p.take 8 = [byte s.admission.code, byte s.active.code, byte s.swap.code, byte ((s.swapTimer.getD 0 + 999) / 1000),
          byte ((if s.stopLine then 1 else 0) + if s.alert then 2 else 0),
          byte (s.latches.toNat / 65536), byte (s.latches.toNat / 256), byte s.latches.toNat]
      ∧ ∀ f : FeederId,
          p.getD (8 + 8 * f.val) 0 = byte (s.fdr f).state.code
          ∧ p.getD (9 + 8 * f.val) 0
              = byte ((if (s.meter f).latest.isSome then 1 else 0) + if (s.meter f).silence.isSome then 2 else 0)
          ∧ ∀ m, (s.meter f).latest = some m → (p.drop (10 + 8 * f.val)).take 6
              = [byte (breakerCode m.breaker), m.seq] ++ nat16 m.current ++ nat16 m.voltage

/-- CONTEXT_READ replies with the record of a slot, or of a truck's context, field by field in the order of R21's table; a
selector above 1, a slot above 47 and a truck without a context are refused. QUEUE_READ replies with the feeder's state,
committed current, admission limit, turn counter and list lengths, the skip, and as many whole records after the skip as
fit in the 229 bytes left, in the order grant order, level 1, level 2. Reading changes nothing. The model's choices: the
index 255 of the NAK of a selector above 1 (log 16); the membership and the stamp as read from the feeder's lists (log
11); the bytes of the fields that are none, and the remaining times and the silence age rounded up (log 18). -/
def Obligations.ContextsAndQueuesAreRead : Prop :=
  (∀ (c : Caller) (selector value : Byte) (s : State), s.takes (.contextRead c selector value) →
    let run := exec (.contextRead c selector value) s
    let id := fun (n : Option Nat) => byte (n.getD 255)
    let timer := fun (t : Timer) => nat32 ((t.getD 0 + 99) / 100)
    let record := fun (i : Slot) =>
      let x := s.ctx i
      [id (x.truck.map BitVec.toNat), id (x.cls.index.map Fin.val), byte x.state.code] ++ nat16 x.pos.chainage
        ++ [byte (headingCode x.pos.heading), byte (pantographCode x.pos.pantograph), flagByte x.pos.loaded]
        ++ nat16 x.pos.drawn ++ x.pos.resolution.bytes ++ [id (x.pos.approach.map Fin.val)]
        ++ nat32 ((x.silenceAge + 99) / 100) ++ [byte x.silenceCount]
        ++ [x.req.tag.getD 0] ++ nat16 x.req.requested ++ nat16 x.req.minimum ++ [byte (x.req.hold.getD 0), byte x.req.level.code]
        ++ (match s.memberOf i with
            | some m => [byte m.feeder.val, byte m.level.code, byte m.entry.mark.code, byte (min 255 m.position)]
            | none => [255, 0, 255, 0])
        ++ nat16 ((x.hold.map (·.amount)).getD 0) ++ [id (x.hold.map (·.feeder.val)), id (x.hold.map (·.sect.val))]
        ++ timer (x.grantExpiry.or x.offerWindow) ++ timer x.offerRepeat
        ++ [byte x.repeatCount, byte ((x.levelAtGrant.map Level.code).getD 0), byte ((s.orderStamp i).getD 0)]
        ++ [id (x.gap.gapId.map Fin.val), id (x.gap.target.map Fin.val)] ++ nat16 x.gap.amount ++ [id (x.gap.feeder.map Fin.val)]
        ++ timer x.gap.crossing ++ timer x.gap.carried ++ [flagByte x.gap.arcReported]
        ++ [byte ((x.dropReason.map Reason.code).getD 0)] ++ timer x.dropDeadline
        ++ [byte x.strikes, byte x.overdraw, flagByte x.holdFlag]
        ++ (match x.withdraw with
            | some w => [byte w.reason.code, byte (if w.immediate then 0 else (x.dropDeadline.getD 0 + 99) / 100)]
            | none => [0, 255])
    (1 < selector.toNat → run = .next (s.taken.withNak c 4 0 255))
    ∧ (selector = 0 → 47 < value.toNat → run = .next (s.taken.withNak c 3 0 value))
    ∧ (∀ i : Slot, selector = 0 → i.val = value.toNat → run = .next (s.taken.withReply c 0x76 (record i)))
    ∧ (selector = 1 → s.slotOf value = none → run = .next (s.taken.withNak c 8 0 value))
    ∧ ∀ i, selector = 1 → s.slotOf value = some i → run = .next (s.taken.withReply c 0x76 (record i)))
  ∧ ∀ (c : Caller) (feeder skip : Byte) (s : State), s.takes (.queueRead c feeder skip) →
    (15 < feeder.toNat → exec (.queueRead c feeder skip) s = .next (s.taken.withNak c 3 0 feeder))
    ∧ ∀ f : FeederId, f.val = feeder.toNat →
        let d := s.fdr f
        let start := fun (i : Slot) => [byte i.val, byte (((s.ctx i).truck.map BitVec.toNat).getD 255), byte (s.ctx i).state.code]
        let grant := fun (i : Slot) => start i ++ nat16 (((s.ctx i).hold.map (·.amount)).getD 0)
          ++ [byte (((s.ctx i).hold.map (·.sect.val)).getD 255)]
        let entry := fun (e : Entry) => start e.slot ++ [byte e.sect.val, byte e.mark.code]
        let all := (d.grantOrder.map grant ++ d.wait1.map entry ++ d.wait2.map entry).drop skip.toNat
        ∃ rs more, all = rs ++ more ∧ rs.flatten.length ≤ 229
          ∧ (∀ r rest, more = r :: rest → 229 < rs.flatten.length + r.length)
          ∧ exec (.queueRead c feeder skip) s = .next (s.taken.withReply c 0x77
              ([byte d.state.code] ++ nat16 d.committed ++ nat16 (d.config.capacity - d.config.reserve) ++ [byte d.turn,
                byte d.grantOrder.length, byte d.wait1.length, byte d.wait2.length, skip, byte rs.length] ++ rs.flatten))

/-- An occurrence of an event sets its latch; with its frame enable set the event sequence goes up by 1 and an EVENT frame
with the kind, subject and value and that sequence as its tag is offered to the C-link queue, where a full queue counts a
transmit drop; then ALERT stands asserted exactly while a latch whose kind has its alert enable set is set. -/
def Obligations.EventsAreLatchedNumberedAndAlerted : Prop :=
  ∀ (k : EventKind) (subject value : Nat) (s : State),
    let place := k.place.val
    let control := s.globals.eventControl[k.place]
    let latches := s.latches ||| (1#22 <<< place)
    let event : Frame := ⟨0x80, 0, s.cAddress, s.eventSeq + 1, [byte (place + 1), byte subject] ++ nat16 value⟩
    let alert := (List.finRange 22).any (fun p => latches.getLsbD p && s.globals.eventControl[p] / 2 % 2 == 1)
    let t : State := { s with latches := latches, alert := alert }
    (control % 2 = 0 → s.report k subject value = t)
    ∧ (control % 2 = 1 → s.cQueue.length ≤ 28 →
        s.report k subject value = { t with eventSeq := s.eventSeq + 1, cQueue := s.cQueue ++ [event] })
    ∧ (control % 2 = 1 → 28 < s.cQueue.length → s.report k subject value = { t with
        eventSeq := s.eventSeq + 1
        counters := { s.counters with c := { s.counters.c with txDrops := min 65535 (s.counters.c.txDrops + 1) } } })

/-! ### Resolution -/

/-- Resolution: the gap whose valid range contains the chainage, otherwise the section whose valid range does, otherwise
off-map; where more than one does, which validation rules out, the lowest. A report in a section approaches the lowest gap in
whose zone, on the side it heads from, its chainage lies. Validation names the first valid section that overlaps another, else
the first valid gap that overlaps another, whose sections are not two valid ones that enclose it, or that bridges two feeders. -/
def Obligations.ChainagesResolve : Prop :=
  (∀ (k : Bank) (n : Nat),
    let inGap := fun (g : GapId) => k.gaps[g].valid = true ∧ k.gaps[g].low ≤ n ∧ n ≤ k.gaps[g].high
    let inSection := fun (x : SectionId) => k.sections[x].valid = true ∧ k.sections[x].low ≤ n ∧ n ≤ k.sections[x].high
    (∀ g, inGap g → (∀ h, h < g → ¬inGap h) → k.resolve n = .gap g)
    ∧ (∀ x, (∀ g, ¬inGap g) → inSection x → (∀ y, y < x → ¬inSection y) → k.resolve n = .sect x)
    ∧ ((∀ g, ¬inGap g) → (∀ x, ¬inSection x) → k.resolve n = .offMap))
  ∧ (∀ (s : State) (h : Heading) (n : Nat),
    let e := fun (g : GapId) => (s.bank s.active).gaps[g]
    let near := fun (x : SectionId) (g : GapId) => (e g).valid = true ∧ (e g).bridgeable = false
      ∧ (h = .up ∧ (e g).lower = x ∧ (e g).low - (e g).approach ≤ n ∧ n < (e g).low
        ∨ h = .down ∧ (e g).upper = x ∧ (e g).high < n ∧ n ≤ (e g).high + (e g).approach)
    (∀ x g, near x g → (∀ k, k < g → ¬near x k) → s.approachOf h (.sect x) n = some g)
    ∧ (∀ x, (∀ g, ¬near x g) → s.approachOf h (.sect x) n = none)
    ∧ (∀ g, s.approachOf h (.gap g) n = none) ∧ s.approachOf h .offMap n = none)
  ∧ ∀ k : Bank,
    let sect := fun (x : SectionId) => k.sections[x]
    let gap := fun (g : GapId) => k.gaps[g]
    let badSection := fun (x : SectionId) => (sect x).valid = true ∧ ∃ y, y ≠ x ∧ (sect y).valid = true
      ∧ (sect x).low ≤ (sect y).high ∧ (sect y).low ≤ (sect x).high
    let badGap := fun (g : GapId) => (gap g).valid = true ∧
      ((∃ h, h ≠ g ∧ (gap h).valid = true ∧ (gap g).low ≤ (gap h).high ∧ (gap h).low ≤ (gap g).high)
        ∨ (sect (gap g).lower).valid = false ∨ (sect (gap g).upper).valid = false ∨ (gap g).lower = (gap g).upper
        ∨ ¬((sect (gap g).lower).low < (gap g).low ∧ (gap g).low ≤ (sect (gap g).lower).high + 1)
        ∨ ¬((gap g).high < (sect (gap g).upper).high ∧ (sect (gap g).upper).low ≤ (gap g).high + 1)
        ∨ ((gap g).bridgeable = true ∧ (sect (gap g).lower).feeder ≠ (sect (gap g).upper).feeder))
    (∀ x, badSection x → (∀ y, y < x → ¬badSection y) → k.invalid = some (1, x.val))
    ∧ ((∀ x, ¬badSection x) → ∀ g, badGap g → (∀ h, h < g → ¬badGap h) → k.invalid = some (2, g.val))
    ∧ ((∀ x, ¬badSection x) → (∀ g, ¬badGap g) → k.invalid = none)

/-! ### History -/

/-- HISTORY_READ: the checks in order, then the feeder, the ring state, the fill, the offset, the delivered and
not-delivered counts and the entries from the offset on, newest first. In a sound ring the entry at an offset is the one
so many places and one before the write position, wrapping from the start to the end; a sample stored at the write
position is then the entry at offset 0, and every other is one offset older. Reading changes nothing. That the NAKs name
the feeder as their index is the model's reading (log 16). -/
def Obligations.HistoryIsReadNewestFirst : Prop :=
  (∀ (f : FeederId) (s : State), (s.ring f).sound → s.samples.wf = true →
    let r := s.ring f
    (∀ k, k < r.desc.length → s.ringEntry f k = s.samples.read
      (if r.desc.start + k + 1 ≤ r.writePos then r.writePos - (k + 1) else r.writePos + r.desc.length - (k + 1)))
    ∧ ∀ (e : SampleEntry) (t : State), t.samples = s.samples.store r.writePos e → (t.ring f).desc = r.desc →
        (t.ring f).writePos = (if r.writePos + 1 = r.desc.start + r.desc.length then r.desc.start else r.writePos + 1) →
        t.ringEntry f 0 = e ∧ ∀ k, k + 1 < r.desc.length → t.ringEntry f (k + 1) = s.ringEntry f k)
  ∧ ∀ (c : Caller) (feeder : Byte) (offset : Word) (count : Byte) (s : State), s.takes (.historyRead c feeder offset count) →
    let run := exec (.historyRead c feeder offset count) s
    (15 < feeder.toNat → run = .next (s.taken.withNak c 3 0 feeder))
    ∧ ∀ f : FeederId, f.val = feeder.toNat →
        let r := s.ring f
        let asked := if count = 0 then 32 else count.toNat
        let n := if offset.toNat < r.fill then min asked (r.fill - offset.toNat) else 0
        (32 < count.toNat → run = .next (s.taken.withNak c 4 0 feeder))
        ∧ (count.toNat ≤ 32 → r.state = .disabled → run = .next (s.taken.withNak c 11 0 feeder))
        ∧ (count.toNat ≤ 32 → r.state ≠ .disabled → run = .next (s.taken.withReply c 0x73
            ([feeder, byte r.state.code] ++ nat16 r.fill ++ be16 offset ++ [byte n, byte (asked - n)]
              ++ (List.range n).flatMap (fun k =>
                let e := s.ringEntry f (offset.toNat + k)
                nat16 e.current ++ nat16 e.voltage ++ [e.seq]))))

/-- HISTORY_RELEASE returns a FROZEN or POST_TRIP ring to RECORDING with its contents, write position and fill kept and
no countdown; a RECORDING ring is unchanged; a DISABLED one and a feeder above 15 are refused. The end of a post-trip
count freezes a POST_TRIP ring whose countdown is 0 and reports RING_FROZEN with the fill; any other ring takes no end of a
count (log 19). -/
def Obligations.RingsAreFrozenAndReleased : Prop :=
  (∀ (c : Caller) (feeder : Byte) (s : State), s.takes (.historyRelease c feeder) →
    let run := exec (.historyRelease c feeder) s
    (15 < feeder.toNat → run = .next (s.taken.withNak c 3 0 feeder))
    ∧ ∀ f : FeederId, f.val = feeder.toNat →
        ((s.ring f).state = .disabled → run = .next (s.taken.withNak c 11 0 feeder))
        ∧ ((s.ring f).state = .recording → run = .next (s.taken.withAck c))
        ∧ ((s.ring f).state = .frozen ∨ (s.ring f).state = .postTrip → run = .next
            ((s.taken.modRing f (fun r => { r with state := .recording, countdown := none })).withAck c)))
  ∧ ∀ (f : FeederId) (s : State), s.resetPin = false →
      ((s.ring f).state = .postTrip → (s.ring f).countdown = some 0 → exec (.postTripCountEnd f) s = .next
        ((s.modRing f (fun r => { r with state := .frozen, countdown := none })).report .ringFrozen f.val (s.ring f).fill))
      ∧ ((s.ring f).state ≠ .postTrip ∨ (s.ring f).countdown ≠ some 0 → exec (.postTripCountEnd f) s = .next s)

/-! ### The swap -/

/-- A context is in conflict with a pending swap in DROPPING and CROSSING, and in DRAWING and OFFERED where its last
chainage does not resolve in the shadow bank to the section it holds current in, on the same feeder; in no other case.
BANK_SWAP: a force byte above 1, a pending swap and an invalid shadow bank are refused in that order. Without force and
with a context in conflict the swap is PENDING with its timer; without one it completes: the selector flips, the swap
ends, every allocated context stands resolved against the new active bank and SWAP_DONE is latched. With force every
DRAWING context in conflict drops with reason RECONFIG and keeps its grant, every OFFERED and CROSSING one holds nothing
and is TRACKED, a gap drop gives up its target side; a drop or a grant in conflict holds the swap PENDING_FORCED. ACK is
last. That the NAKs of a bad force byte and of a pending swap carry table 0 and index 255 is the model's choice (log 16). -/
def Obligations.BanksAreSwapped : Prop :=
  (∀ (s : State) (i : Slot),
    let c := s.ctx i
    s.inConflict i = true ↔ s.swap ≠ .none ∧ (c.state = .dropping ∨ c.state = .crossing
      ∨ (c.state = .drawing ∨ c.state = .offered) ∧ ∃ h, c.hold = some h ∧
          ¬(s.shadowBank.resolve c.pos.chainage = .sect h.sect ∧ s.shadowBank.sections[h.sect].feeder = h.feeder)))
  ∧ ∀ (c : Caller) (s : State),
    let refused := fun (run : Host.Outcome State Fault Refusal) =>
      (s.swap ≠ .none → run = .next (s.taken.withNak c 6 0 255))
      ∧ (s.swap = .none → ∀ table index, s.shadowBank.invalid = some (table, index) →
          run = .next (s.taken.withNak c 7 (byte table) (byte index)))
    let completed := fun (t : State) => t.active = s.active.other ∧ t.swap = .none ∧ t.swapTimer = none
    let forced : State := { s.taken with swap := .pendingForced }
    let answered := fun (t : State) => t.cQueue.getLast? = some ⟨0x70, c.src, s.cAddress, c.seq, []⟩
      ∧ t.bankA = s.bankA ∧ t.bankB = s.bankB ∧ ∀ f, (t.fdr f).config = (s.fdr f).config
    (∀ force : Byte, s.takes (.bankSwap c force) → 1 < force.toNat →
      exec (.bankSwap c force) s = .next (s.taken.withNak c 4 0 255))
    ∧ (s.takes (.bankSwap c 0) →
        let pending : State := { s.taken with swap := .pending, swapTimer := some (s.globals.swapTime * 1000) }
        refused (exec (.bankSwap c 0) s)
        ∧ (s.swap = .none → s.shadowBank.invalid = none →
            ((∃ i, pending.inConflict i = true) → exec (.bankSwap c 0) s = .next (pending.withAck c))
            ∧ ((∀ i, pending.inConflict i = false) → ∃ t, exec (.bankSwap c 0) s = .next t ∧ completed t ∧ answered t
                ∧ t.latches.getLsbD 1 = true
                ∧ (∀ i, (s.ctx i).state ≠ .free →
                    (t.ctx i).pos = { (s.ctx i).pos with
                      resolution := s.shadowBank.resolve (s.ctx i).pos.chainage, approach := (t.ctx i).pos.approach })
                ∧ ∀ i, (s.ctx i).state ≠ .queued → (t.ctx i).state = (s.ctx i).state ∧ (t.ctx i).hold = (s.ctx i).hold)))
    ∧ (s.takes (.bankSwapForced c) →
        refused (exec (.bankSwapForced c) s)
        ∧ (s.swap = .none → s.shadowBank.invalid = none → ∃ t, exec (.bankSwapForced c) s = .next t ∧ answered t
            ∧ (completed t ∨ (t.active = s.active ∧ t.swap = .pendingForced))
            ∧ ((∃ i, (s.ctx i).state = .dropping ∨ (s.ctx i).state = .drawing ∧ forced.inConflict i = true) →
                t.active = s.active ∧ t.swap = .pendingForced)
            ∧ ∀ i, forced.inConflict i = true →
                ((s.ctx i).state = .drawing → (t.ctx i).state = .dropping ∧ (t.ctx i).dropReason = some .reconfig
                  ∧ (t.ctx i).dropDeadline = some (s.globals.ordinaryDrop * 100) ∧ (t.ctx i).hold = (s.ctx i).hold
                  ∧ (t.ctx i).grantExpiry = none ∧ (t.ctx i).withdraw = some ⟨.reconfig, false⟩)
                ∧ ((s.ctx i).state = .offered → (t.ctx i).state = .tracked ∧ (t.ctx i).hold = none)
                ∧ ((s.ctx i).state = .crossing → (t.ctx i).state = .tracked ∧ (t.ctx i).gap = GapFields.clear
                  ∧ (t.ctx i).withdraw = some ⟨.reconfig, true⟩)
                ∧ ((s.ctx i).state = .dropping → (s.ctx i).dropReason = some .gap → (t.ctx i).state = .dropping
                  ∧ (t.ctx i).dropReason = some .reconfig ∧ (t.ctx i).gap = GapFields.clear
                  ∧ (t.ctx i).dropDeadline = (s.ctx i).dropDeadline ∧ (t.ctx i).withdraw = some ⟨.reconfig, false⟩)
                ∧ ((s.ctx i).state = .dropping → (s.ctx i).dropReason ≠ some .gap → t.ctx i = s.ctx i)))

/-- A pending swap is ended by SWAP_CANCEL, and by its timer in PENDING: NONE, the timer stopped, the selector and the
banks as they were, arbitration on every feeder; the timer reports SWAP_TIMEOUT with the shadow bank and the number of
contexts in conflict. With no swap pending SWAP_CANCEL is refused, and no stopped timer expires. The model's choices: the
command of the timer acts whatever time is left on it (log 3), and the refusal carries table 0 and index 255 (log 16). -/
def Obligations.PendingSwapsEndWithoutAFlip : Prop :=
  ∀ s : State,
    (∀ c, s.takes (.swapCancel c) →
      (s.swap = .none → exec (.swapCancel c) s = .next (s.taken.withNak c 11 0 255))
      ∧ (s.swap ≠ .none → exec (.swapCancel c) s
          = .next (({ s.taken with swap := .none, swapTimer := none } : State).arbitrateAll.withAck c)))
    ∧ (s.resetPin = false →
        (s.swap = .pending → s.swapTimer ≠ none → exec .swapTimerExpiry s
          = .next ((({ s with swap := .none, swapTimer := none } : State).report .swapTimeout s.active.other.code
              (allSlots.filter s.inConflict).length).arbitrateAll))
        ∧ (s.swap ≠ .pending ∨ s.swapTimer = none → exec .swapTimerExpiry s = .next s))

/-! ### Sections -/

/-- SECTION_CMD ISOLATE locks the section out with OPEN pending; its DRAWING contexts drop with reason ISOLATED and keep their
grants, its OFFERED and QUEUED ones hold nothing and are TRACKED; a drop for GAP and a crossing go on without their reservation
on it or their entry for it; an ISOLATED section takes lockout and OPEN alone. ENABLE clears lockout, and in RUNNING sends an ISOLATED section to STANDBY. A section above 63 is
refused. -/
def Obligations.SectionsAreIsolatedAndEnabled : Prop :=
  ∀ (c : Caller) (sect : Byte) (s : State),
    (s.takes (.sectionCmdIsolate c sect) →
      (63 < sect.toNat → exec (.sectionCmdIsolate c sect) s = .next (s.taken.withNak c 3 0 sect))
      ∧ ∀ x : SectionId, x.val = sect.toNat →
          ((s.sec x).state = .isolated → exec (.sectionCmdIsolate c sect) s
            = .next ((s.taken.modSec x (fun r => { r with lockout := true, command := some .opening })).withAck c))
          ∧ ((s.sec x).state ≠ .isolated → ∃ t, exec (.sectionCmdIsolate c sect) s = .next t
              ∧ t.cQueue.getLast? = some ⟨0x70, c.src, s.cAddress, c.seq, []⟩
              ∧ t.sec x = { SectionRec.reset with lockout := true, ssu := (s.sec x).ssu, command := some .opening }
              ∧ (∀ i, (s.ctx i).state = .drawing → ((s.ctx i).hold.map (·.sect)) = some x →
                  (t.ctx i).state = .dropping ∧ (t.ctx i).dropReason = some .isolated ∧ (t.ctx i).hold = (s.ctx i).hold
                  ∧ (t.ctx i).dropDeadline = some (s.globals.ordinaryDrop * 100) ∧ (t.ctx i).withdraw = some ⟨.isolated, false⟩)
              ∧ (∀ i, (s.ctx i).state = .offered → ((s.ctx i).hold.map (·.sect)) = some x →
                  (t.ctx i).state = .tracked ∧ (t.ctx i).hold = none)
              ∧ (∀ i, (s.ctx i).state = .queued → ((s.memberOf i).map (·.entry.sect)) = some x → (t.ctx i).state = .tracked)
              ∧ (∀ i, (s.ctx i).state = .dropping → ((s.ctx i).gap.reserved.map (·.sect)) = some x → (t.ctx i).gap.feeder = none)
              ∧ (∀ i, (s.ctx i).state = .dropping ∨ (s.ctx i).state = .crossing → s.contextFits i →
                  (t.ctx i).state = (s.ctx i).state ∧ (t.ctx i).hold = (s.ctx i).hold
                  ∧ (((s.ctx i).gap.reserved.map (·.sect)) = some x → (t.ctx i).gap = { (s.ctx i).gap with feeder := none })
                  ∧ (((s.memberOf i).map (·.entry.sect)) = some x → t.memberOf i = none))
              ∧ (s.swap = .none → ∀ y, y ≠ x → (t.sec y).state = (s.sec y).state ∧ (t.sec y).lockout = (s.sec y).lockout
                  ∧ (t.sec y).command = (s.sec y).command)
              ∧ (s.swap = .none → ∀ i, ((s.ctx i).hold.map (·.sect)) ≠ some x → (s.ctx i).state = .tracked
                  ∨ (s.ctx i).state = .drawing ∨ (s.ctx i).state = .offered ∨ (s.ctx i).state = .faulted → t.ctx i = s.ctx i)))
    ∧ (s.takes (.sectionCmdEnable c sect) →
      (63 < sect.toNat → exec (.sectionCmdEnable c sect) s = .next (s.taken.withNak c 3 0 sect))
      ∧ ∀ x : SectionId, x.val = sect.toNat → exec (.sectionCmdEnable c sect) s
          = .next ((s.taken.modSec x (fun r => { r with
              lockout := false
              state := if r.state = .isolated ∧ s.admission = .running then .standby else r.state })).withAck c))

/-- SECTION_CMD WAKE: BAD_STATE in ISOLATED; NOT_READY in IDLE and STANDBY without an ONLINE feeder; otherwise ACK, after a
raise has begun from IDLE or STANDBY: its command, its origin, RAISING, the idle and standby timers stopped, the raise timer
started. REST_IDLE and REST_STANDBY: refused while the section has load or an entry refers to it, and in the states that
R121's table refuses; otherwise the rest at once, answered with ACK. A section above 63 is refused. The idle timer rests an
ENERGISED section in the same way with KEEPALIVE, the standby timer an IDLE one with OPEN; a stopped timer does not expire, a
running one whatever time is left on it (log 3). -/
def Obligations.SectionsAreWokenAndRested : Prop :=
  (∀ (c : Caller) (sect : Byte) (s : State), s.takes (.sectionCmdWake c sect) →
    let run := exec (.sectionCmdWake c sect) s
    let raised := fun (x : SectionId) (origin : RaiseOrigin) (command : SecCommand) (limit : Nat) =>
      (s.taken.modSec x (fun r => { r with state := .raising, raiseOrigin := some origin, raiseTimer := some limit
                                           idleTimer := none, standbyTimer := none, command := some command })).withAck c
    (63 < sect.toNat → run = .next (s.taken.withNak c 3 0 sect))
    ∧ ∀ x : SectionId, x.val = sect.toNat →
        ((s.sec x).state = .isolated → run = .next (s.taken.withNak c 11 0 sect))
        ∧ ((s.sec x).state = .raising ∨ (s.sec x).state = .energised → run = .next (s.taken.withAck c))
        ∧ ((s.sec x).state = .idle ∨ (s.sec x).state = .standby → (∀ f, s.feederOf x = some f → (s.fdr f).state ≠ .online) →
            run = .next (s.taken.withNak c 12 0 sect))
        ∧ ∀ f, s.feederOf x = some f → (s.fdr f).state = .online →
            let fast := (s.entry x).fastRaise = true ∧ ∃ m, (s.meter f).latest = some m ∧ (s.fdr f).config.fastVolts ≤ m.voltage
            ((s.sec x).state = .idle → run = .next (raised x .idle .close (s.globals.idleRaise * 100)))
            ∧ ((s.sec x).state = .standby → fast → run = .next (raised x .standby .closeFast (s.globals.idleRaise * 100)))
            ∧ ((s.sec x).state = .standby → ¬fast → run = .next (raised x .standby .close (s.globals.standbyRaise * 1000))))
  ∧ ∀ s : State,
    let code := fun (n : Nat) => if n = 0 then none else if n ≤ 60 then some (n * 5000)
      else if n ≤ 115 then some ((n - 55) * 60000) else some ((n - 114) * 3600000)
    let idle := fun (u : State) (x : SectionId) => u.modSec x (fun r => { r with
      state := .idle, idleTimer := none, standbyTimer := code (s.entry x).standbyCode, command := some .keepalive })
    let standby := fun (u : State) (x : SectionId) => u.modSec x (fun r => { r with
      state := .standby, raiseOrigin := none, raiseTimer := none, idleTimer := none, standbyTimer := none, command := some .opening })
    let busy := fun (x : SectionId) => 0 < s.load x ∨ ∃ f e, (e ∈ (s.fdr f).wait1 ∨ e ∈ (s.fdr f).wait2) ∧ e.sect = x
    (∀ c (sect : Byte), s.takes (.sectionCmdRestIdle c sect) →
      let run := exec (.sectionCmdRestIdle c sect) s
      (63 < sect.toNat → run = .next (s.taken.withNak c 3 0 sect))
      ∧ ∀ x : SectionId, x.val = sect.toNat →
          (busy x ∨ (s.sec x).state ∈ [.standby, .raising, .isolated] → run = .next (s.taken.withNak c 11 0 sect))
          ∧ (¬busy x → (s.sec x).state = .idle → run = .next (s.taken.withAck c))
          ∧ (¬busy x → (s.sec x).state = .energised → run = .next ((idle s.taken x).withAck c)))
    ∧ (∀ c (sect : Byte), s.takes (.sectionCmdRestStandby c sect) →
      let run := exec (.sectionCmdRestStandby c sect) s
      (63 < sect.toNat → run = .next (s.taken.withNak c 3 0 sect))
      ∧ ∀ x : SectionId, x.val = sect.toNat →
          (busy x ∨ (s.sec x).state = .isolated → run = .next (s.taken.withNak c 11 0 sect))
          ∧ (¬busy x → (s.sec x).state = .standby → run = .next (s.taken.withAck c))
          ∧ (¬busy x → (s.sec x).state ∈ [.energised, .idle, .raising] → run = .next ((standby s.taken x).withAck c)))
    ∧ ∀ x, s.resetPin = false →
        ((s.sec x).idleTimer ≠ none → (s.sec x).state = .energised → exec (.idleTimerExpiry x) s = .next (idle s x))
        ∧ ((s.sec x).idleTimer = none → exec (.idleTimerExpiry x) s = .next s)
        ∧ ((s.sec x).standbyTimer ≠ none → (s.sec x).state = .idle → exec (.standbyTimerExpiry x) s = .next (standby s x))
        ∧ ((s.sec x).standbyTimer = none → exec (.standbyTimerExpiry x) s = .next s)

/-- An SST is stored as the section's last status and taken by R118's table, with SECTION_MISMATCH carrying the load before
any consequences; a sound status completes a raise, a fault or the raise limit fails it into isolation and RESTORE_FAIL with
the cause and the origin. An SST of a section above 63 is a foreign frame. The model's choices: a frame unfinished before the
SST has ended as a runt (log 20), a pending swap is evaluated last (log 21), and the raise limit acts whatever time is left on
it (log 3). -/
def Obligations.StatusReportsMoveSections : Prop :=
  (∀ (sect : Byte) (closed voltage fault : Bool) (s : State), s.resetPin = false → s.wSending = none →
    let q := s.endRunt .w
    (63 < sect.toNat → exec (.sst sect closed voltage fault) s
      = .next (q.modLink .w (fun k => { k with foreign := min 65535 (k.foreign + 1) })))
    ∧ ∀ x : SectionId, x.val = sect.toNat →
        let u := (q.modLink .w (fun k => { k with good := min 65535 (k.good + 1) })).modSec x
          (fun r => { r with ssu := some { closed := closed, voltage := voltage, fault := fault } })
        let sound := closed = true ∧ voltage = true ∧ fault = false
        let gives := fun (t : State) => exec (.sst sect closed voltage fault) s = .next t.evalSwap
        let mismatch := fun (t : State) => t.report .sectionMismatch x.val (s.load x)
        let opening := u.modSec x (fun r => { r with command := some .opening })
        let standby := u.modSec x (fun r => { r with
          state := .standby, raiseOrigin := none, raiseTimer := none, idleTimer := none, standbyTimer := none, command := some .opening })
        ((s.sec x).state = .energised → (sound → gives u) ∧ (¬sound → gives (mismatch (u.isolate x))))
        ∧ ((s.sec x).state = .idle → (sound → gives u) ∧ (fault = true → gives (mismatch (u.isolate x)))
            ∧ (fault = false → (closed = false ∨ voltage = false) → gives (mismatch standby)))
        ∧ ((s.sec x).state = .raising →
            (sound → ∃ t, exec (.sst sect closed voltage fault) s = .next t
              ∧ (s.swap = .none → (t.sec x).state = .energised ∧ (t.sec x).raiseOrigin = none ∧ (t.sec x).raiseTimer = none))
            ∧ (fault = true → gives ((u.isolate x).report .restoreFail x.val
                (if (s.sec x).raiseOrigin = some .standby then 3 else 2)))
            ∧ (¬sound → fault = false → gives u))
        ∧ ((s.sec x).state = .standby → (closed = false → fault = false → gives u)
            ∧ (closed = true → fault = false → gives (mismatch opening))
            ∧ (fault = true → gives (mismatch (u.isolate x))))
        ∧ ((s.sec x).state = .isolated → (closed = false → fault = false → gives u)
            ∧ (closed = true → fault = false → gives (mismatch opening))
            ∧ (fault = true →
                let locked := (if closed then opening else u).modSec x (fun r => { r with lockout := true })
                ((s.sec x).lockout = true → gives locked) ∧ ((s.sec x).lockout = false → gives (mismatch locked)))))
  ∧ ∀ (x : SectionId) (s : State), s.resetPin = false →
      ((s.sec x).raiseTimer = none → exec (.raiseLimitExpiry x) s = .next s)
      ∧ ((s.sec x).raiseTimer ≠ none → (s.sec x).state = .raising → exec (.raiseLimitExpiry x) s
          = .next ((s.isolate x).report .restoreFail x.val (if (s.sec x).raiseOrigin = some .standby then 1 else 0)).evalSwap)

/-! ### Feeders -/

/-- RESUME: BAD_STATE in ONLINE and SUSPECT; NOT_READY without a running meter silence timer and a CLOSED latest sample;
otherwise ONLINE, the ring released, each IDLE or STANDBY section of the feeder with a holder RAISING, and ACK. A section has a
holder while its load is above 0 or an entry of a QUEUED context refers to it. -/
def Obligations.FeedersAreResumed : Prop :=
  ∀ (c : Caller) (feeder : Byte) (s : State), s.takes (.feederCmdResume c feeder) →
    let run := exec (.feederCmdResume c feeder) s
    (15 < feeder.toNat → run = .next (s.taken.withNak c 3 0 feeder))
    ∧ ∀ f : FeederId, f.val = feeder.toNat →
        let ready := (s.meter f).silence ≠ none ∧ ∃ m, (s.meter f).latest = some m ∧ m.breaker = .closed
        let down := (s.fdr f).state = .offline ∨ (s.fdr f).state = .tripped
        let held := fun (x : SectionId) => 0 < s.load x
          ∨ ∃ g e, (e ∈ (s.fdr g).wait1 ∨ e ∈ (s.fdr g).wait2) ∧ e.sect = x ∧ (s.ctx e.slot).state = .queued
        (¬down → run = .next (s.taken.withNak c 11 0 feeder))
        ∧ (down → ¬ready → run = .next (s.taken.withNak c 12 0 feeder))
        ∧ (down → ready → ∃ t, run = .next t
            ∧ t.cQueue = s.cQueue ++ [⟨0x70, c.src, s.cAddress, c.seq, []⟩]
            ∧ (t.fdr f).state = .online ∧ (t.fdr f).meterLost = none ∧ (t.fdr f).config = (s.fdr f).config
            ∧ (∀ g, g ≠ f → (t.fdr g).state = (s.fdr g).state)
            ∧ t.ring f = (if (s.ring f).state = .frozen ∨ (s.ring f).state = .postTrip
                then { s.ring f with state := .recording, countdown := none } else s.ring f)
            ∧ (∀ x, s.feederOf x = some f → held x → (s.sec x).state = .idle ∨ (s.sec x).state = .standby →
                (t.sec x).state = .raising)
            ∧ (∀ x, s.feederOf x ≠ some f ∨ ¬held x → (t.sec x).state = (s.sec x).state)
            ∧ ∀ i, (s.ctx i).state ≠ .queued → (s.ctx i).state ≠ .crossing → t.ctx i = s.ctx i)

/-- FEEDER_CMD OFFLINE, and the meter-lost timer in SUSPECT, put the feeder OFFLINE with its timers stopped and its turn
counter 0: its grants and offers end, DRAWING contexts with WDR and deadline 0 pending, into TRACKED; a drop on it ends, a
gap drop into CROSSING and a drop for FAULT into FAULTED; its QUEUED contexts are TRACKED. In a sound state a reservation
and an entry on it end with the gap drop or the crossing that has them going on, while those on another feeder stand
(there an entry may become a reservation), and the feeder is left with committed current 0 and empty lists. With no swap
pending its closed or closing sections are in STANDBY with OPEN pending. Meter silence in ONLINE puts the feeder in
SUSPECT. That the commands of the two timers act whatever time is left on them is the model's choice (log 3). -/
def Obligations.FeedersAreLost : Prop :=
  ∀ (f : FeederId) (s : State),
    let lost := fun (r : Reason) (t : State) =>
      (t.fdr f).state = .offline ∧ (t.fdr f).overload = none ∧ (t.fdr f).meterLost = none ∧ (t.fdr f).config = (s.fdr f).config
      ∧ (∀ i, s.holdsOn i f = true → (s.ctx i).state = .drawing →
          (t.ctx i).state = .tracked ∧ (t.ctx i).hold = none ∧ (t.ctx i).withdraw = some ⟨r, true⟩)
      ∧ (∀ i, s.holdsOn i f = true → (s.ctx i).state = .offered → (t.ctx i).state = .tracked ∧ (t.ctx i).hold = none)
      ∧ (∀ i, s.holdsOn i f = true → (s.ctx i).state = .dropping →
          (t.ctx i).hold = none ∧ (t.ctx i).withdraw = some ⟨r, true⟩
          ∧ (t.ctx i).state = (if (s.ctx i).dropReason = some .gap then .crossing
              else if (s.ctx i).dropReason = some .fault then .faulted else .tracked))
      ∧ (∀ i, s.entryOn i f = true → (s.ctx i).state = .queued → (t.ctx i).state = .tracked)
      ∧ (s.swap = .none → (t.fdr f).turn = 0 ∧ ∀ x, s.feederOf x = some f →
          (s.sec x).state = .raising ∨ (s.sec x).state = .energised ∨ (s.sec x).state = .idle →
          t.sec x = { s.sec x with state := .standby, raiseOrigin := none, raiseTimer := none, idleTimer := none
                                   standbyTimer := none, command := some .opening })
      ∧ (s.contextsFit → s.listsFit → s.budgetsAgree →
          (t.fdr f).committed = 0 ∧ (t.fdr f).grantOrder = [] ∧ (t.fdr f).wait1 = [] ∧ (t.fdr f).wait2 = [] ∧ t.budgetsAgree
          ∧ ∀ i,
            let c := s.ctx i
            let d := t.ctx i
            let waits := fun (u : State) (g : FeederId) => ∃ e ∈ (u.fdr g).wait1 ++ (u.fdr g).wait2, e.slot = i
            (c.state = .crossing → d.state = .crossing)
            ∧ (c.state = .dropping → s.holdsOn i f = false →
                d.state = .dropping ∧ d.dropReason = c.dropReason ∧ d.hold = c.hold ∧ d.dropDeadline = c.dropDeadline)
            ∧ (c.state = .dropping → c.dropReason = some .gap → s.holdsOn i f = true →
                ∀ g, c.gap.gapId = some g → d.gap.crossing = some ((s.gapEntry g).crossingLimit * 1000))
            ∧ (c.state = .crossing ∨ c.state = .dropping ∧ c.dropReason = some .gap →
                d.gap.gapId = c.gap.gapId ∧ d.gap.target = c.gap.target ∧ d.gap.amount = c.gap.amount
                ∧ (c.gap.target ≠ none → c.gap.feeder = some f → d.gap.feeder = none ∧ ∀ g, ¬waits t g)
                ∧ (waits s f → d.gap.feeder = none ∧ ∀ g, ¬waits t g)
                ∧ (∀ g, g ≠ f → c.gap.feeder = some g → d.gap.feeder = some g)
                ∧ ∀ g, g ≠ f → waits s g → waits t g ∨ d.gap.feeder = some g))
    (∀ c (feeder : Byte), s.takes (.feederCmdOffline c feeder) →
      (15 < feeder.toNat → exec (.feederCmdOffline c feeder) s = .next (s.taken.withNak c 3 0 feeder))
      ∧ (f.val = feeder.toNat →
          ((s.fdr f).state = .offline → exec (.feederCmdOffline c feeder) s = .next (s.taken.withAck c))
          ∧ ((s.fdr f).state ≠ .offline → ∃ t, exec (.feederCmdOffline c feeder) s = .next t ∧ lost .feederDown t
              ∧ t.cQueue.getLast? = some ⟨0x70, c.src, s.cAddress, c.seq, []⟩)))
    ∧ (s.resetPin = false →
        ((s.fdr f).meterLost ≠ none → (s.fdr f).state = .suspect → ∃ t, exec (.meterLostTimerExpiry f) s = .next t ∧ lost .meterLost t
          ∧ t.latches.getLsbD 12 = true)
        ∧ ((s.fdr f).meterLost = none → exec (.meterLostTimerExpiry f) s = .next s)
        ∧ ((s.meter f).silence = none → exec (.meterSilenceExpiry f) s = .next s)
        ∧ ((s.meter f).silence ≠ none →
            let u := s.modMeter f (fun m => { m with silence := none })
            ((s.fdr f).state ≠ .online → exec (.meterSilenceExpiry f) s = .next u)
            ∧ ((s.fdr f).state = .online → ∃ t, exec (.meterSilenceExpiry f) s = .next t
                ∧ (∀ g, t.fdr g = if g = f then { s.fdr f with
                    state := .suspect, meterLost := some ((s.fdr f).config.meterLostTime * 1000) } else s.fdr g)
                ∧ t.meter f = { s.meter f with silence := none } ∧ t.latches.getLsbD 11 = true ∧ t.contexts = s.contexts
                ∧ ∀ x, t.sec x = if s.feederOf x = some f ∧ (s.sec x).state = .raising
                    then { s.sec x with state := .standby, raiseOrigin := none, raiseTimer := none, idleTimer := none
                                        standbyTimer := none, command := some .opening }
                    else s.sec x)))

/-- The overload timer sheds the newest DRAWING grant of the first group that has one: level 2 without hold-through, level 1
without, hold-through. It drops with reason SHED and keeps its grant; OVERLOAD_SHED carries its truck and the latest current,
the shed counter counts; with no DRAWING context the subject is 0 and nothing is withdrawn. The timer restarts while the
latest current is above the capacity. That the command acts whatever time is left on the timer is the model's choice (log 3). -/
def Obligations.OverloadsShedTheNewestGrant : Prop :=
  ∀ (f : FeederId) (s : State), s.resetPin = false →
    let current := ((s.meter f).latest.map (·.current)).getD 0
    let drawing := (s.fdr f).grantOrder.filter (fun i => (s.ctx i).state = .drawing)
    let group := fun (p : Context → Bool) => (drawing.filter (fun i => p (s.ctx i))).getLast?
    let victim := ((group (fun k => k.levelAtGrant = some .two ∧ k.cls.holdThrough = false)).or
      (group (fun k => k.levelAtGrant = some .one ∧ k.cls.holdThrough = false))).or (group (fun k => k.cls.holdThrough))
    let restarted := fun (t : State) => t.modFdr f (fun d => { d with
      overload := if d.config.capacity < current then some (d.config.overloadCode * 100) else none })
    ((s.fdr f).overload = none → exec (.overloadTimerExpiry f) s = .next s)
    ∧ ((s.fdr f).overload ≠ none → victim = none →
        exec (.overloadTimerExpiry f) s = .next (restarted (s.report .overloadShed 0 current)))
    ∧ ∀ i, (s.fdr f).overload ≠ none → victim = some i →
        let t := (s.modCtx i (fun k => { k with
          state := .dropping, dropReason := some .shed, dropDeadline := some (s.globals.shedDrop * 100), grantExpiry := none
          overdraw := 0, withdraw := some ⟨.shed, false⟩ })).report .overloadShed ((s.ctx i).truck.getD 0).toNat current
        exec (.overloadTimerExpiry f) s = .next (restarted
          { t with counters := { t.counters with sheds := min 65535 (s.counters.sheds + 1) } })

/-! ### Arbitration -/

/-- An entry is eligible on an ONLINE feeder where its context is QUEUED, its section ENERGISED and the offer would not
conflict with a pending swap, or where its context is CROSSING and no swap is pending. A round takes the earliest eligible
entry of the list whose turn it is, else of the other list. With none, or with one that does not fit, arbitration changes
nothing. One that fits is served: a QUEUED context is OFFERED the least of request, headrooms and class cap, a CROSSING
one has its crossing amount reserved; its entry leaves the list, the amount is committed, the turn counter goes up by 1,
held at K, after level 1 and returns to 0 after level 2, and another round follows on what that leaves. No context but
those that wait is changed. -/
def Obligations.ArbitrationServesTheEarliestEligible : Prop :=
  ∀ (f : FeederId) (s : State),
    let r := s.fdr f
    let first := if r.turn = r.config.share then r.wait2 else r.wait1
    let second := if r.turn = r.config.share then r.wait1 else r.wait2
    let next := (first.find? (s.eligible f)).or (second.find? (s.eligible f))
    let room := r.config.capacity - r.config.reserve - r.committed
    let space := fun (x : SectionId) => if (s.entry x).valid then (s.entry x).limit - s.load x else 0
    (∀ e, s.eligible f e = true ↔ r.state = .online ∧
      ((s.ctx e.slot).state = .queued ∧ (s.sec e.sect).state = .energised
          ∧ (s.swap = .none ∨ s.shadowBank.resolve (s.ctx e.slot).pos.chainage = .sect e.sect
              ∧ s.shadowBank.sections[e.sect].valid = true ∧ s.shadowBank.sections[e.sect].feeder = f)
        ∨ (s.ctx e.slot).state = .crossing ∧ s.swap = .none))
    ∧ (∀ i, (s.ctx i).state ≠ .queued → (s.ctx i).state ≠ .crossing → (s.arbitrate f).ctx i = s.ctx i)
    ∧ (next = none → s.arbitrate f = s)
    ∧ ∀ e, next = some e →
        let c := s.ctx e.slot
        let amount := min (min c.req.requested room) (min (space e.sect) c.cls.cap)
        (c.state = .queued → amount < c.req.minimum ∨ amount = 0 → s.arbitrate f = s)
        ∧ (c.state = .queued → c.req.minimum ≤ amount → 0 < amount →
            let k := (s.arbitrate f).ctx e.slot
            k.state = .offered ∧ k.hold = some ⟨amount, f, e.sect⟩ ∧ k.offerWindow = some (s.globals.offerWindow * 1000)
            ∧ k.offerRepeat = some (s.globals.offerRepeat * 250) ∧ k.repeatCount = 0 ∧ k.req = c.req)
        ∧ (c.state = .crossing → room < c.gap.amount ∨ space (c.gap.target.getD e.sect) < c.gap.amount → s.arbitrate f = s)
        ∧ (c.state = .crossing → c.gap.amount ≤ room → c.gap.amount ≤ space (c.gap.target.getD e.sect) →
            ((s.arbitrate f).ctx e.slot).state = .crossing ∧ ((s.arbitrate f).ctx e.slot).gap = { c.gap with feeder := some f })
        ∧ (s.contextsFit →
            let ofFirst := (first.find? (s.eligible f)).isSome
            let ofTwo := ofFirst = decide (r.turn = r.config.share)
            let served := fun (sect : SectionId) (n : Nat) (t : State) =>
              s.arbitrate f = t.arbitrate f
              ∧ t.fdr f = { r with
                  turn := if ofTwo then 0 else min r.config.share (r.turn + 1)
                  committed := r.committed + n
                  wait1 := r.wait1.filter (fun d => d.slot ≠ e.slot)
                  wait2 := r.wait2.filter (fun d => d.slot ≠ e.slot) }
              ∧ (∀ g, g ≠ f → t.fdr g = s.fdr g) ∧ (∀ x, t.load x = s.load x + if x = sect then n else 0)
              ∧ (∀ i, i ≠ e.slot → t.ctx i = s.ctx i) ∧ t.ctx e.slot = (s.arbitrate f).ctx e.slot
            (c.state = .queued → c.req.minimum ≤ amount → 0 < amount → ∃ t, served e.sect amount t
              ∧ (s.normalQueue.length < 32 → 0 < s.globals.offerWindow → t.normalQueue = s.normalQueue
                  ++ [⟨0x22, c.truck.getD 0, 0, c.req.tag.getD 0, nat16 amount ++ [byte e.sect.val, byte s.globals.offerWindow]⟩]))
            ∧ (∀ x, c.gap.target = some x → c.state = .crossing → c.gap.amount ≤ room →
                c.gap.amount ≤ space x → ∃ t, served x c.gap.amount t ∧ t.normalQueue = s.normalQueue))

/-! ### Truck orders -/

/-- TRUCK_ORDER for a truck without a context is refused. LOWER sets WDR ORDER pending in every state: a DRAWING context drops
with reason ORDER, a drop but one for FAULT takes reason ORDER and gives up a gap's target side, a QUEUED, OFFERED or CROSSING
one holds nothing and is TRACKED, the others stand. ACK is last. -/
def Obligations.TrucksAreLowered : Prop :=
  ∀ (c : Caller) (truck : Byte) (s : State), s.takes (.truckOrderLower c truck) →
    (s.slotOf truck = none → exec (.truckOrderLower c truck) s = .next (s.taken.withNak c 8 0 truck))
    ∧ ∀ i, s.slotOf truck = some i → ∃ t, exec (.truckOrderLower c truck) s = .next t
        ∧ t.cQueue.getLast? = some ⟨0x70, c.src, s.cAddress, c.seq, []⟩
        ∧ (t.ctx i).truck = some truck ∧ (t.ctx i).strikes = (s.ctx i).strikes ∧ (t.ctx i).holdFlag = (s.ctx i).holdFlag
        ∧ ((s.ctx i).state = .drawing → (t.ctx i).state = .dropping ∧ (t.ctx i).dropReason = some .order
            ∧ (t.ctx i).hold = (s.ctx i).hold ∧ (t.ctx i).dropDeadline = some (s.globals.ordinaryDrop * 100)
            ∧ (t.ctx i).grantExpiry = none ∧ (t.ctx i).withdraw = some ⟨.order, false⟩)
        ∧ ((s.ctx i).state = .dropping → (t.ctx i).state = .dropping ∧ (t.ctx i).hold = (s.ctx i).hold
            ∧ (t.ctx i).dropDeadline = (s.ctx i).dropDeadline ∧ (t.ctx i).withdraw = some ⟨.order, false⟩
            ∧ (t.ctx i).dropReason = (if (s.ctx i).dropReason = some .fault then some .fault else some .order)
            ∧ ((s.ctx i).dropReason = some .gap → (t.ctx i).gap = GapFields.clear))
        ∧ ((s.ctx i).state ∈ [.queued, .offered, .crossing] → (t.ctx i).state = .tracked ∧ (t.ctx i).hold = none
            ∧ (t.ctx i).gap = GapFields.clear ∧ (t.ctx i).withdraw = some ⟨.order, true⟩)
        ∧ ((s.ctx i).state = .tracked ∨ (s.ctx i).state = .faulted → (t.ctx i).state = (s.ctx i).state
            ∧ (t.ctx i).withdraw = some ⟨.order, true⟩)

/-- HOLD sets the hold flag; a QUEUED or OFFERED context loses its entry or offer, is sent RFS HELD and is TRACKED; a flag
already set changes nothing. UNHOLD clears the flag. CLEAR_FAULT clears both counts, sends a FAULTED context to TRACKED and
turns a drop for FAULT into one for ORDER. EVICT frees a TRACKED or FAULTED context, sends no frame but the reply, and is
refused in the other states. -/
def Obligations.TrucksAreHeldClearedAndEvicted : Prop :=
  ∀ (c : Caller) (truck : Byte) (s : State),
    (s.takes (.truckOrderHold c truck) →
      (s.slotOf truck = none → exec (.truckOrderHold c truck) s = .next (s.taken.withNak c 8 0 truck))
      ∧ ∀ i, s.slotOf truck = some i →
          (s.swapSettled → (s.ctx i).holdFlag = true → exec (.truckOrderHold c truck) s = .next (s.taken.withAck c))
          ∧ (s.swapSettled → (s.ctx i).holdFlag = false → (s.ctx i).state ≠ .queued → (s.ctx i).state ≠ .offered →
              exec (.truckOrderHold c truck) s = .next ((s.taken.modCtx i (fun k => { k with holdFlag := true })).withAck c))
          ∧ ((s.ctx i).holdFlag = false → (s.ctx i).state = .queued ∨ (s.ctx i).state = .offered →
              ∃ t, exec (.truckOrderHold c truck) s = .next t ∧ (t.ctx i).state = .tracked ∧ (t.ctx i).hold = none
                ∧ (t.ctx i).holdFlag = true ∧ t.cQueue.getLast? = some ⟨0x70, c.src, s.cAddress, c.seq, []⟩
                ∧ (s.normalQueue.length < 32 → t.normalQueue[s.normalQueue.length]?
                    = some ⟨0x24, truck, 0, (s.ctx i).req.tag.getD 0, [9]⟩)))
    ∧ (s.takes (.truckOrderUnhold c truck) →
      (s.slotOf truck = none → exec (.truckOrderUnhold c truck) s = .next (s.taken.withNak c 8 0 truck))
      ∧ ∀ i, s.slotOf truck = some i →
          exec (.truckOrderUnhold c truck) s = .next ((s.taken.modCtx i (fun k => { k with holdFlag := false })).withAck c))
    ∧ (s.takes (.truckOrderClearFault c truck) →
      (s.slotOf truck = none → exec (.truckOrderClearFault c truck) s = .next (s.taken.withNak c 8 0 truck))
      ∧ ∀ i, s.slotOf truck = some i →
          exec (.truckOrderClearFault c truck) s = .next ((s.taken.modCtx i (fun k => { k with
            strikes := 0, overdraw := 0
            state := if k.state = .faulted then .tracked else k.state
            dropReason := if k.state = .dropping ∧ k.dropReason = some .fault then some .order else k.dropReason })).withAck c))
    ∧ (s.takes (.truckOrderEvict c truck) →
      (s.slotOf truck = none → exec (.truckOrderEvict c truck) s = .next (s.taken.withNak c 8 0 truck))
      ∧ ∀ i, s.slotOf truck = some i →
          ((s.ctx i).state ≠ .tracked → (s.ctx i).state ≠ .faulted →
            exec (.truckOrderEvict c truck) s = .next (s.taken.withNak c 11 0 truck))
          ∧ ((s.ctx i).state = .tracked ∨ (s.ctx i).state = .faulted → ∃ t, exec (.truckOrderEvict c truck) s = .next t
              ∧ t.ctx i = Context.freed ∧ t.cQueue.getLast? = some ⟨0x70, c.src, s.cAddress, c.seq, []⟩)
          ∧ ((s.ctx i).state = .tracked ∨ (s.ctx i).state = .faulted → s.contextFits i → s.swapSettled →
              exec (.truckOrderEvict c truck) s = .next ((s.taken.setCtx i Context.freed).withAck c)))

/-! ### Position reports -/

/-- A PSN of a truck without a context: off-map with the pantograph lowered it allocates nothing; otherwise it takes the
lowest FREE slot, or that of the longest silent TRACKED truck with its pantograph lowered, in TRACKED with its report stored
and its silence timer started; with neither it is refused with RFS TABLE_FULL. A PSN that leaves the ramp frees its context
except in DRAWING. With no swap pending: in TRACKED a report is stored, restarts the silence timer, and raises each valid section
adjacent to its own that it heads for within that section's wake distance, if it is IDLE or STANDBY with its feeder ONLINE, and
changes no other section and no other context; in FAULTED likewise without the wake. In QUEUED and OFFERED a report in the
section of the entry or offer is stored; another place is refused by its resolution into TRACKED, or takes the entry along
(ordinary on another feeder), or turns the offer into a carry-over entry, and arbitration may make an offer of either. -/
def Obligations.ReportsAllocateAndFree : Prop :=
  ∀ (truck tag : Byte) (chainage : Word) (heading : Heading) (pantograph : Pantograph) (loaded : Bool) (drawn : Word) (s : State),
    s.resetPin = false → s.wSending = none → 1 ≤ truck.toNat → truck.toNat ≤ 127 →
    let run := exec (.psn truck tag chainage heading pantograph loaded drawn) s
    let r := s.resolve chainage.toNat
    let n := chainage.toNat
    let leaving := r = .offMap ∧ pantograph = .lowered
    let pos : Position := { chainage := n, heading := heading, pantograph := pantograph, loaded := loaded
                            drawn := drawn.toNat, resolution := r, approach := s.approachOf heading r n }
    let timer := some (s.globals.silenceTime * 1000)
    let joined := fun (x y : SectionId) => ∃ g, (s.gapEntry g).valid = true
      ∧ ((s.gapEntry g).lower = x ∧ (s.gapEntry g).upper = y ∨ (s.gapEntry g).lower = y ∧ (s.gapEntry g).upper = x)
    let wakes := fun (y : SectionId) => ∃ x, r = .sect x ∧ y ≠ x ∧ (s.entry y).valid = true ∧ 0 < (s.entry y).wake
      ∧ (joined x y ∨ (s.entry x).high + 1 = (s.entry y).low ∨ (s.entry y).high + 1 = (s.entry x).low)
      ∧ (heading = .up ∧ n < (s.entry y).low ∧ (s.entry y).low - n ≤ (s.entry y).wake
        ∨ heading = .down ∧ (s.entry y).high < n ∧ n - (s.entry y).high ≤ (s.entry y).wake)
    let woken := fun (t : State) =>
      let raised := fun (y : SectionId) (origin : RaiseOrigin) (command : SecCommand) (limit : Nat) =>
        t.sec y = { s.sec y with state := .raising, raiseOrigin := some origin, raiseTimer := some limit, idleTimer := none
                                 standbyTimer := none, command := some command }
      (∀ y, wakes y → ∀ f, s.feederOf y = some f → (s.fdr f).state = .online →
        let fast := (s.entry y).fastRaise = true ∧ ∃ m, (s.meter f).latest = some m ∧ (s.fdr f).config.fastVolts ≤ m.voltage
        ((s.sec y).state = .idle → raised y .idle .close (s.globals.idleRaise * 100))
        ∧ ((s.sec y).state = .standby → fast → raised y .standby .closeFast (s.globals.idleRaise * 100))
        ∧ ((s.sec y).state = .standby → ¬fast → raised y .standby .close (s.globals.standbyRaise * 1000)))
      ∧ ∀ y, ¬wakes y ∨ (∀ f, s.feederOf y = some f → (s.fdr f).state ≠ .online) ∨ (s.sec y).state ∉ [.idle, .standby] →
          t.sec y = s.sec y
    (s.slotOf truck = none → leaving → s.swapSettled → ∃ t, run = .next t ∧ t.contexts = s.contexts ∧ t.feeders = s.feeders
      ∧ t.sections = s.sections ∧ t.normalQueue = s.normalQueue)
    ∧ (s.slotOf truck = none → ¬leaving → ∀ i, (s.freeSlot.or s.evictee) = some i → ∃ t, run = .next t
        ∧ (t.ctx i).truck = some truck ∧ (t.ctx i).state = .tracked ∧ (t.ctx i).cls = s.resolveClass truck
        ∧ (t.ctx i).silenceTimer = timer ∧ (t.ctx i).silenceAge = 0 ∧ (t.ctx i).silenceCount = 0 ∧ (t.ctx i).strikes = 0
        ∧ (t.ctx i).hold = none ∧ (t.ctx i).withdraw = none ∧ (s.swap = .none → (t.ctx i).pos = pos))
    ∧ (s.slotOf truck = none → ¬leaving → s.freeSlot = none → s.evictee = none → s.swapSettled → ∃ t, run = .next t
        ∧ t.contexts = s.contexts ∧ t.latches.getLsbD 3 = true
        ∧ (s.normalQueue.length < 32 → t.normalQueue = s.normalQueue ++ [⟨0x24, truck, 0, tag, [1]⟩]))
    ∧ ∀ i, s.slotOf truck = some i →
        let stored := { s.ctx i with pos := pos, silenceAge := 0, silenceCount := 0, silenceTimer := timer }
        let refusal : Option Byte := match r with
          | .gap _ => some 4
          | .offMap => some 3
          | .sect y => if (s.sec y).state = .isolated then some 5
            else if ∃ f, s.feederOf y = some f ∧ ((s.fdr f).state = .online ∨ (s.fdr f).state = .suspect) then none else some 6
        let refused := fun (t : State) (code : Byte) => (t.ctx i).state = .tracked ∧ (t.ctx i).hold = none
          ∧ (s.normalQueue.length < 32 →
              t.normalQueue[s.normalQueue.length]? = some ⟨0x24, truck, 0, (s.ctx i).req.tag.getD 0, [code]⟩)
        let waits := fun (t : State) (f : FeederId) (l : Level) (y : SectionId) (k : Mark) =>
          (t.ctx i).state = .queued ∧ (t.memberOf i).map (fun m => (m.feeder, m.level, m.entry)) = some (f, l, ⟨i, y, k⟩)
          ∨ (t.ctx i).state = .offered ∧ (t.ctx i).hold.map (fun h => (h.feeder, h.sect)) = some (f, y)
        let deferred := fun (t : State) => ∀ m, t.memberOf i = some m → (t.ctx i).state = .queued → t.normalQueue.length < 32 →
          t.normalQueue.getLast? = some ⟨0x21, truck, 0, (s.ctx i).req.tag.getD 0,
            [byte m.feeder.val, byte m.level.code, byte (min 255 m.position)]⟩
        (leaving → (s.ctx i).state ≠ .drawing → ∃ t, run = .next t ∧ t.ctx i = Context.freed)
        ∧ (¬leaving → (s.ctx i).state = .tracked ∨ (s.ctx i).state = .faulted → s.swap = .none → ∃ t, run = .next t
            ∧ t.ctx i = stored ∧ ((s.ctx i).state = .tracked → woken t) ∧ ((s.ctx i).state = .faulted → t.sections = s.sections)
            ∧ (∀ j, j ≠ i → t.ctx j = s.ctx j) ∧ t.feeders = s.feeders ∧ t.loads = s.loads ∧ t.normalQueue = s.normalQueue
            ∧ (s.globals.psaForward = 1 → s.cQueue.length ≤ 28 → t.cQueue = s.cQueue ++ [⟨0x81, 0, s.cAddress, tag,
                [truck] ++ be16 chainage ++ [byte (headingCode heading), byte (pantographCode pantograph), flagByte loaded]
                  ++ be16 drawn ++ r.bytes ++ [byte i.val, byte (s.ctx i).state.code, 0, 0]⟩]))
        ∧ (¬leaving → (s.ctx i).state = .queued → s.swap = .none → s.contextFits i → ∀ m, s.memberOf i = some m →
            (r = .sect m.entry.sect → ∃ t, run = .next t ∧ t.ctx i = stored ∧ t.feeders = s.feeders ∧ t.normalQueue = s.normalQueue)
            ∧ (r ≠ .sect m.entry.sect → ∀ code, refusal = some code → ∃ t, run = .next t ∧ refused t code)
            ∧ (∀ y f, r = .sect y → y ≠ m.entry.sect → refusal = none → s.feederOf y = some f →
                (f = m.feeder → ∃ t, run = .next t ∧ waits t f m.level y m.entry.mark)
                ∧ (f ≠ m.feeder → ∃ t, run = .next t ∧ waits t f m.level y .ordinary ∧ deferred t)))
        ∧ (¬leaving → (s.ctx i).state = .offered → s.swap = .none → s.contextFits i → ∀ h, (s.ctx i).hold = some h →
            (r = .sect h.sect → ∃ t, run = .next t ∧ t.ctx i = stored ∧ t.feeders = s.feeders ∧ t.normalQueue = s.normalQueue)
            ∧ (r ≠ .sect h.sect → ∀ code, refusal = some code → ∃ t, run = .next t ∧ refused t code)
            ∧ (∀ y f, r = .sect y → y ≠ h.sect → refusal = none → s.feederOf y = some f → ∃ t, run = .next t
                ∧ waits t f (s.ctx i).req.level y .carryOver ∧ deferred t))

/-- With no swap pending. A PSN in DRAWING that draws no more than its grant and the margin: in its section, approaching no
gap, the grant stands; off-map it drops with reason OFF_MAP; in another section it moves, reduced to the headroom, where that is on
the grant's feeder, ENERGISED and has the minimum, and else drops with reason REPOSITION; approaching a gap it drops with reason
GAP; in a gap that is not bridgeable it is CROSSING with WDR GAP pending, an arc risk with its strike where it carries current.
One that draws more counts, and the third counts a strike. In DROPPING current sets the WDR again, and where the catenary is
interrupted is one arc risk; zero confirmation ends the drop in its successor. In CROSSING a report in a gap or before it goes on;
into the target it turns the reservation into a grant or the entry into a wait, into the origin it is granted or waits there,
elsewhere it is TRACKED. That an exit ended by the hold flag leaves the request fields is the model's choice (log 25). -/
def Obligations.ReportsMoveGrants : Prop :=
  ∀ (truck tag : Byte) (chainage : Word) (heading : Heading) (pantograph : Pantograph) (loaded : Bool) (drawn : Word) (s : State)
    (i : Slot),
    s.resetPin = false → s.wSending = none → 1 ≤ truck.toNat → truck.toNat ≤ 127 → s.slotOf truck = some i → s.swap = .none →
    let run := exec (.psn truck tag chainage heading pantograph loaded drawn) s
    let c := s.ctx i
    let n := chainage.toNat
    let r := s.resolve n
    let near := s.approachOf heading r n
    let stored := { c with
      pos := { chainage := n, heading := heading, pantograph := pantograph, loaded := loaded, drawn := drawn.toNat
               resolution := r, approach := near }
      silenceAge := 0, silenceCount := 0, silenceTimer := some (s.globals.silenceTime * 1000) }
    let leaving := r = .offMap ∧ pantograph = .lowered
    let carries := s.globals.zeroThreshold < drawn.toNat ∧ pantograph ≠ .lowered
    let strikes := if c.strikes < s.globals.strikeThreshold then c.strikes + 1 else s.globals.strikeThreshold
    let excluded := strikes = s.globals.strikeThreshold ∧ s.globals.exclusion = 1
    let space := fun (x : SectionId) => if (s.entry x).valid then (s.entry x).limit - s.load x else 0
    let refusal : Option Byte := match r with
      | .gap _ => some 4
      | .offMap => some 3
      | .sect y => if (s.sec y).state = .isolated then some 5
        else if ∃ f, s.feederOf y = some f ∧ ((s.fdr f).state = .online ∨ (s.fdr f).state = .suspect) then none else some 6
    let ends := fun (t : State) => (t.ctx i).state = .tracked ∧ (t.ctx i).hold = none ∧ (t.ctx i).gap = GapFields.clear
      ∧ (t.ctx i).withdraw = c.withdraw
    let told := fun (t : State) (code : Byte) => s.normalQueue.length < 32 →
      t.normalQueue[s.normalQueue.length]? = some ⟨0x24, truck, 0, c.req.tag.getD 0, [code]⟩
    let waits := fun (t : State) (f : FeederId) (l : Level) (y : SectionId) (k : Mark) =>
      (t.ctx i).gap = GapFields.clear
      ∧ ((t.ctx i).state = .queued ∧ (t.memberOf i).map (fun m => (m.feeder, m.level, m.entry)) = some (f, l, ⟨i, y, k⟩)
        ∨ (t.ctx i).state = .offered ∧ (t.ctx i).hold.map (fun h => (h.feeder, h.sect)) = some (f, y))
    (c.state = .drawing → ∀ h, c.hold = some h →
      let drops := fun (t : State) (reason : Reason) (deadline : Nat) =>
        (t.ctx i).state = .dropping ∧ (t.ctx i).dropReason = some reason ∧ (t.ctx i).dropDeadline = some (deadline * 100)
        ∧ (t.ctx i).hold = some h ∧ (t.ctx i).grantExpiry = none ∧ (t.ctx i).withdraw = some ⟨reason, false⟩
      (drawn.toNat ≤ h.amount + s.globals.overdrawMargin →
        let moves := fun (x : SectionId) => s.feederOf x = some h.feeder ∧ (s.sec x).state = .energised
          ∧ c.req.minimum ≤ space x ∧ 0 < space x
        (r = .sect h.sect → near = none → ∃ t, run = .next t ∧ t.ctx i = { stored with overdraw := 0 })
        ∧ (r = .offMap → ∃ t, run = .next t ∧ drops t .offMap s.globals.ordinaryDrop)
        ∧ (∀ x, r = .sect x → x ≠ h.sect → ¬moves x → ∃ t, run = .next t ∧ drops t .reposition s.globals.ordinaryDrop)
        ∧ (∀ x, r = .sect x → x ≠ h.sect → moves x → near = none → ∃ t, run = .next t ∧ (t.ctx i).state = .drawing
            ∧ (t.ctx i).hold = some ⟨min h.amount (space x), h.feeder, x⟩ ∧ (t.ctx i).grantExpiry = c.grantExpiry)
        ∧ (∀ g, r = .sect h.sect → near = some g → ∃ t, run = .next t ∧ drops t .gap s.globals.gapDrop
            ∧ (t.ctx i).gap.gapId = some g ∧ (t.ctx i).gap.amount = h.amount ∧ (t.ctx i).gap.carried = c.grantExpiry
            ∧ (t.ctx i).gap.target = some (if heading = .down then (s.gapEntry g).lower else (s.gapEntry g).upper))
        ∧ (∀ g, r = .gap g → (s.gapEntry g).bridgeable = true → ∃ t, run = .next t ∧ t.ctx i = { stored with overdraw := 0 })
        ∧ (∀ g, r = .gap g → (s.gapEntry g).bridgeable = false → ∃ t, run = .next t ∧ (t.ctx i).hold = none
            ∧ (¬carries ∨ ¬excluded → (t.ctx i).state = .crossing ∧ (t.ctx i).withdraw = some ⟨.gap, true⟩
              ∧ (t.ctx i).gap.gapId = some g ∧ (t.ctx i).gap.amount = h.amount
              ∧ (t.ctx i).gap.crossing = some ((s.gapEntry g).crossingLimit * 1000))
            ∧ (¬carries → (t.ctx i).gap.arcReported = false ∧ (t.ctx i).strikes = c.strikes)
            ∧ (carries → t.latches.getLsbD 5 = true ∧ (t.ctx i).strikes = strikes)
            ∧ (carries → ¬excluded → (t.ctx i).gap.arcReported = true)
            ∧ (carries → excluded → (t.ctx i).state = .faulted ∧ (t.ctx i).withdraw = some ⟨.fault, true⟩
              ∧ (t.ctx i).gap = GapFields.clear)))
      ∧ (h.amount + s.globals.overdrawMargin < drawn.toNat → r = .sect h.sect → near = none →
        (c.overdraw < 2 → ∃ t, run = .next t ∧ t.ctx i = { stored with overdraw := c.overdraw + 1 })
        ∧ (2 ≤ c.overdraw → carries → ∃ t, run = .next t ∧ t.latches.getLsbD 21 = true ∧ (t.ctx i).strikes = strikes
            ∧ (t.ctx i).overdraw = 0
            ∧ (excluded → drops t .fault s.globals.ordinaryDrop)
            ∧ (¬excluded → (t.ctx i).state = .drawing ∧ (t.ctx i).hold = some h ∧ (t.ctx i).grantExpiry = c.grantExpiry))))
    ∧ (c.state = .dropping → ¬leaving → ∀ h, c.hold = some h → ∀ reason, c.dropReason = some reason →
        let risky := (∃ g, r = .gap g ∧ (s.gapEntry g).bridgeable = false) ∨ reason = .gap ∧ ∃ x, r = .sect x ∧ c.gap.target = some x
        (carries → c.gap.arcReported = true ∨ ¬risky → ∃ t, run = .next t ∧ t.ctx i = { stored with withdraw := some ⟨reason, false⟩ })
        ∧ (carries → c.gap.arcReported = false → risky → ∃ t, run = .next t ∧ t.latches.getLsbD 5 = true
            ∧ (t.ctx i).strikes = strikes ∧ (t.ctx i).state = .dropping ∧ (t.ctx i).hold = some h
            ∧ (t.ctx i).dropDeadline = c.dropDeadline
            ∧ (¬excluded ∨ reason = .fault → (t.ctx i).dropReason = some reason ∧ (t.ctx i).withdraw = some ⟨reason, false⟩
              ∧ (t.ctx i).gap = { c.gap with arcReported := true })
            ∧ (excluded → (t.ctx i).dropReason = some .fault ∧ (t.ctx i).withdraw = some ⟨.fault, false⟩
              ∧ (reason = .gap → (t.ctx i).gap = GapFields.clear)))
        ∧ (¬carries → reason ∉ [.gap, .shed, .fault] → ∃ t, run = .next t ∧ ends t ∧ (t.ctx i).dropDeadline = none)
        ∧ (¬carries → reason = .fault → ∃ t, run = .next t ∧ (t.ctx i).state = .faulted ∧ (t.ctx i).hold = none
            ∧ (t.ctx i).dropDeadline = none ∧ (t.ctx i).withdraw = c.withdraw)
        ∧ (¬carries → reason = .gap → (∃ g, r = .gap g) → ∃ t, run = .next t ∧ (t.ctx i).state = .crossing ∧ (t.ctx i).hold = none
            ∧ (t.ctx i).dropDeadline = none ∧ (t.ctx i).withdraw = c.withdraw
            ∧ (t.ctx i).gap.gapId = c.gap.gapId ∧ (t.ctx i).gap.target = c.gap.target ∧ (t.ctx i).gap.amount = c.gap.amount
            ∧ (t.ctx i).gap.carried = c.gap.carried
            ∧ ∀ g, c.gap.gapId = some g → (t.ctx i).gap.crossing = some ((s.gapEntry g).crossingLimit * 1000))
        ∧ (¬carries → reason = .shed → s.contextFits i →
            (c.holdFlag = true → ∃ t, run = .next t ∧ ends t)
            ∧ (c.holdFlag = false → ∀ code, refusal = some code → ∃ t, run = .next t ∧ ends t ∧ told t code)
            ∧ (c.holdFlag = false → refusal = none → ∀ y f, r = .sect y → s.feederOf y = some f → ∃ t, run = .next t
                ∧ (t.ctx i).req = { c.req with requested := h.amount } ∧ waits t f c.req.level y .ordinary)))
    ∧ (c.state = .crossing → ¬leaving → s.contextFits i → ∀ g x, c.gap.gapId = some g → c.gap.target = some x →
        let e := s.gapEntry g
        let origin := if x = e.upper then e.lower else e.upper
        let before := if x = e.upper then e.low - e.approach ≤ n ∧ n < e.low ∧ heading ≠ .down
          else e.high < n ∧ n ≤ e.high + e.approach ∧ heading ≠ .up
        let level := c.levelAtGrant.getD c.req.level
        let asked := { c.req with requested := c.gap.amount, minimum := min c.req.minimum c.gap.amount, level := level }
        let expiry := c.gap.carried.or (some (c.cls.maxHold * 1000))
        let granted := fun (t : State) (amount : Nat) (f : FeederId) (y : SectionId) => (t.ctx i).state = .drawing
          ∧ (t.ctx i).hold = some ⟨amount, f, y⟩ ∧ (t.ctx i).grantExpiry = expiry ∧ (t.ctx i).gap = GapFields.clear
          ∧ (t.ctx i).overdraw = 0
        (∀ k, r = .gap k → ¬carries ∨ c.gap.arcReported = true ∨ (s.gapEntry k).bridgeable = true →
          ∃ t, run = .next t ∧ t.ctx i = stored)
        ∧ (∀ k, r = .gap k → carries → c.gap.arcReported = false → (s.gapEntry k).bridgeable = false → ∃ t, run = .next t
            ∧ t.latches.getLsbD 5 = true ∧ (t.ctx i).strikes = strikes
            ∧ (excluded → (t.ctx i).state = .faulted ∧ (t.ctx i).gap = GapFields.clear ∧ (t.ctx i).withdraw = some ⟨.fault, true⟩)
            ∧ (¬excluded → (t.ctx i).state = .crossing ∧ (t.ctx i).gap = { c.gap with arcReported := true }))
        ∧ (r = .sect origin → before → ∃ t, run = .next t ∧ t.ctx i = stored)
        ∧ (r = .sect x → x ≠ origin →
            (∀ f, c.gap.feeder = some f →
              ((s.sec x).state = .energised → ∃ t, run = .next t ∧ granted t c.gap.amount f x
                ∧ (t.ctx i).levelAtGrant = c.levelAtGrant ∧ (t.fdr f).committed = (s.fdr f).committed ∧ t.load x = s.load x)
              ∧ ((s.sec x).state ≠ .energised → c.holdFlag = true → ∃ t, run = .next t ∧ ends t ∧ told t 9 ∧ (t.ctx i).req = c.req)
              ∧ ((s.sec x).state ≠ .energised → c.holdFlag = false → ∃ t, run = .next t ∧ (t.ctx i).req = asked
                ∧ waits t f level x .carryOver))
            ∧ (∀ m, s.memberOf i = some m → c.gap.feeder = none → m.entry.sect = x →
              (c.holdFlag = true → ∃ t, run = .next t ∧ ends t ∧ told t 9)
              ∧ (c.holdFlag = false → ∃ t, run = .next t ∧ (t.ctx i).req = asked ∧ waits t m.feeder m.level x m.entry.mark))
            ∧ (c.gap.feeder = none → s.memberOf i = none →
              (∀ code, refusal = some code → ∃ t, run = .next t ∧ ends t ∧ told t code)
              ∧ (refusal = none → c.holdFlag = true → ∃ t, run = .next t ∧ ends t ∧ told t 9)
              ∧ (refusal = none → c.holdFlag = false → ∀ f, s.feederOf x = some f → ∃ t, run = .next t ∧ (t.ctx i).req = asked
                ∧ waits t f level x .carryOver)))
        ∧ (r = .sect origin → ¬before → x ≠ origin →
            (∀ code, refusal = some code → ∃ t, run = .next t ∧ ends t)
            ∧ (c.gap.feeder = none → s.memberOf i = none → refusal = none → ∀ f, s.feederOf origin = some f →
              let d := s.fdr f
              let amount := min (min c.gap.amount (d.config.capacity - d.config.reserve - d.committed)) (min (space origin) c.cls.cap)
              let direct := d.wait1 = [] ∧ d.wait2 = [] ∧ (s.sec origin).state = .energised ∧ d.state = .online
                ∧ min c.req.minimum c.gap.amount ≤ amount ∧ 0 < amount
              (direct → ∃ t, run = .next t ∧ granted t amount f origin ∧ (t.ctx i).req = asked)
              ∧ (¬direct → c.holdFlag = true → ∃ t, run = .next t ∧ ends t ∧ told t 9)
              ∧ (¬direct → c.holdFlag = false → ∃ t, run = .next t ∧ (t.ctx i).req = asked ∧ waits t f level origin .carryOver))
            ∧ (refusal = none → ∃ t, run = .next t ∧ (t.ctx i).gap = GapFields.clear
              ∧ (t.ctx i).state ∈ [.tracked, .queued, .offered, .drawing]))
        ∧ (r ≠ .sect x → r ≠ .sect origin → (∀ k, r ≠ .gap k) → ∃ t, run = .next t ∧ ends t ∧ (t.ctx i).req = c.req))

/-! ### Draw requests, acceptances and releases -/

/-- A DRQ restarts the silence timer and resolves the class; then it is refused with NO_POSITION without a context, STOPPED
outside RUNNING, DROPPING, IN_GAP or FAULTED by the state, in TRACKED by the first check of R45 that fails, in DRAWING with
HELD and BAD_AMOUNT; with the stored tag DFR, OFR or GRT is repeated. Nothing else changes, but that a frame unfinished before
the DRQ has ended as a runt (log 20) and a pending swap is evaluated last (log 21). -/
def Obligations.DrawRequestsAreChecked : Prop :=
  ∀ (truck tag : Byte) (requested minimum : Word) (hold : Byte) (s : State), s.resetPin = false → s.wSending = none → 1 ≤ truck.toNat → truck.toNat ≤ 127 →
    let run := exec (.drq truck tag requested minimum hold) s
    let q := (s.endRunt .w).modLink .w (fun k => { k with good := min 65535 (k.good + 1) })
    let refusal := fun (code : Byte) => (⟨0x24, truck, 0, tag, [code]⟩ : Frame)
    (s.slotOf truck = none → run = .next (q.sendNormal (refusal 2)))
    ∧ ∀ i, s.slotOf truck = some i →
        let c := s.ctx i
        let k := s.resolveClass truck
        let u := q.modCtx i (fun c => { c with
          silenceTimer := some (s.globals.silenceTime * 1000), silenceAge := 0, silenceCount := 0, cls := k })
        let refused := fun (code : Byte) => run = .next (u.sendNormal (refusal code)).evalSwap
        let bad := requested = 0 ∨ requested.toNat < minimum.toNat ∨ k.cap < minimum.toNat
        (s.admission ≠ .running → refused 11)
        ∧ (s.admission = .running →
            (c.state = .dropping → refused 12) ∧ (c.state = .crossing → refused 4) ∧ (c.state = .faulted → refused 10)
            ∧ (c.state = .queued → c.req.tag = some tag → run = .next (u.sendDfr i tag).evalSwap)
            ∧ (c.state = .offered → c.req.tag = some tag → run = .next (u.sendOfr i tag).evalSwap)
            ∧ (c.state = .drawing → c.req.tag = some tag → run = .next (u.sendGrt i tag).evalSwap)
            ∧ (c.state = .drawing → c.req.tag ≠ some tag → c.hold ≠ none →
                (c.holdFlag = true → refused 9) ∧ (c.holdFlag = false → bad → refused 7))
            ∧ (c.state = .tracked →
                (c.pos.resolution = .offMap → refused 3)
                ∧ (∀ g, c.pos.resolution = .gap g → refused 4)
                ∧ ∀ x, c.pos.resolution = .sect x →
                    let up := ∃ f, s.feederOf x = some f ∧ ((s.fdr f).state = .online ∨ (s.fdr f).state = .suspect)
                    (c.pos.approach ≠ none → refused 4)
                    ∧ (c.pos.approach = none → (s.sec x).state = .isolated → refused 5)
                    ∧ (c.pos.approach = none → (s.sec x).state ≠ .isolated → ¬up → refused 6)
                    ∧ (c.pos.approach = none → (s.sec x).state ≠ .isolated → up → c.holdFlag = true → refused 9)
                    ∧ (c.pos.approach = none → (s.sec x).state ≠ .isolated → up → c.holdFlag = false → bad → refused 7)))

/-- A DRQ in TRACKED that passes its checks, with no swap pending, replaces the request fields with the clipped terms. With
both lists of the feeder empty, the section ENERGISED, the feeder ONLINE and an amount that fits it is granted: DRAWING, the
least of request, headrooms and cap committed to the feeder and the section, the tail of the grant order list, the expiry
started, GRT sent. Otherwise it is QUEUED, or OFFERED by the arbitration that follows. -/
def Obligations.DrawRequestsAreGrantedOrDeferred : Prop :=
  ∀ (truck tag : Byte) (requested minimum : Word) (hold : Byte) (s : State) (i : Slot) (x : SectionId) (f : FeederId),
    s.resetPin = false → s.wSending = none → 1 ≤ truck.toNat → truck.toNat ≤ 127 → s.slotOf truck = some i → s.admission = .running →
    (s.ctx i).state = .tracked → (s.ctx i).holdFlag = false → s.swap = .none →
    (s.ctx i).pos.resolution = .sect x → (s.ctx i).pos.approach = none → (s.sec x).state ≠ .isolated → s.feederOf x = some f →
    (s.fdr f).state = .online ∨ (s.fdr f).state = .suspect →
    let run := exec (.drq truck tag requested minimum hold) s
    let k := s.resolveClass truck
    let wanted := min requested.toNat k.cap
    let least := if minimum = 0 then wanted else minimum.toNat
    let time := if hold = 0 ∨ k.maxHold < hold.toNat then k.maxHold else hold.toNat
    let level := if k.level = .one ∨ (s.globals.promote = 1 ∧ (s.ctx i).pos.loaded = true ∧ (s.ctx i).pos.heading = .up) then
      Level.one else Level.two
    let request : Request := { tag := some tag, requested := wanted, minimum := least, hold := some time, level := level }
    let room := (s.fdr f).config.capacity - (s.fdr f).config.reserve - (s.fdr f).committed
    let space := if (s.entry x).valid then (s.entry x).limit - s.load x else 0
    let amount := min (min wanted room) (min space k.cap)
    let direct := (s.fdr f).wait1 = [] ∧ (s.fdr f).wait2 = [] ∧ (s.sec x).state = .energised ∧ (s.fdr f).state = .online
      ∧ least ≤ amount ∧ 0 < amount
    requested ≠ 0 → minimum.toNat ≤ requested.toNat → least ≤ k.cap →
    (direct → (s.ctx i).hold = none → ∃ t, run = .next t
      ∧ (t.ctx i).state = .drawing ∧ (t.ctx i).hold = some ⟨amount, f, x⟩ ∧ (t.ctx i).req = request
      ∧ (t.ctx i).levelAtGrant = some level ∧ (t.ctx i).grantExpiry = some (time * 1000) ∧ (t.ctx i).overdraw = 0
      ∧ (t.fdr f).committed = (s.fdr f).committed + amount ∧ t.load x = s.load x + amount
      ∧ (t.fdr f).grantOrder = (s.fdr f).grantOrder ++ [i]
      ∧ (∀ g, g ≠ f → t.fdr g = s.fdr g) ∧ (∀ y, y ≠ x → t.load y = s.load y) ∧ (∀ j, j ≠ i → t.ctx j = s.ctx j)
      ∧ (s.normalQueue.length < 32 → t.normalQueue
          = s.normalQueue ++ [⟨0x20, truck, 0, tag, nat16 amount ++ [byte x.val, byte (max 1 time)]⟩]))
    ∧ (¬direct → ∃ t, run = .next t ∧ ((t.ctx i).state = .queued ∨ (t.ctx i).state = .offered) ∧ (t.ctx i).req = request)

/-- A DRQ with a new tag in DRAWING that passes its checks renews the grant: the request fields are replaced, a smaller
request reduces the grant at once, a larger one is applied whole where both headrooms hold it, the feeder is ONLINE and
nobody waits on it, and otherwise the amount stands; the expiry restarts where nobody waits or the class holds through. In
QUEUED and OFFERED a new tag that fails the amount checks ends in TRACKED, and one that passes waits on, or is offered. -/
def Obligations.RenewalsAreSettled : Prop :=
  ∀ (truck tag : Byte) (requested minimum : Word) (hold : Byte) (s : State) (i : Slot),
    s.resetPin = false → s.wSending = none → 1 ≤ truck.toNat → truck.toNat ≤ 127 → s.slotOf truck = some i → s.admission = .running →
    s.swap = .none → (s.ctx i).req.tag ≠ some tag →
    let run := exec (.drq truck tag requested minimum hold) s
    let k := s.resolveClass truck
    let wanted := min requested.toNat k.cap
    let least := if minimum = 0 then wanted else minimum.toNat
    let time := if hold = 0 ∨ k.maxHold < hold.toNat then k.maxHold else hold.toNat
    let good := requested ≠ 0 ∧ minimum.toNat ≤ requested.toNat ∧ least ≤ k.cap
    (good → (s.ctx i).state = .drawing → (s.ctx i).holdFlag = false → ∀ h, (s.ctx i).hold = some h →
      let room := (s.fdr h.feeder).config.capacity - (s.fdr h.feeder).config.reserve - (s.fdr h.feeder).committed
      let space := if (s.entry h.sect).valid then (s.entry h.sect).limit - s.load h.sect else 0
      let alone := (s.fdr h.feeder).wait1 = [] ∧ (s.fdr h.feeder).wait2 = []
      let amount := if wanted ≤ h.amount then wanted
        else if wanted - h.amount ≤ room ∧ wanted - h.amount ≤ space ∧ (s.fdr h.feeder).state = .online ∧ alone then wanted
        else h.amount
      ∃ t, run = .next t ∧ (t.ctx i).state = .drawing ∧ (t.ctx i).hold = some { h with amount := amount }
        ∧ (t.ctx i).req.tag = some tag ∧ (t.ctx i).req.requested = wanted ∧ (t.ctx i).req.minimum = least
        ∧ (t.ctx i).req.hold = some time ∧ (t.ctx i).levelAtGrant = (s.ctx i).levelAtGrant
        ∧ (t.ctx i).grantExpiry = (if alone ∨ k.holdThrough = true then some (time * 1000) else (s.ctx i).grantExpiry))
    ∧ (∀ m, s.memberOf i = some m → (s.ctx i).state = .queued →
        (¬good → ∃ t, run = .next t ∧ (t.ctx i).state = .tracked)
        ∧ (good → ∃ t, run = .next t ∧ ((t.ctx i).state = .queued ∨ (t.ctx i).state = .offered)
            ∧ (t.ctx i).req = { tag := some tag, requested := wanted, minimum := least, hold := some time, level := m.level }))
    ∧ (∀ h, (s.ctx i).hold = some h → (s.ctx i).state = .offered →
        (¬good → ∃ t, run = .next t ∧ (t.ctx i).state = .tracked ∧ (t.ctx i).hold = none)
        ∧ (good → ∃ t, run = .next t ∧ ((t.ctx i).state = .queued ∨ (t.ctx i).state = .offered)
            ∧ (t.ctx i).req.tag = some tag ∧ (t.ctx i).req.requested = wanted ∧ (t.ctx i).req.minimum = least))

/-- ACC with the stored tag in RUNNING turns an offer into a grant of the same amount, feeder and section: DRAWING, the
tail of the grant order list, the expiry started with the hold time, GRT sent; in DRAWING it repeats GRT. Any other ACC is
refused with RFS STALE and changes nothing but the silence timer (and what the evaluation of a pending swap completes, log
21). REL with the stored tag ends a grant normally, one strike removed, and ends a waiting request, an offer and a
crossing, all into TRACKED with nothing held; in DROPPING it ends the drop into the successor of its reason, a shed one
into TRACKED with the hold flag set or where its place is refused, else into a wait on the feeder of its section for the
amount it dropped, or the offer that follows. In TRACKED and FAULTED, with another tag and without a context REL is
refused likewise. The model's choices: a frame unfinished before has ended as a runt (log 20), the fields of an ended
grant return to their FREE values (log 12), an expiry of 0 s is carried as 1 (log 17), a pending swap is evaluated last
(log 21), and a section that the map no longer holds is refused as FEEDER_DOWN (log 22). -/
def Obligations.OffersAreAcceptedAndGrantsReleased : Prop :=
  (∀ (truck tag : Byte) (s : State), s.resetPin = false → s.wSending = none → 1 ≤ truck.toNat → truck.toNat ≤ 127 →
    let run := exec (.acc truck tag) s
    let q := (s.endRunt .w).modLink .w (fun k => { k with good := min 65535 (k.good + 1) })
    let stale : Frame := ⟨0x24, truck, 0, tag, [8]⟩
    (s.slotOf truck = none → run = .next (q.sendNormal stale))
    ∧ ∀ i, s.slotOf truck = some i →
        let c := s.ctx i
        let u := q.modCtx i (fun c => { c with
          silenceTimer := some (s.globals.silenceTime * 1000), silenceAge := 0, silenceCount := 0 })
        (s.admission ≠ .running ∨ c.req.tag ≠ some tag ∨ (c.state ≠ .offered ∧ c.state ≠ .drawing) →
          run = .next (u.sendNormal stale).evalSwap)
        ∧ (s.admission = .running → c.req.tag = some tag → c.state = .drawing → c.hold ≠ none →
            run = .next (u.sendGrt i tag).evalSwap)
        ∧ (s.admission = .running → c.req.tag = some tag → c.state = .offered → ∀ h, c.hold = some h →
            let v := (u.modFdr h.feeder (fun d => { d with grantOrder := d.grantOrder ++ [i] })).modCtx i (fun c => { c with
              state := .drawing, grantExpiry := some (c.req.hold.getD 0 * 1000), offerWindow := none, offerRepeat := none
              repeatCount := 0, levelAtGrant := some c.req.level, dropReason := none, dropDeadline := none, overdraw := 0 })
            run = .next (v.sendNormal ⟨0x20, truck, 0, tag,
              nat16 h.amount ++ [byte h.sect.val, byte (max 1 (c.req.hold.getD 0))]⟩).evalSwap))
  ∧ ∀ (truck tag : Byte) (s : State), s.resetPin = false → s.wSending = none → 1 ≤ truck.toNat → truck.toNat ≤ 127 →
    let run := exec (.rel truck tag) s
    let q := (s.endRunt .w).modLink .w (fun k => { k with good := min 65535 (k.good + 1) })
    let stale : Frame := ⟨0x24, truck, 0, tag, [8]⟩
    (s.slotOf truck = none → run = .next (q.sendNormal stale))
    ∧ ∀ i, s.slotOf truck = some i →
        let c := s.ctx i
        let u := q.modCtx i (fun c => { c with
          silenceTimer := some (s.globals.silenceTime * 1000), silenceAge := 0, silenceCount := 0 })
        (c.req.tag ≠ some tag ∨ c.state = .tracked ∨ c.state = .faulted → run = .next (u.sendNormal stale).evalSwap)
        ∧ (c.req.tag = some tag → c.state ∈ [.drawing, .queued, .offered, .crossing] → ∃ t, run = .next t
            ∧ (t.ctx i).state = .tracked ∧ (t.ctx i).hold = none ∧ (t.ctx i).gap = GapFields.clear
            ∧ (t.ctx i).strikes = (if c.state = .drawing then c.strikes - 1 else c.strikes))
        ∧ (c.req.tag = some tag → c.state = .dropping → c.dropReason ≠ some .shed → ∃ t, run = .next t
            ∧ (t.ctx i).hold = none ∧ (t.ctx i).dropDeadline = none ∧ (t.ctx i).strikes = c.strikes
            ∧ (t.ctx i).state = (if c.dropReason = some .gap then .crossing
                else if c.dropReason = some .fault then .faulted else .tracked))
        ∧ (c.req.tag = some tag → c.state = .dropping → c.dropReason = some .shed → s.swap = .none → s.contextFits i →
            let refusal : Option Byte := match c.pos.resolution with
              | .gap _ => some 4
              | .offMap => some 3
              | .sect y => if (s.sec y).state = .isolated then some 5
                else if ∃ f, s.feederOf y = some f ∧ ((s.fdr f).state = .online ∨ (s.fdr f).state = .suspect) then none else some 6
            (c.holdFlag = true → ∃ t, run = .next t ∧ (t.ctx i).state = .tracked ∧ (t.ctx i).hold = none)
            ∧ (c.holdFlag = false → ∀ code, refusal = some code → ∃ t, run = .next t ∧ (t.ctx i).state = .tracked
                ∧ (t.ctx i).hold = none ∧ (s.normalQueue.length < 32 → t.normalQueue[s.normalQueue.length]?
                    = some ⟨0x24, truck, 0, tag, [code]⟩))
            ∧ (c.holdFlag = false → refusal = none → ∀ y f, c.pos.resolution = .sect y → s.feederOf y = some f → ∃ t, run = .next t
                ∧ (t.ctx i).req = { c.req with requested := (c.hold.map (·.amount)).getD 0 }
                ∧ ((t.ctx i).state = .queued
                    ∧ (t.memberOf i).map (fun m => (m.feeder, m.level, m.entry)) = some (f, c.req.level, ⟨i, y, .ordinary⟩)
                  ∨ (t.ctx i).state = .offered ∧ (t.ctx i).hold.map (fun h => (h.feeder, h.sect)) = some (f, y))))

/-! ### Data -/

/-- A DAT restarts the silence timer of a context that exists and, with DAT forwarding on, is copied to the C-link with its
truck and tag, a 240th byte dropped. PASS_DATA to a truck with a context, or to 255, hands a DAT with the stored tag, 0 for
broadcast or where none is stored, to the normal queue and is answered with ACK, a full queue included; any other truck is
refused. That a frame unfinished before the DAT has ended as a runt is the model's choice (log 20). -/
def Obligations.TruckDataIsPassed : Prop :=
  (∀ (truck tag : Byte) (payload : List Byte) (s : State), s.resetPin = false → s.wSending = none → 1 ≤ truck.toNat → truck.toNat ≤ 127 →
    payload.length ≤ 240 →
    let q := (s.endRunt .w).modLink .w (fun k => { k with good := min 65535 (k.good + 1) })
    let copied := fun (t : State) => if s.globals.datForward = 1
      then t.offerC ⟨0x82, 0, s.cAddress, tag, truck :: payload.take 239⟩ else t
    (s.slotOf truck = none → exec (.dat truck tag payload) s = .next (copied q))
    ∧ ∀ i, s.slotOf truck = some i → exec (.dat truck tag payload) s = .next (copied (q.modCtx i (fun c => { c with
        silenceTimer := some (s.globals.silenceTime * 1000), silenceAge := 0, silenceCount := 0 }))))
  ∧ ∀ (c : Caller) (truck : Byte) (data : List Byte) (s : State), s.takes (.passData c truck data) → data.length ≤ 239 →
      let run := exec (.passData c truck data) s
      let passed := fun (tag : Byte) =>
        run = .next ((s.taken.sendNormal ⟨0x14, truck, 0, tag, data⟩).withAck c)
      (truck = 255 → passed 0)
      ∧ (truck ≠ 255 → (truck = 0 ∨ 128 ≤ truck.toNat ∨ s.slotOf truck = none) → run = .next (s.taken.withNak c 8 0 truck))
      ∧ ∀ i, 1 ≤ truck.toNat → truck.toNat ≤ 127 → s.slotOf truck = some i → passed ((s.ctx i).req.tag.getD 0)

/-! ### Samples -/

/-- A sample becomes its feeder's latest, restarts the 200 ms meter silence timer and counts the sequences skipped; a
RECORDING or POST_TRIP ring stores it at the write position, which advances or wraps to the start, and fill grows to the
length. CLOSED on an ONLINE feeder is compared with the capacity; CLOSED returns a SUSPECT feeder to ONLINE; OPEN or
TRIPPED trips an ONLINE or SUSPECT one: its drawing contexts are TRACKED with WDR TRIP and deadline 0 pending, and a
RECORDING ring begins its post-trip count. An OFFLINE or TRIPPED feeder is not changed. A feeder above 15 is a foreign
frame. That a frame unfinished before the sample has ended as a runt is the model's choice (log 20). -/
def Obligations.SamplesAreTaken : Prop :=
  ∀ (feeder seq : Byte) (current voltage : Word) (breaker : Breaker) (s : State), s.resetPin = false →
    let run := exec (.smp feeder seq current voltage breaker) s
    (15 < feeder.toNat → run = .next ((s.endRunt .m).modLink .m (fun k => { k with foreign := min 65535 (k.foreign + 1) })))
    ∧ ∀ f : FeederId, f.val = feeder.toNat →
        let r := s.ring f
        let d := s.fdr f
        let writes := r.state = .recording ∨ r.state = .postTrip
        let step := writes ∧ r.desc.distance < r.fill
          ∧ (s.ringEntry f r.desc.distance).current + r.desc.threshold < current.toNat
        let up := d.state = .online ∨ d.state = .suspect
        let overload := if d.config.capacity < current.toNat then
            (match d.overload with | some n => some n | none => some (d.config.overloadCode * 100)) else none
        ∃ t, run = .next t
          ∧ t.meter f = { latest := some { seq := seq, current := current.toNat, voltage := voltage.toNat, breaker := breaker }
                          silence := some 200 }
          ∧ (∀ g, g ≠ f → t.meter g = s.meter g ∧ t.ring g = s.ring g)
          ∧ (∀ m, (s.meter f).latest = some m →
              t.counters.missed[f] = min 65535 (s.counters.missed[f] + (seq - m.seq - 1).toNat))
          ∧ ((s.meter f).latest = none → t.counters.missed[f] = s.counters.missed[f])
          ∧ t.samples = (if writes then s.samples.store r.writePos ⟨current.toNat, voltage.toNat, seq⟩ else s.samples)
          ∧ (t.ring f).desc = r.desc
          ∧ (t.ring f).writePos = (if writes then
              (if r.writePos + 1 = r.desc.start + r.desc.length then r.desc.start else r.writePos + 1) else r.writePos)
          ∧ (t.ring f).fill = (if writes ∧ r.fill < r.desc.length then r.fill + 1 else r.fill)
          ∧ (step → t.latches.getLsbD 14 = true)
          ∧ (r.state = .recording → step → r.desc.freeze = true → (t.ring f).state = .frozen)
          ∧ (r.state = .postTrip → ∀ n, r.countdown = some n →
              (2 ≤ n → (t.ring f).state = .postTrip ∧ (t.ring f).countdown = some (n - 1))
              ∧ (n ≤ 1 → (t.ring f).state = .frozen ∧ (t.ring f).countdown = none ∧ t.latches.getLsbD 16 = true))
          ∧ (¬up → t.feeders = s.feeders ∧ t.contexts = s.contexts)
          ∧ (d.state = .online → breaker = .closed → t.fdr f = { d with overload := overload } ∧ t.contexts = s.contexts)
          ∧ (d.state = .suspect → breaker = .closed →
              (t.fdr f).state = .online ∧ (t.fdr f).meterLost = none ∧ (t.fdr f).overload = overload)
          ∧ (up → breaker ≠ .closed → (t.fdr f).state = .tripped ∧ (t.fdr f).overload = none ∧ (t.fdr f).meterLost = none
              ∧ t.latches.getLsbD 13 = true
              ∧ (∀ i, (s.ctx i).state = .drawing → s.holdsOn i f = true →
                  (t.ctx i).state = .tracked ∧ (t.ctx i).hold = none ∧ (t.ctx i).withdraw = some ⟨.trip, true⟩)
              ∧ (r.state = .recording → ¬(step ∧ r.desc.freeze = true) →
                  (0 < r.desc.postTrip → (t.ring f).state = .postTrip ∧ (t.ring f).countdown = some r.desc.postTrip)
                  ∧ (r.desc.postTrip = 0 → (t.ring f).state = .frozen)))

/-! ### Timers of a context -/

/-- The grant expiry of a DRAWING context drops it with reason EXPIRED; the offer window of an OFFERED one ends the offer
in TRACKED, with OFFER_LAPSED and its count; the offer repeat timer sends OFR again while repeats remain and otherwise
stops, and where the window has run out it does what the window's expiry does; the carried hold stops. A stopped timer
does not expire. The model's choices: the four commands act whatever time is left on their timers (log 3), the repeat
limit is the one in force at the expiry (log 31), and the repeat count holds at 15 (log 17). -/
def Obligations.GrantAndOfferTimersRunOut : Prop :=
  ∀ (i : Slot) (s : State), s.resetPin = false →
    let c := s.ctx i
    (c.grantExpiry = none → exec (.grantExpiry i) s = .next s)
    ∧ (c.grantExpiry ≠ none → c.state = .drawing → exec (.grantExpiry i) s = .next (s.modCtx i (fun k => { k with
        state := .dropping, dropReason := some .expired, dropDeadline := some (s.globals.ordinaryDrop * 100)
        grantExpiry := none, overdraw := 0, withdraw := some ⟨.expired, false⟩ })))
    ∧ (c.offerWindow = none → exec (.offerWindowExpiry i) s = .next s)
    ∧ (c.offerWindow ≠ none → c.state = .offered → ∃ t, exec (.offerWindowExpiry i) s = .next t
        ∧ (t.ctx i).state = .tracked ∧ (t.ctx i).hold = none ∧ (t.ctx i).offerWindow = none ∧ (t.ctx i).offerRepeat = none
        ∧ (t.ctx i).withdraw = c.withdraw ∧ t.latches.getLsbD 8 = true
        ∧ t.counters.lapsed = min 65535 (s.counters.lapsed + 1))
    ∧ (c.offerRepeat = none → exec (.offerRepeatExpiry i) s = .next s)
    ∧ (c.offerRepeat ≠ none → c.state = .offered → c.offerWindow = some 0 →
        exec (.offerRepeatExpiry i) s = exec (.offerWindowExpiry i) s)
    ∧ (c.offerRepeat ≠ none → c.state = .offered → c.offerWindow ≠ some 0 → (s.globals.repeatLimit = 0 ∨ c.repeatCount < s.globals.repeatLimit) →
        exec (.offerRepeatExpiry i) s = .next ((s.modCtx i (fun k => { k with
          repeatCount := min 15 (k.repeatCount + 1), offerRepeat := some (s.globals.offerRepeat * 250) })).sendOfr i (c.req.tag.getD 0)))
    ∧ (c.offerRepeat ≠ none → c.state ≠ .offered ∨ c.offerWindow ≠ some 0 → s.globals.repeatLimit ≠ 0 → s.globals.repeatLimit ≤ c.repeatCount →
        exec (.offerRepeatExpiry i) s = .next (s.modCtx i (fun k => { k with offerRepeat := none })))
    ∧ (c.gap.carried = none → exec (.carriedHoldExpiry i) s = .next s)
    ∧ (c.gap.carried ≠ none → ∃ t, exec (.carriedHoldExpiry i) s = .next t
        ∧ t.ctx i = { c with gap := { c.gap with carried := none } } ∧ (∀ j, j ≠ i → t.ctx j = s.ctx j)
        ∧ (∀ f, t.fdr f = s.fdr f) ∧ (∀ x, t.load x = s.load x) ∧ ∀ x, t.sec x = s.sec x)

/-- The drop deadline ends a drop late: DROP_LATE, the grant released, one strike counted, the successor of the reason, or
FAULTED where the strike reaches the threshold with exclusion enabled, with no withdrawal written, a late gap drop too. The crossing timer stalls a crossing into TRACKED
with GAP_STALL. The silence timer counts, restarts, and takes a DRAWING context's grant with WDR SILENT and deadline 0 pending
and a strike, a QUEUED one's entry and an OFFERED one's offer; it leaves DROPPING and CROSSING alone and frees a TRACKED or
FAULTED context at its second expiry. A stopped timer does not expire; a running one does whatever time is left on it, which is
the model's choice (log 3). -/
def Obligations.DropCrossingAndSilenceTimersRunOut : Prop :=
  (∀ (i : Slot) (s : State), s.resetPin = false →
    let c := s.ctx i
    let strikes := if c.strikes < s.globals.strikeThreshold then c.strikes + 1 else s.globals.strikeThreshold
    (c.dropDeadline = none → exec (.dropDeadlineExpiry i) s = .next s)
    ∧ (c.dropDeadline ≠ none → c.state = .dropping → ∃ t, exec (.dropDeadlineExpiry i) s = .next t
        ∧ t.latches.getLsbD 6 = true ∧ (t.ctx i).strikes = strikes ∧ (t.ctx i).dropDeadline = none
        ∧ (t.ctx i).withdraw = c.withdraw
        ∧ (c.dropReason ≠ some .shed → (t.ctx i).hold = none)
        ∧ (strikes = s.globals.strikeThreshold → s.globals.exclusion = 1 →
            (t.ctx i).state = .faulted ∧ (t.ctx i).hold = none ∧ (t.ctx i).gap = GapFields.clear)
        ∧ (strikes ≠ s.globals.strikeThreshold ∨ s.globals.exclusion ≠ 1 → c.dropReason ≠ some .shed →
            (t.ctx i).state = (if c.dropReason = some .gap then .crossing
              else if c.dropReason = some .fault then .faulted else .tracked)))
    ∧ (c.gap.crossing = none → exec (.crossingTimerExpiry i) s = .next s)
    ∧ (c.gap.crossing ≠ none → c.state = .crossing → ∃ t, exec (.crossingTimerExpiry i) s = .next t
        ∧ (t.ctx i).state = .tracked ∧ (t.ctx i).hold = none ∧ (t.ctx i).gap = GapFields.clear
        ∧ (t.ctx i).withdraw = c.withdraw ∧ t.latches.getLsbD 7 = true))
  ∧ ∀ (i : Slot) (s : State), s.resetPin = false →
    let c := s.ctx i
    let counted := { c with silenceCount := min 2 (c.silenceCount + 1), silenceTimer := some (s.globals.silenceTime * 1000) }
    let strikes := if c.strikes < s.globals.strikeThreshold then c.strikes + 1 else s.globals.strikeThreshold
    (c.silenceTimer = none → exec (.silenceExpiry i) s = .next s)
    ∧ (c.silenceTimer ≠ none →
        (c.state = .drawing → ∃ t, exec (.silenceExpiry i) s = .next t ∧ (t.ctx i).hold = none ∧ (t.ctx i).strikes = strikes
          ∧ (t.ctx i).withdraw = some ⟨.silent, true⟩ ∧ (t.ctx i).silenceCount = counted.silenceCount
          ∧ (t.ctx i).state = (if strikes = s.globals.strikeThreshold ∧ s.globals.exclusion = 1 then .faulted else .tracked))
        ∧ (c.state = .queued ∨ c.state = .offered → ∃ t, exec (.silenceExpiry i) s = .next t ∧ (t.ctx i).state = .tracked
          ∧ (t.ctx i).hold = none ∧ (t.ctx i).withdraw = c.withdraw ∧ (t.ctx i).silenceCount = counted.silenceCount)
        ∧ (c.state = .dropping ∨ c.state = .crossing → s.swapSettled → exec (.silenceExpiry i) s = .next (s.setCtx i counted))
        ∧ (c.state = .tracked ∨ c.state = .faulted →
            (1 ≤ c.silenceCount → ∃ t, exec (.silenceExpiry i) s = .next t ∧ t.ctx i = Context.freed)
            ∧ (c.silenceCount = 0 → s.swapSettled → exec (.silenceExpiry i) s = .next (s.setCtx i counted))))

/-! ### The transmitters -/

/-- While it is free (no frame is being sent and its receive assembler is in HUNT) the W-link transmitter starts, at the rate
then in the GLOBAL table, the broadcast withdrawal, else the WDR of the lowest slot, else the SCM of the lowest section, else
the oldest frame of the normal queue, and clears its source; GRT, WDR and RFS are mirrored where MIRROR is on. The C-link
transmitter starts its oldest frame while it is free. A rate takes effect between frames. A frame being sent goes on (log 8). -/
def Obligations.FramesAreSentInOrder : Prop :=
  ∀ s : State, s.resetPin = false →
    let time := fun (f : Frame) => 100 * (10 + f.payload.length)
    let sent := fun (t : State) (f : Frame) =>
      let u : State := { t with wRate := s.globals.wRate, wSending := some ⟨f, time f⟩ }
      if s.globals.mirror = 1 ∧ f.kind ∈ [0x20, 0x23, 0x24]
        then u.offerC ⟨0x83, 0, s.cAddress, f.tag, [f.dest, f.kind] ++ f.payload⟩ else u
    let free := s.wSending = none ∧ s.asmW.phase = .hunt
    let noWdr := ∀ i, (s.ctx i).withdraw = none
    let noScm := ∀ x, (s.sec x).command = none
    (free → s.broadcast = true → exec .broadcastWithdrawal s
      = .next (sent { s with broadcast := false } ⟨0x23, 255, 0, 0, [14, 0]⟩))
    ∧ (¬free ∨ s.broadcast = false → exec .broadcastWithdrawal s = .next s)
    ∧ (free → s.broadcast = false → ∀ i w, (s.ctx i).withdraw = some w → (∀ j, j < i → (s.ctx j).withdraw = none) →
        exec .wdrTransmit s = .next (sent (s.modCtx i (fun c => { c with withdraw := none }))
          ⟨0x23, (s.ctx i).truck.getD 0, 0, (s.ctx i).req.tag.getD 0,
            [byte w.reason.code, byte (if w.immediate then 0 else ((s.ctx i).dropDeadline.getD 0 + 99) / 100)]⟩))
    ∧ (¬free ∨ s.broadcast = true ∨ noWdr → exec .wdrTransmit s = .next s)
    ∧ (free → s.broadcast = false → noWdr → ∀ x k, (s.sec x).command = some k → (∀ y, y < x → (s.sec y).command = none) →
        exec .scmTransmit s = .next (sent (s.modSec x (fun r => { r with command := none }))
          ⟨0x30, byte (128 + x.val), 0, 0, [byte x.val, byte k.code]⟩))
    ∧ (¬free ∨ s.broadcast = true ∨ ¬noWdr ∨ noScm → exec .scmTransmit s = .next s)
    ∧ (free → s.broadcast = false → noWdr → noScm → ∀ f fs, s.normalQueue = f :: fs →
        exec .normalQueueTransmit s = .next (sent { s with normalQueue := fs } f))
    ∧ (¬free ∨ s.broadcast = true ∨ ¬noWdr ∨ ¬noScm ∨ s.normalQueue = [] → exec .normalQueueTransmit s = .next s)
    ∧ (s.cSending = none → s.asmC.phase = .hunt → ∀ f fs, s.cQueue = f :: fs → ∃ t, exec .cLinkTransmit s = .next t
        ∧ t.cQueue = fs ∧ t.cSending = some ⟨f, time f⟩
        ∧ t = { s with cQueue := fs, cSending := t.cSending, cRate := t.cRate, cRatePending := t.cRatePending })
    ∧ (s.cSending ≠ none ∨ s.asmC.phase ≠ .hunt ∨ s.cQueue = [] → exec .cLinkTransmit s = .next s)
    ∧ (free → exec .wLinkRateChange s = .next { s with wRate := s.globals.wRate })
    ∧ (¬free → exec .wLinkRateChange s = .next s)
    ∧ (s.cSending = none → ∀ v, s.cRatePending = [(0, v)] →
        exec .cLinkRateChange s = .next { s with cRate := v, cRatePending := [] })
    ∧ (s.cSending ≠ none ∨ (∀ v ps, s.cRatePending ≠ (0, v) :: ps) → exec .cLinkRateChange s = .next s)

/-! ### What stands -/

/-- No command but a hard reset and the writes of the tables changes a bank, the class and GLOBAL tables, a feeder's
configuration or a ring's descriptor; and none but a sample, or bytes that complete one, changes the sample memory. -/
def Obligations.TablesAndSamplesStand : Prop :=
  ∀ (c : Instr) (s t : State), exec c s = .next t →
    ((∀ straps, c ≠ .hardReset straps) → (∀ k b n e, c ≠ .tableWriteSection k b n e) → (∀ k b n e, c ≠ .tableWriteGap k b n e) →
      (∀ k b n e, c ≠ .tableWriteFeeder k b n e) → (∀ k b n e, c ≠ .tableWriteClass k b n e) →
      (∀ k b n e, c ≠ .tableWriteRing k b n e) → (∀ k b n v, c ≠ .tableWriteGlobal k b n v) →
        t.bankA = s.bankA ∧ t.bankB = s.bankB ∧ t.classes = s.classes ∧ t.globals = s.globals
        ∧ (∀ f, (t.fdr f).config = (s.fdr f).config) ∧ ∀ f, (t.ring f).desc = (s.ring f).desc)
    ∧ ((∀ f n a v b, c ≠ .smp f n a v b) → (∀ f, c ≠ .foreignFrame .m f) → (∀ bs, c ≠ .checkError .m bs) → c ≠ .marker .m →
        t.samples = s.samples)
end

