-- ==== Sys2Proof/Laws/State.lean ====
section
/-! SUPPORT. What each update leaves unchanged, field by field, and what each record reads after an update. -/

namespace Sys2Proof.Machine
open Sys2Proof

/-! ### setCtx -/

@[simp] theorem State.setCtx_resetPin (s : State) (i : Slot) (c : Context) : (s.setCtx i c).resetPin = s.resetPin := rfl
@[simp] theorem State.setCtx_stopLine (s : State) (i : Slot) (c : Context) : (s.setCtx i c).stopLine = s.stopLine := rfl
@[simp] theorem State.setCtx_alert (s : State) (i : Slot) (c : Context) : (s.setCtx i c).alert = s.alert := rfl
@[simp] theorem State.setCtx_cAddress (s : State) (i : Slot) (c : Context) : (s.setCtx i c).cAddress = s.cAddress := rfl
@[simp] theorem State.setCtx_asmW (s : State) (i : Slot) (c : Context) : (s.setCtx i c).asmW = s.asmW := rfl
@[simp] theorem State.setCtx_asmC (s : State) (i : Slot) (c : Context) : (s.setCtx i c).asmC = s.asmC := rfl
@[simp] theorem State.setCtx_asmM (s : State) (i : Slot) (c : Context) : (s.setCtx i c).asmM = s.asmM := rfl
@[simp] theorem State.setCtx_wSending (s : State) (i : Slot) (c : Context) : (s.setCtx i c).wSending = s.wSending := rfl
@[simp] theorem State.setCtx_cSending (s : State) (i : Slot) (c : Context) : (s.setCtx i c).cSending = s.cSending := rfl
@[simp] theorem State.setCtx_wRate (s : State) (i : Slot) (c : Context) : (s.setCtx i c).wRate = s.wRate := rfl
@[simp] theorem State.setCtx_cRate (s : State) (i : Slot) (c : Context) : (s.setCtx i c).cRate = s.cRate := rfl
@[simp] theorem State.setCtx_cRatePending (s : State) (i : Slot) (c : Context) : (s.setCtx i c).cRatePending = s.cRatePending := rfl
@[simp] theorem State.setCtx_broadcast (s : State) (i : Slot) (c : Context) : (s.setCtx i c).broadcast = s.broadcast := rfl
@[simp] theorem State.setCtx_normalQueue (s : State) (i : Slot) (c : Context) : (s.setCtx i c).normalQueue = s.normalQueue := rfl
@[simp] theorem State.setCtx_requestBuffer (s : State) (i : Slot) (c : Context) : (s.setCtx i c).requestBuffer = s.requestBuffer := rfl
@[simp] theorem State.setCtx_cQueue (s : State) (i : Slot) (c : Context) : (s.setCtx i c).cQueue = s.cQueue := rfl
@[simp] theorem State.setCtx_globals (s : State) (i : Slot) (c : Context) : (s.setCtx i c).globals = s.globals := rfl
@[simp] theorem State.setCtx_latches (s : State) (i : Slot) (c : Context) : (s.setCtx i c).latches = s.latches := rfl
@[simp] theorem State.setCtx_eventSeq (s : State) (i : Slot) (c : Context) : (s.setCtx i c).eventSeq = s.eventSeq := rfl
@[simp] theorem State.setCtx_counters (s : State) (i : Slot) (c : Context) : (s.setCtx i c).counters = s.counters := rfl
@[simp] theorem State.setCtx_bankA (s : State) (i : Slot) (c : Context) : (s.setCtx i c).bankA = s.bankA := rfl
@[simp] theorem State.setCtx_bankB (s : State) (i : Slot) (c : Context) : (s.setCtx i c).bankB = s.bankB := rfl
@[simp] theorem State.setCtx_active (s : State) (i : Slot) (c : Context) : (s.setCtx i c).active = s.active := rfl
@[simp] theorem State.setCtx_swap (s : State) (i : Slot) (c : Context) : (s.setCtx i c).swap = s.swap := rfl
@[simp] theorem State.setCtx_swapTimer (s : State) (i : Slot) (c : Context) : (s.setCtx i c).swapTimer = s.swapTimer := rfl
@[simp] theorem State.setCtx_classes (s : State) (i : Slot) (c : Context) : (s.setCtx i c).classes = s.classes := rfl
@[simp] theorem State.setCtx_feeders (s : State) (i : Slot) (c : Context) : (s.setCtx i c).feeders = s.feeders := rfl
@[simp] theorem State.setCtx_loads (s : State) (i : Slot) (c : Context) : (s.setCtx i c).loads = s.loads := rfl
@[simp] theorem State.setCtx_sections (s : State) (i : Slot) (c : Context) : (s.setCtx i c).sections = s.sections := rfl
@[simp] theorem State.setCtx_admission (s : State) (i : Slot) (c : Context) : (s.setCtx i c).admission = s.admission := rfl
@[simp] theorem State.setCtx_meters (s : State) (i : Slot) (c : Context) : (s.setCtx i c).meters = s.meters := rfl
@[simp] theorem State.setCtx_rings (s : State) (i : Slot) (c : Context) : (s.setCtx i c).rings = s.rings := rfl
@[simp] theorem State.setCtx_samples (s : State) (i : Slot) (c : Context) : (s.setCtx i c).samples = s.samples := rfl
@[simp] theorem State.setCtx_fresh (s : State) (i : Slot) (c : Context) : (s.setCtx i c).fresh = s.fresh := rfl
@[simp] theorem State.setCtx_pending (s : State) (i : Slot) (c : Context) : (s.setCtx i c).pending = s.pending := rfl

/-! ### modCtx -/

@[simp] theorem State.modCtx_resetPin (s : State) (i : Slot) (g : Context → Context) : (s.modCtx i g).resetPin = s.resetPin := rfl
@[simp] theorem State.modCtx_stopLine (s : State) (i : Slot) (g : Context → Context) : (s.modCtx i g).stopLine = s.stopLine := rfl
@[simp] theorem State.modCtx_alert (s : State) (i : Slot) (g : Context → Context) : (s.modCtx i g).alert = s.alert := rfl
@[simp] theorem State.modCtx_cAddress (s : State) (i : Slot) (g : Context → Context) : (s.modCtx i g).cAddress = s.cAddress := rfl
@[simp] theorem State.modCtx_asmW (s : State) (i : Slot) (g : Context → Context) : (s.modCtx i g).asmW = s.asmW := rfl
@[simp] theorem State.modCtx_asmC (s : State) (i : Slot) (g : Context → Context) : (s.modCtx i g).asmC = s.asmC := rfl
@[simp] theorem State.modCtx_asmM (s : State) (i : Slot) (g : Context → Context) : (s.modCtx i g).asmM = s.asmM := rfl
@[simp] theorem State.modCtx_wSending (s : State) (i : Slot) (g : Context → Context) : (s.modCtx i g).wSending = s.wSending := rfl
@[simp] theorem State.modCtx_cSending (s : State) (i : Slot) (g : Context → Context) : (s.modCtx i g).cSending = s.cSending := rfl
@[simp] theorem State.modCtx_wRate (s : State) (i : Slot) (g : Context → Context) : (s.modCtx i g).wRate = s.wRate := rfl
@[simp] theorem State.modCtx_cRate (s : State) (i : Slot) (g : Context → Context) : (s.modCtx i g).cRate = s.cRate := rfl
@[simp] theorem State.modCtx_cRatePending (s : State) (i : Slot) (g : Context → Context) : (s.modCtx i g).cRatePending = s.cRatePending := rfl
@[simp] theorem State.modCtx_broadcast (s : State) (i : Slot) (g : Context → Context) : (s.modCtx i g).broadcast = s.broadcast := rfl
@[simp] theorem State.modCtx_normalQueue (s : State) (i : Slot) (g : Context → Context) : (s.modCtx i g).normalQueue = s.normalQueue := rfl
@[simp] theorem State.modCtx_requestBuffer (s : State) (i : Slot) (g : Context → Context) : (s.modCtx i g).requestBuffer = s.requestBuffer := rfl
@[simp] theorem State.modCtx_cQueue (s : State) (i : Slot) (g : Context → Context) : (s.modCtx i g).cQueue = s.cQueue := rfl
@[simp] theorem State.modCtx_globals (s : State) (i : Slot) (g : Context → Context) : (s.modCtx i g).globals = s.globals := rfl
@[simp] theorem State.modCtx_latches (s : State) (i : Slot) (g : Context → Context) : (s.modCtx i g).latches = s.latches := rfl
@[simp] theorem State.modCtx_eventSeq (s : State) (i : Slot) (g : Context → Context) : (s.modCtx i g).eventSeq = s.eventSeq := rfl
@[simp] theorem State.modCtx_counters (s : State) (i : Slot) (g : Context → Context) : (s.modCtx i g).counters = s.counters := rfl
@[simp] theorem State.modCtx_bankA (s : State) (i : Slot) (g : Context → Context) : (s.modCtx i g).bankA = s.bankA := rfl
@[simp] theorem State.modCtx_bankB (s : State) (i : Slot) (g : Context → Context) : (s.modCtx i g).bankB = s.bankB := rfl
@[simp] theorem State.modCtx_active (s : State) (i : Slot) (g : Context → Context) : (s.modCtx i g).active = s.active := rfl
@[simp] theorem State.modCtx_swap (s : State) (i : Slot) (g : Context → Context) : (s.modCtx i g).swap = s.swap := rfl
@[simp] theorem State.modCtx_swapTimer (s : State) (i : Slot) (g : Context → Context) : (s.modCtx i g).swapTimer = s.swapTimer := rfl
@[simp] theorem State.modCtx_classes (s : State) (i : Slot) (g : Context → Context) : (s.modCtx i g).classes = s.classes := rfl
@[simp] theorem State.modCtx_feeders (s : State) (i : Slot) (g : Context → Context) : (s.modCtx i g).feeders = s.feeders := rfl
@[simp] theorem State.modCtx_loads (s : State) (i : Slot) (g : Context → Context) : (s.modCtx i g).loads = s.loads := rfl
@[simp] theorem State.modCtx_sections (s : State) (i : Slot) (g : Context → Context) : (s.modCtx i g).sections = s.sections := rfl
@[simp] theorem State.modCtx_admission (s : State) (i : Slot) (g : Context → Context) : (s.modCtx i g).admission = s.admission := rfl
@[simp] theorem State.modCtx_meters (s : State) (i : Slot) (g : Context → Context) : (s.modCtx i g).meters = s.meters := rfl
@[simp] theorem State.modCtx_rings (s : State) (i : Slot) (g : Context → Context) : (s.modCtx i g).rings = s.rings := rfl
@[simp] theorem State.modCtx_samples (s : State) (i : Slot) (g : Context → Context) : (s.modCtx i g).samples = s.samples := rfl
@[simp] theorem State.modCtx_fresh (s : State) (i : Slot) (g : Context → Context) : (s.modCtx i g).fresh = s.fresh := rfl
@[simp] theorem State.modCtx_pending (s : State) (i : Slot) (g : Context → Context) : (s.modCtx i g).pending = s.pending := rfl

/-! ### modFdr -/

@[simp] theorem State.modFdr_resetPin (s : State) (f : FeederId) (g : Feeder → Feeder) : (s.modFdr f g).resetPin = s.resetPin := rfl
@[simp] theorem State.modFdr_stopLine (s : State) (f : FeederId) (g : Feeder → Feeder) : (s.modFdr f g).stopLine = s.stopLine := rfl
@[simp] theorem State.modFdr_alert (s : State) (f : FeederId) (g : Feeder → Feeder) : (s.modFdr f g).alert = s.alert := rfl
@[simp] theorem State.modFdr_cAddress (s : State) (f : FeederId) (g : Feeder → Feeder) : (s.modFdr f g).cAddress = s.cAddress := rfl
@[simp] theorem State.modFdr_asmW (s : State) (f : FeederId) (g : Feeder → Feeder) : (s.modFdr f g).asmW = s.asmW := rfl
@[simp] theorem State.modFdr_asmC (s : State) (f : FeederId) (g : Feeder → Feeder) : (s.modFdr f g).asmC = s.asmC := rfl
@[simp] theorem State.modFdr_asmM (s : State) (f : FeederId) (g : Feeder → Feeder) : (s.modFdr f g).asmM = s.asmM := rfl
@[simp] theorem State.modFdr_wSending (s : State) (f : FeederId) (g : Feeder → Feeder) : (s.modFdr f g).wSending = s.wSending := rfl
@[simp] theorem State.modFdr_cSending (s : State) (f : FeederId) (g : Feeder → Feeder) : (s.modFdr f g).cSending = s.cSending := rfl
@[simp] theorem State.modFdr_wRate (s : State) (f : FeederId) (g : Feeder → Feeder) : (s.modFdr f g).wRate = s.wRate := rfl
@[simp] theorem State.modFdr_cRate (s : State) (f : FeederId) (g : Feeder → Feeder) : (s.modFdr f g).cRate = s.cRate := rfl
@[simp] theorem State.modFdr_cRatePending (s : State) (f : FeederId) (g : Feeder → Feeder) : (s.modFdr f g).cRatePending = s.cRatePending := rfl
@[simp] theorem State.modFdr_broadcast (s : State) (f : FeederId) (g : Feeder → Feeder) : (s.modFdr f g).broadcast = s.broadcast := rfl
@[simp] theorem State.modFdr_normalQueue (s : State) (f : FeederId) (g : Feeder → Feeder) : (s.modFdr f g).normalQueue = s.normalQueue := rfl
@[simp] theorem State.modFdr_requestBuffer (s : State) (f : FeederId) (g : Feeder → Feeder) : (s.modFdr f g).requestBuffer = s.requestBuffer := rfl
@[simp] theorem State.modFdr_cQueue (s : State) (f : FeederId) (g : Feeder → Feeder) : (s.modFdr f g).cQueue = s.cQueue := rfl
@[simp] theorem State.modFdr_globals (s : State) (f : FeederId) (g : Feeder → Feeder) : (s.modFdr f g).globals = s.globals := rfl
@[simp] theorem State.modFdr_latches (s : State) (f : FeederId) (g : Feeder → Feeder) : (s.modFdr f g).latches = s.latches := rfl
@[simp] theorem State.modFdr_eventSeq (s : State) (f : FeederId) (g : Feeder → Feeder) : (s.modFdr f g).eventSeq = s.eventSeq := rfl
@[simp] theorem State.modFdr_counters (s : State) (f : FeederId) (g : Feeder → Feeder) : (s.modFdr f g).counters = s.counters := rfl
@[simp] theorem State.modFdr_bankA (s : State) (f : FeederId) (g : Feeder → Feeder) : (s.modFdr f g).bankA = s.bankA := rfl
@[simp] theorem State.modFdr_bankB (s : State) (f : FeederId) (g : Feeder → Feeder) : (s.modFdr f g).bankB = s.bankB := rfl
@[simp] theorem State.modFdr_active (s : State) (f : FeederId) (g : Feeder → Feeder) : (s.modFdr f g).active = s.active := rfl
@[simp] theorem State.modFdr_swap (s : State) (f : FeederId) (g : Feeder → Feeder) : (s.modFdr f g).swap = s.swap := rfl
@[simp] theorem State.modFdr_swapTimer (s : State) (f : FeederId) (g : Feeder → Feeder) : (s.modFdr f g).swapTimer = s.swapTimer := rfl
@[simp] theorem State.modFdr_contexts (s : State) (f : FeederId) (g : Feeder → Feeder) : (s.modFdr f g).contexts = s.contexts := rfl
@[simp] theorem State.modFdr_classes (s : State) (f : FeederId) (g : Feeder → Feeder) : (s.modFdr f g).classes = s.classes := rfl
@[simp] theorem State.modFdr_loads (s : State) (f : FeederId) (g : Feeder → Feeder) : (s.modFdr f g).loads = s.loads := rfl
@[simp] theorem State.modFdr_sections (s : State) (f : FeederId) (g : Feeder → Feeder) : (s.modFdr f g).sections = s.sections := rfl
@[simp] theorem State.modFdr_admission (s : State) (f : FeederId) (g : Feeder → Feeder) : (s.modFdr f g).admission = s.admission := rfl
@[simp] theorem State.modFdr_meters (s : State) (f : FeederId) (g : Feeder → Feeder) : (s.modFdr f g).meters = s.meters := rfl
@[simp] theorem State.modFdr_rings (s : State) (f : FeederId) (g : Feeder → Feeder) : (s.modFdr f g).rings = s.rings := rfl
@[simp] theorem State.modFdr_samples (s : State) (f : FeederId) (g : Feeder → Feeder) : (s.modFdr f g).samples = s.samples := rfl
@[simp] theorem State.modFdr_fresh (s : State) (f : FeederId) (g : Feeder → Feeder) : (s.modFdr f g).fresh = s.fresh := rfl
@[simp] theorem State.modFdr_pending (s : State) (f : FeederId) (g : Feeder → Feeder) : (s.modFdr f g).pending = s.pending := rfl

/-! ### modLoad -/

@[simp] theorem State.modLoad_resetPin (s : State) (x : SectionId) (g : Nat → Nat) : (s.modLoad x g).resetPin = s.resetPin := rfl
@[simp] theorem State.modLoad_stopLine (s : State) (x : SectionId) (g : Nat → Nat) : (s.modLoad x g).stopLine = s.stopLine := rfl
@[simp] theorem State.modLoad_alert (s : State) (x : SectionId) (g : Nat → Nat) : (s.modLoad x g).alert = s.alert := rfl
@[simp] theorem State.modLoad_cAddress (s : State) (x : SectionId) (g : Nat → Nat) : (s.modLoad x g).cAddress = s.cAddress := rfl
@[simp] theorem State.modLoad_asmW (s : State) (x : SectionId) (g : Nat → Nat) : (s.modLoad x g).asmW = s.asmW := rfl
@[simp] theorem State.modLoad_asmC (s : State) (x : SectionId) (g : Nat → Nat) : (s.modLoad x g).asmC = s.asmC := rfl
@[simp] theorem State.modLoad_asmM (s : State) (x : SectionId) (g : Nat → Nat) : (s.modLoad x g).asmM = s.asmM := rfl
@[simp] theorem State.modLoad_wSending (s : State) (x : SectionId) (g : Nat → Nat) : (s.modLoad x g).wSending = s.wSending := rfl
@[simp] theorem State.modLoad_cSending (s : State) (x : SectionId) (g : Nat → Nat) : (s.modLoad x g).cSending = s.cSending := rfl
@[simp] theorem State.modLoad_wRate (s : State) (x : SectionId) (g : Nat → Nat) : (s.modLoad x g).wRate = s.wRate := rfl
@[simp] theorem State.modLoad_cRate (s : State) (x : SectionId) (g : Nat → Nat) : (s.modLoad x g).cRate = s.cRate := rfl
@[simp] theorem State.modLoad_cRatePending (s : State) (x : SectionId) (g : Nat → Nat) : (s.modLoad x g).cRatePending = s.cRatePending := rfl
@[simp] theorem State.modLoad_broadcast (s : State) (x : SectionId) (g : Nat → Nat) : (s.modLoad x g).broadcast = s.broadcast := rfl
@[simp] theorem State.modLoad_normalQueue (s : State) (x : SectionId) (g : Nat → Nat) : (s.modLoad x g).normalQueue = s.normalQueue := rfl
@[simp] theorem State.modLoad_requestBuffer (s : State) (x : SectionId) (g : Nat → Nat) : (s.modLoad x g).requestBuffer = s.requestBuffer := rfl
@[simp] theorem State.modLoad_cQueue (s : State) (x : SectionId) (g : Nat → Nat) : (s.modLoad x g).cQueue = s.cQueue := rfl
@[simp] theorem State.modLoad_globals (s : State) (x : SectionId) (g : Nat → Nat) : (s.modLoad x g).globals = s.globals := rfl
@[simp] theorem State.modLoad_latches (s : State) (x : SectionId) (g : Nat → Nat) : (s.modLoad x g).latches = s.latches := rfl
@[simp] theorem State.modLoad_eventSeq (s : State) (x : SectionId) (g : Nat → Nat) : (s.modLoad x g).eventSeq = s.eventSeq := rfl
@[simp] theorem State.modLoad_counters (s : State) (x : SectionId) (g : Nat → Nat) : (s.modLoad x g).counters = s.counters := rfl
@[simp] theorem State.modLoad_bankA (s : State) (x : SectionId) (g : Nat → Nat) : (s.modLoad x g).bankA = s.bankA := rfl
@[simp] theorem State.modLoad_bankB (s : State) (x : SectionId) (g : Nat → Nat) : (s.modLoad x g).bankB = s.bankB := rfl
@[simp] theorem State.modLoad_active (s : State) (x : SectionId) (g : Nat → Nat) : (s.modLoad x g).active = s.active := rfl
@[simp] theorem State.modLoad_swap (s : State) (x : SectionId) (g : Nat → Nat) : (s.modLoad x g).swap = s.swap := rfl
@[simp] theorem State.modLoad_swapTimer (s : State) (x : SectionId) (g : Nat → Nat) : (s.modLoad x g).swapTimer = s.swapTimer := rfl
@[simp] theorem State.modLoad_contexts (s : State) (x : SectionId) (g : Nat → Nat) : (s.modLoad x g).contexts = s.contexts := rfl
@[simp] theorem State.modLoad_classes (s : State) (x : SectionId) (g : Nat → Nat) : (s.modLoad x g).classes = s.classes := rfl
@[simp] theorem State.modLoad_feeders (s : State) (x : SectionId) (g : Nat → Nat) : (s.modLoad x g).feeders = s.feeders := rfl
@[simp] theorem State.modLoad_sections (s : State) (x : SectionId) (g : Nat → Nat) : (s.modLoad x g).sections = s.sections := rfl
@[simp] theorem State.modLoad_admission (s : State) (x : SectionId) (g : Nat → Nat) : (s.modLoad x g).admission = s.admission := rfl
@[simp] theorem State.modLoad_meters (s : State) (x : SectionId) (g : Nat → Nat) : (s.modLoad x g).meters = s.meters := rfl
@[simp] theorem State.modLoad_rings (s : State) (x : SectionId) (g : Nat → Nat) : (s.modLoad x g).rings = s.rings := rfl
@[simp] theorem State.modLoad_samples (s : State) (x : SectionId) (g : Nat → Nat) : (s.modLoad x g).samples = s.samples := rfl
@[simp] theorem State.modLoad_fresh (s : State) (x : SectionId) (g : Nat → Nat) : (s.modLoad x g).fresh = s.fresh := rfl
@[simp] theorem State.modLoad_pending (s : State) (x : SectionId) (g : Nat → Nat) : (s.modLoad x g).pending = s.pending := rfl

/-! ### modSec -/

@[simp] theorem State.modSec_resetPin (s : State) (x : SectionId) (g : SectionRec → SectionRec) : (s.modSec x g).resetPin = s.resetPin := rfl
@[simp] theorem State.modSec_stopLine (s : State) (x : SectionId) (g : SectionRec → SectionRec) : (s.modSec x g).stopLine = s.stopLine := rfl
@[simp] theorem State.modSec_alert (s : State) (x : SectionId) (g : SectionRec → SectionRec) : (s.modSec x g).alert = s.alert := rfl
@[simp] theorem State.modSec_cAddress (s : State) (x : SectionId) (g : SectionRec → SectionRec) : (s.modSec x g).cAddress = s.cAddress := rfl
@[simp] theorem State.modSec_asmW (s : State) (x : SectionId) (g : SectionRec → SectionRec) : (s.modSec x g).asmW = s.asmW := rfl
@[simp] theorem State.modSec_asmC (s : State) (x : SectionId) (g : SectionRec → SectionRec) : (s.modSec x g).asmC = s.asmC := rfl
@[simp] theorem State.modSec_asmM (s : State) (x : SectionId) (g : SectionRec → SectionRec) : (s.modSec x g).asmM = s.asmM := rfl
@[simp] theorem State.modSec_wSending (s : State) (x : SectionId) (g : SectionRec → SectionRec) : (s.modSec x g).wSending = s.wSending := rfl
@[simp] theorem State.modSec_cSending (s : State) (x : SectionId) (g : SectionRec → SectionRec) : (s.modSec x g).cSending = s.cSending := rfl
@[simp] theorem State.modSec_wRate (s : State) (x : SectionId) (g : SectionRec → SectionRec) : (s.modSec x g).wRate = s.wRate := rfl
@[simp] theorem State.modSec_cRate (s : State) (x : SectionId) (g : SectionRec → SectionRec) : (s.modSec x g).cRate = s.cRate := rfl
@[simp] theorem State.modSec_cRatePending (s : State) (x : SectionId) (g : SectionRec → SectionRec) : (s.modSec x g).cRatePending = s.cRatePending := rfl
@[simp] theorem State.modSec_broadcast (s : State) (x : SectionId) (g : SectionRec → SectionRec) : (s.modSec x g).broadcast = s.broadcast := rfl
@[simp] theorem State.modSec_normalQueue (s : State) (x : SectionId) (g : SectionRec → SectionRec) : (s.modSec x g).normalQueue = s.normalQueue := rfl
@[simp] theorem State.modSec_requestBuffer (s : State) (x : SectionId) (g : SectionRec → SectionRec) : (s.modSec x g).requestBuffer = s.requestBuffer := rfl
@[simp] theorem State.modSec_cQueue (s : State) (x : SectionId) (g : SectionRec → SectionRec) : (s.modSec x g).cQueue = s.cQueue := rfl
@[simp] theorem State.modSec_globals (s : State) (x : SectionId) (g : SectionRec → SectionRec) : (s.modSec x g).globals = s.globals := rfl
@[simp] theorem State.modSec_latches (s : State) (x : SectionId) (g : SectionRec → SectionRec) : (s.modSec x g).latches = s.latches := rfl
@[simp] theorem State.modSec_eventSeq (s : State) (x : SectionId) (g : SectionRec → SectionRec) : (s.modSec x g).eventSeq = s.eventSeq := rfl
@[simp] theorem State.modSec_counters (s : State) (x : SectionId) (g : SectionRec → SectionRec) : (s.modSec x g).counters = s.counters := rfl
@[simp] theorem State.modSec_bankA (s : State) (x : SectionId) (g : SectionRec → SectionRec) : (s.modSec x g).bankA = s.bankA := rfl
@[simp] theorem State.modSec_bankB (s : State) (x : SectionId) (g : SectionRec → SectionRec) : (s.modSec x g).bankB = s.bankB := rfl
@[simp] theorem State.modSec_active (s : State) (x : SectionId) (g : SectionRec → SectionRec) : (s.modSec x g).active = s.active := rfl
@[simp] theorem State.modSec_swap (s : State) (x : SectionId) (g : SectionRec → SectionRec) : (s.modSec x g).swap = s.swap := rfl
@[simp] theorem State.modSec_swapTimer (s : State) (x : SectionId) (g : SectionRec → SectionRec) : (s.modSec x g).swapTimer = s.swapTimer := rfl
@[simp] theorem State.modSec_contexts (s : State) (x : SectionId) (g : SectionRec → SectionRec) : (s.modSec x g).contexts = s.contexts := rfl
@[simp] theorem State.modSec_classes (s : State) (x : SectionId) (g : SectionRec → SectionRec) : (s.modSec x g).classes = s.classes := rfl
@[simp] theorem State.modSec_feeders (s : State) (x : SectionId) (g : SectionRec → SectionRec) : (s.modSec x g).feeders = s.feeders := rfl
@[simp] theorem State.modSec_loads (s : State) (x : SectionId) (g : SectionRec → SectionRec) : (s.modSec x g).loads = s.loads := rfl
@[simp] theorem State.modSec_admission (s : State) (x : SectionId) (g : SectionRec → SectionRec) : (s.modSec x g).admission = s.admission := rfl
@[simp] theorem State.modSec_meters (s : State) (x : SectionId) (g : SectionRec → SectionRec) : (s.modSec x g).meters = s.meters := rfl
@[simp] theorem State.modSec_rings (s : State) (x : SectionId) (g : SectionRec → SectionRec) : (s.modSec x g).rings = s.rings := rfl
@[simp] theorem State.modSec_samples (s : State) (x : SectionId) (g : SectionRec → SectionRec) : (s.modSec x g).samples = s.samples := rfl
@[simp] theorem State.modSec_fresh (s : State) (x : SectionId) (g : SectionRec → SectionRec) : (s.modSec x g).fresh = s.fresh := rfl
@[simp] theorem State.modSec_pending (s : State) (x : SectionId) (g : SectionRec → SectionRec) : (s.modSec x g).pending = s.pending := rfl

/-! ### modMeter -/

@[simp] theorem State.modMeter_resetPin (s : State) (f : FeederId) (g : Meter → Meter) : (s.modMeter f g).resetPin = s.resetPin := rfl
@[simp] theorem State.modMeter_stopLine (s : State) (f : FeederId) (g : Meter → Meter) : (s.modMeter f g).stopLine = s.stopLine := rfl
@[simp] theorem State.modMeter_alert (s : State) (f : FeederId) (g : Meter → Meter) : (s.modMeter f g).alert = s.alert := rfl
@[simp] theorem State.modMeter_cAddress (s : State) (f : FeederId) (g : Meter → Meter) : (s.modMeter f g).cAddress = s.cAddress := rfl
@[simp] theorem State.modMeter_asmW (s : State) (f : FeederId) (g : Meter → Meter) : (s.modMeter f g).asmW = s.asmW := rfl
@[simp] theorem State.modMeter_asmC (s : State) (f : FeederId) (g : Meter → Meter) : (s.modMeter f g).asmC = s.asmC := rfl
@[simp] theorem State.modMeter_asmM (s : State) (f : FeederId) (g : Meter → Meter) : (s.modMeter f g).asmM = s.asmM := rfl
@[simp] theorem State.modMeter_wSending (s : State) (f : FeederId) (g : Meter → Meter) : (s.modMeter f g).wSending = s.wSending := rfl
@[simp] theorem State.modMeter_cSending (s : State) (f : FeederId) (g : Meter → Meter) : (s.modMeter f g).cSending = s.cSending := rfl
@[simp] theorem State.modMeter_wRate (s : State) (f : FeederId) (g : Meter → Meter) : (s.modMeter f g).wRate = s.wRate := rfl
@[simp] theorem State.modMeter_cRate (s : State) (f : FeederId) (g : Meter → Meter) : (s.modMeter f g).cRate = s.cRate := rfl
@[simp] theorem State.modMeter_cRatePending (s : State) (f : FeederId) (g : Meter → Meter) : (s.modMeter f g).cRatePending = s.cRatePending := rfl
@[simp] theorem State.modMeter_broadcast (s : State) (f : FeederId) (g : Meter → Meter) : (s.modMeter f g).broadcast = s.broadcast := rfl
@[simp] theorem State.modMeter_normalQueue (s : State) (f : FeederId) (g : Meter → Meter) : (s.modMeter f g).normalQueue = s.normalQueue := rfl
@[simp] theorem State.modMeter_requestBuffer (s : State) (f : FeederId) (g : Meter → Meter) : (s.modMeter f g).requestBuffer = s.requestBuffer := rfl
@[simp] theorem State.modMeter_cQueue (s : State) (f : FeederId) (g : Meter → Meter) : (s.modMeter f g).cQueue = s.cQueue := rfl
@[simp] theorem State.modMeter_globals (s : State) (f : FeederId) (g : Meter → Meter) : (s.modMeter f g).globals = s.globals := rfl
@[simp] theorem State.modMeter_latches (s : State) (f : FeederId) (g : Meter → Meter) : (s.modMeter f g).latches = s.latches := rfl
@[simp] theorem State.modMeter_eventSeq (s : State) (f : FeederId) (g : Meter → Meter) : (s.modMeter f g).eventSeq = s.eventSeq := rfl
@[simp] theorem State.modMeter_counters (s : State) (f : FeederId) (g : Meter → Meter) : (s.modMeter f g).counters = s.counters := rfl
@[simp] theorem State.modMeter_bankA (s : State) (f : FeederId) (g : Meter → Meter) : (s.modMeter f g).bankA = s.bankA := rfl
@[simp] theorem State.modMeter_bankB (s : State) (f : FeederId) (g : Meter → Meter) : (s.modMeter f g).bankB = s.bankB := rfl
@[simp] theorem State.modMeter_active (s : State) (f : FeederId) (g : Meter → Meter) : (s.modMeter f g).active = s.active := rfl
@[simp] theorem State.modMeter_swap (s : State) (f : FeederId) (g : Meter → Meter) : (s.modMeter f g).swap = s.swap := rfl
@[simp] theorem State.modMeter_swapTimer (s : State) (f : FeederId) (g : Meter → Meter) : (s.modMeter f g).swapTimer = s.swapTimer := rfl
@[simp] theorem State.modMeter_contexts (s : State) (f : FeederId) (g : Meter → Meter) : (s.modMeter f g).contexts = s.contexts := rfl
@[simp] theorem State.modMeter_classes (s : State) (f : FeederId) (g : Meter → Meter) : (s.modMeter f g).classes = s.classes := rfl
@[simp] theorem State.modMeter_feeders (s : State) (f : FeederId) (g : Meter → Meter) : (s.modMeter f g).feeders = s.feeders := rfl
@[simp] theorem State.modMeter_loads (s : State) (f : FeederId) (g : Meter → Meter) : (s.modMeter f g).loads = s.loads := rfl
@[simp] theorem State.modMeter_sections (s : State) (f : FeederId) (g : Meter → Meter) : (s.modMeter f g).sections = s.sections := rfl
@[simp] theorem State.modMeter_admission (s : State) (f : FeederId) (g : Meter → Meter) : (s.modMeter f g).admission = s.admission := rfl
@[simp] theorem State.modMeter_rings (s : State) (f : FeederId) (g : Meter → Meter) : (s.modMeter f g).rings = s.rings := rfl
@[simp] theorem State.modMeter_samples (s : State) (f : FeederId) (g : Meter → Meter) : (s.modMeter f g).samples = s.samples := rfl
@[simp] theorem State.modMeter_fresh (s : State) (f : FeederId) (g : Meter → Meter) : (s.modMeter f g).fresh = s.fresh := rfl
@[simp] theorem State.modMeter_pending (s : State) (f : FeederId) (g : Meter → Meter) : (s.modMeter f g).pending = s.pending := rfl

/-! ### modRing -/

@[simp] theorem State.modRing_resetPin (s : State) (f : FeederId) (g : Ring → Ring) : (s.modRing f g).resetPin = s.resetPin := rfl
@[simp] theorem State.modRing_stopLine (s : State) (f : FeederId) (g : Ring → Ring) : (s.modRing f g).stopLine = s.stopLine := rfl
@[simp] theorem State.modRing_alert (s : State) (f : FeederId) (g : Ring → Ring) : (s.modRing f g).alert = s.alert := rfl
@[simp] theorem State.modRing_cAddress (s : State) (f : FeederId) (g : Ring → Ring) : (s.modRing f g).cAddress = s.cAddress := rfl
@[simp] theorem State.modRing_asmW (s : State) (f : FeederId) (g : Ring → Ring) : (s.modRing f g).asmW = s.asmW := rfl
@[simp] theorem State.modRing_asmC (s : State) (f : FeederId) (g : Ring → Ring) : (s.modRing f g).asmC = s.asmC := rfl
@[simp] theorem State.modRing_asmM (s : State) (f : FeederId) (g : Ring → Ring) : (s.modRing f g).asmM = s.asmM := rfl
@[simp] theorem State.modRing_wSending (s : State) (f : FeederId) (g : Ring → Ring) : (s.modRing f g).wSending = s.wSending := rfl
@[simp] theorem State.modRing_cSending (s : State) (f : FeederId) (g : Ring → Ring) : (s.modRing f g).cSending = s.cSending := rfl
@[simp] theorem State.modRing_wRate (s : State) (f : FeederId) (g : Ring → Ring) : (s.modRing f g).wRate = s.wRate := rfl
@[simp] theorem State.modRing_cRate (s : State) (f : FeederId) (g : Ring → Ring) : (s.modRing f g).cRate = s.cRate := rfl
@[simp] theorem State.modRing_cRatePending (s : State) (f : FeederId) (g : Ring → Ring) : (s.modRing f g).cRatePending = s.cRatePending := rfl
@[simp] theorem State.modRing_broadcast (s : State) (f : FeederId) (g : Ring → Ring) : (s.modRing f g).broadcast = s.broadcast := rfl
@[simp] theorem State.modRing_normalQueue (s : State) (f : FeederId) (g : Ring → Ring) : (s.modRing f g).normalQueue = s.normalQueue := rfl
@[simp] theorem State.modRing_requestBuffer (s : State) (f : FeederId) (g : Ring → Ring) : (s.modRing f g).requestBuffer = s.requestBuffer := rfl
@[simp] theorem State.modRing_cQueue (s : State) (f : FeederId) (g : Ring → Ring) : (s.modRing f g).cQueue = s.cQueue := rfl
@[simp] theorem State.modRing_globals (s : State) (f : FeederId) (g : Ring → Ring) : (s.modRing f g).globals = s.globals := rfl
@[simp] theorem State.modRing_latches (s : State) (f : FeederId) (g : Ring → Ring) : (s.modRing f g).latches = s.latches := rfl
@[simp] theorem State.modRing_eventSeq (s : State) (f : FeederId) (g : Ring → Ring) : (s.modRing f g).eventSeq = s.eventSeq := rfl
@[simp] theorem State.modRing_counters (s : State) (f : FeederId) (g : Ring → Ring) : (s.modRing f g).counters = s.counters := rfl
@[simp] theorem State.modRing_bankA (s : State) (f : FeederId) (g : Ring → Ring) : (s.modRing f g).bankA = s.bankA := rfl
@[simp] theorem State.modRing_bankB (s : State) (f : FeederId) (g : Ring → Ring) : (s.modRing f g).bankB = s.bankB := rfl
@[simp] theorem State.modRing_active (s : State) (f : FeederId) (g : Ring → Ring) : (s.modRing f g).active = s.active := rfl
@[simp] theorem State.modRing_swap (s : State) (f : FeederId) (g : Ring → Ring) : (s.modRing f g).swap = s.swap := rfl
@[simp] theorem State.modRing_swapTimer (s : State) (f : FeederId) (g : Ring → Ring) : (s.modRing f g).swapTimer = s.swapTimer := rfl
@[simp] theorem State.modRing_contexts (s : State) (f : FeederId) (g : Ring → Ring) : (s.modRing f g).contexts = s.contexts := rfl
@[simp] theorem State.modRing_classes (s : State) (f : FeederId) (g : Ring → Ring) : (s.modRing f g).classes = s.classes := rfl
@[simp] theorem State.modRing_feeders (s : State) (f : FeederId) (g : Ring → Ring) : (s.modRing f g).feeders = s.feeders := rfl
@[simp] theorem State.modRing_loads (s : State) (f : FeederId) (g : Ring → Ring) : (s.modRing f g).loads = s.loads := rfl
@[simp] theorem State.modRing_sections (s : State) (f : FeederId) (g : Ring → Ring) : (s.modRing f g).sections = s.sections := rfl
@[simp] theorem State.modRing_admission (s : State) (f : FeederId) (g : Ring → Ring) : (s.modRing f g).admission = s.admission := rfl
@[simp] theorem State.modRing_meters (s : State) (f : FeederId) (g : Ring → Ring) : (s.modRing f g).meters = s.meters := rfl
@[simp] theorem State.modRing_samples (s : State) (f : FeederId) (g : Ring → Ring) : (s.modRing f g).samples = s.samples := rfl
@[simp] theorem State.modRing_fresh (s : State) (f : FeederId) (g : Ring → Ring) : (s.modRing f g).fresh = s.fresh := rfl
@[simp] theorem State.modRing_pending (s : State) (f : FeederId) (g : Ring → Ring) : (s.modRing f g).pending = s.pending := rfl

/-! ### modLink -/

@[simp] theorem State.modLink_resetPin (s : State) (l : Link) (g : LinkCounters → LinkCounters) : (s.modLink l g).resetPin = s.resetPin := by cases l <;> rfl
@[simp] theorem State.modLink_stopLine (s : State) (l : Link) (g : LinkCounters → LinkCounters) : (s.modLink l g).stopLine = s.stopLine := by cases l <;> rfl
@[simp] theorem State.modLink_alert (s : State) (l : Link) (g : LinkCounters → LinkCounters) : (s.modLink l g).alert = s.alert := by cases l <;> rfl
@[simp] theorem State.modLink_cAddress (s : State) (l : Link) (g : LinkCounters → LinkCounters) : (s.modLink l g).cAddress = s.cAddress := by cases l <;> rfl
@[simp] theorem State.modLink_asmW (s : State) (l : Link) (g : LinkCounters → LinkCounters) : (s.modLink l g).asmW = s.asmW := by cases l <;> rfl
@[simp] theorem State.modLink_asmC (s : State) (l : Link) (g : LinkCounters → LinkCounters) : (s.modLink l g).asmC = s.asmC := by cases l <;> rfl
@[simp] theorem State.modLink_asmM (s : State) (l : Link) (g : LinkCounters → LinkCounters) : (s.modLink l g).asmM = s.asmM := by cases l <;> rfl
@[simp] theorem State.modLink_wSending (s : State) (l : Link) (g : LinkCounters → LinkCounters) : (s.modLink l g).wSending = s.wSending := by cases l <;> rfl
@[simp] theorem State.modLink_cSending (s : State) (l : Link) (g : LinkCounters → LinkCounters) : (s.modLink l g).cSending = s.cSending := by cases l <;> rfl
@[simp] theorem State.modLink_wRate (s : State) (l : Link) (g : LinkCounters → LinkCounters) : (s.modLink l g).wRate = s.wRate := by cases l <;> rfl
@[simp] theorem State.modLink_cRate (s : State) (l : Link) (g : LinkCounters → LinkCounters) : (s.modLink l g).cRate = s.cRate := by cases l <;> rfl
@[simp] theorem State.modLink_cRatePending (s : State) (l : Link) (g : LinkCounters → LinkCounters) : (s.modLink l g).cRatePending = s.cRatePending := by cases l <;> rfl
@[simp] theorem State.modLink_broadcast (s : State) (l : Link) (g : LinkCounters → LinkCounters) : (s.modLink l g).broadcast = s.broadcast := by cases l <;> rfl
@[simp] theorem State.modLink_normalQueue (s : State) (l : Link) (g : LinkCounters → LinkCounters) : (s.modLink l g).normalQueue = s.normalQueue := by cases l <;> rfl
@[simp] theorem State.modLink_requestBuffer (s : State) (l : Link) (g : LinkCounters → LinkCounters) : (s.modLink l g).requestBuffer = s.requestBuffer := by cases l <;> rfl
@[simp] theorem State.modLink_cQueue (s : State) (l : Link) (g : LinkCounters → LinkCounters) : (s.modLink l g).cQueue = s.cQueue := by cases l <;> rfl
@[simp] theorem State.modLink_globals (s : State) (l : Link) (g : LinkCounters → LinkCounters) : (s.modLink l g).globals = s.globals := by cases l <;> rfl
@[simp] theorem State.modLink_latches (s : State) (l : Link) (g : LinkCounters → LinkCounters) : (s.modLink l g).latches = s.latches := by cases l <;> rfl
@[simp] theorem State.modLink_eventSeq (s : State) (l : Link) (g : LinkCounters → LinkCounters) : (s.modLink l g).eventSeq = s.eventSeq := by cases l <;> rfl
@[simp] theorem State.modLink_bankA (s : State) (l : Link) (g : LinkCounters → LinkCounters) : (s.modLink l g).bankA = s.bankA := by cases l <;> rfl
@[simp] theorem State.modLink_bankB (s : State) (l : Link) (g : LinkCounters → LinkCounters) : (s.modLink l g).bankB = s.bankB := by cases l <;> rfl
@[simp] theorem State.modLink_active (s : State) (l : Link) (g : LinkCounters → LinkCounters) : (s.modLink l g).active = s.active := by cases l <;> rfl
@[simp] theorem State.modLink_swap (s : State) (l : Link) (g : LinkCounters → LinkCounters) : (s.modLink l g).swap = s.swap := by cases l <;> rfl
@[simp] theorem State.modLink_swapTimer (s : State) (l : Link) (g : LinkCounters → LinkCounters) : (s.modLink l g).swapTimer = s.swapTimer := by cases l <;> rfl
@[simp] theorem State.modLink_contexts (s : State) (l : Link) (g : LinkCounters → LinkCounters) : (s.modLink l g).contexts = s.contexts := by cases l <;> rfl
@[simp] theorem State.modLink_classes (s : State) (l : Link) (g : LinkCounters → LinkCounters) : (s.modLink l g).classes = s.classes := by cases l <;> rfl
@[simp] theorem State.modLink_feeders (s : State) (l : Link) (g : LinkCounters → LinkCounters) : (s.modLink l g).feeders = s.feeders := by cases l <;> rfl
@[simp] theorem State.modLink_loads (s : State) (l : Link) (g : LinkCounters → LinkCounters) : (s.modLink l g).loads = s.loads := by cases l <;> rfl
@[simp] theorem State.modLink_sections (s : State) (l : Link) (g : LinkCounters → LinkCounters) : (s.modLink l g).sections = s.sections := by cases l <;> rfl
@[simp] theorem State.modLink_admission (s : State) (l : Link) (g : LinkCounters → LinkCounters) : (s.modLink l g).admission = s.admission := by cases l <;> rfl
@[simp] theorem State.modLink_meters (s : State) (l : Link) (g : LinkCounters → LinkCounters) : (s.modLink l g).meters = s.meters := by cases l <;> rfl
@[simp] theorem State.modLink_rings (s : State) (l : Link) (g : LinkCounters → LinkCounters) : (s.modLink l g).rings = s.rings := by cases l <;> rfl
@[simp] theorem State.modLink_samples (s : State) (l : Link) (g : LinkCounters → LinkCounters) : (s.modLink l g).samples = s.samples := by cases l <;> rfl
@[simp] theorem State.modLink_fresh (s : State) (l : Link) (g : LinkCounters → LinkCounters) : (s.modLink l g).fresh = s.fresh := by cases l <;> rfl
@[simp] theorem State.modLink_pending (s : State) (l : Link) (g : LinkCounters → LinkCounters) : (s.modLink l g).pending = s.pending := by cases l <;> rfl

/-! ### countTxDrop -/

@[simp] theorem State.countTxDrop_resetPin (s : State) (l : Link) : (s.countTxDrop l).resetPin = s.resetPin := by cases l <;> rfl
@[simp] theorem State.countTxDrop_stopLine (s : State) (l : Link) : (s.countTxDrop l).stopLine = s.stopLine := by cases l <;> rfl
@[simp] theorem State.countTxDrop_alert (s : State) (l : Link) : (s.countTxDrop l).alert = s.alert := by cases l <;> rfl
@[simp] theorem State.countTxDrop_cAddress (s : State) (l : Link) : (s.countTxDrop l).cAddress = s.cAddress := by cases l <;> rfl
@[simp] theorem State.countTxDrop_asmW (s : State) (l : Link) : (s.countTxDrop l).asmW = s.asmW := by cases l <;> rfl
@[simp] theorem State.countTxDrop_asmC (s : State) (l : Link) : (s.countTxDrop l).asmC = s.asmC := by cases l <;> rfl
@[simp] theorem State.countTxDrop_asmM (s : State) (l : Link) : (s.countTxDrop l).asmM = s.asmM := by cases l <;> rfl
@[simp] theorem State.countTxDrop_wSending (s : State) (l : Link) : (s.countTxDrop l).wSending = s.wSending := by cases l <;> rfl
@[simp] theorem State.countTxDrop_cSending (s : State) (l : Link) : (s.countTxDrop l).cSending = s.cSending := by cases l <;> rfl
@[simp] theorem State.countTxDrop_wRate (s : State) (l : Link) : (s.countTxDrop l).wRate = s.wRate := by cases l <;> rfl
@[simp] theorem State.countTxDrop_cRate (s : State) (l : Link) : (s.countTxDrop l).cRate = s.cRate := by cases l <;> rfl
@[simp] theorem State.countTxDrop_cRatePending (s : State) (l : Link) : (s.countTxDrop l).cRatePending = s.cRatePending := by cases l <;> rfl
@[simp] theorem State.countTxDrop_broadcast (s : State) (l : Link) : (s.countTxDrop l).broadcast = s.broadcast := by cases l <;> rfl
@[simp] theorem State.countTxDrop_normalQueue (s : State) (l : Link) : (s.countTxDrop l).normalQueue = s.normalQueue := by cases l <;> rfl
@[simp] theorem State.countTxDrop_requestBuffer (s : State) (l : Link) : (s.countTxDrop l).requestBuffer = s.requestBuffer := by cases l <;> rfl
@[simp] theorem State.countTxDrop_cQueue (s : State) (l : Link) : (s.countTxDrop l).cQueue = s.cQueue := by cases l <;> rfl
@[simp] theorem State.countTxDrop_globals (s : State) (l : Link) : (s.countTxDrop l).globals = s.globals := by cases l <;> rfl
@[simp] theorem State.countTxDrop_latches (s : State) (l : Link) : (s.countTxDrop l).latches = s.latches := by cases l <;> rfl
@[simp] theorem State.countTxDrop_eventSeq (s : State) (l : Link) : (s.countTxDrop l).eventSeq = s.eventSeq := by cases l <;> rfl
@[simp] theorem State.countTxDrop_bankA (s : State) (l : Link) : (s.countTxDrop l).bankA = s.bankA := by cases l <;> rfl
@[simp] theorem State.countTxDrop_bankB (s : State) (l : Link) : (s.countTxDrop l).bankB = s.bankB := by cases l <;> rfl
@[simp] theorem State.countTxDrop_active (s : State) (l : Link) : (s.countTxDrop l).active = s.active := by cases l <;> rfl
@[simp] theorem State.countTxDrop_swap (s : State) (l : Link) : (s.countTxDrop l).swap = s.swap := by cases l <;> rfl
@[simp] theorem State.countTxDrop_swapTimer (s : State) (l : Link) : (s.countTxDrop l).swapTimer = s.swapTimer := by cases l <;> rfl
@[simp] theorem State.countTxDrop_contexts (s : State) (l : Link) : (s.countTxDrop l).contexts = s.contexts := by cases l <;> rfl
@[simp] theorem State.countTxDrop_classes (s : State) (l : Link) : (s.countTxDrop l).classes = s.classes := by cases l <;> rfl
@[simp] theorem State.countTxDrop_feeders (s : State) (l : Link) : (s.countTxDrop l).feeders = s.feeders := by cases l <;> rfl
@[simp] theorem State.countTxDrop_loads (s : State) (l : Link) : (s.countTxDrop l).loads = s.loads := by cases l <;> rfl
@[simp] theorem State.countTxDrop_sections (s : State) (l : Link) : (s.countTxDrop l).sections = s.sections := by cases l <;> rfl
@[simp] theorem State.countTxDrop_admission (s : State) (l : Link) : (s.countTxDrop l).admission = s.admission := by cases l <;> rfl
@[simp] theorem State.countTxDrop_meters (s : State) (l : Link) : (s.countTxDrop l).meters = s.meters := by cases l <;> rfl
@[simp] theorem State.countTxDrop_rings (s : State) (l : Link) : (s.countTxDrop l).rings = s.rings := by cases l <;> rfl
@[simp] theorem State.countTxDrop_samples (s : State) (l : Link) : (s.countTxDrop l).samples = s.samples := by cases l <;> rfl
@[simp] theorem State.countTxDrop_fresh (s : State) (l : Link) : (s.countTxDrop l).fresh = s.fresh := by cases l <;> rfl
@[simp] theorem State.countTxDrop_pending (s : State) (l : Link) : (s.countTxDrop l).pending = s.pending := by cases l <;> rfl

/-! ### countGood -/

@[simp] theorem State.countGood_resetPin (s : State) (l : Link) : (s.countGood l).resetPin = s.resetPin := by cases l <;> rfl
@[simp] theorem State.countGood_stopLine (s : State) (l : Link) : (s.countGood l).stopLine = s.stopLine := by cases l <;> rfl
@[simp] theorem State.countGood_alert (s : State) (l : Link) : (s.countGood l).alert = s.alert := by cases l <;> rfl
@[simp] theorem State.countGood_cAddress (s : State) (l : Link) : (s.countGood l).cAddress = s.cAddress := by cases l <;> rfl
@[simp] theorem State.countGood_asmW (s : State) (l : Link) : (s.countGood l).asmW = s.asmW := by cases l <;> rfl
@[simp] theorem State.countGood_asmC (s : State) (l : Link) : (s.countGood l).asmC = s.asmC := by cases l <;> rfl
@[simp] theorem State.countGood_asmM (s : State) (l : Link) : (s.countGood l).asmM = s.asmM := by cases l <;> rfl
@[simp] theorem State.countGood_wSending (s : State) (l : Link) : (s.countGood l).wSending = s.wSending := by cases l <;> rfl
@[simp] theorem State.countGood_cSending (s : State) (l : Link) : (s.countGood l).cSending = s.cSending := by cases l <;> rfl
@[simp] theorem State.countGood_wRate (s : State) (l : Link) : (s.countGood l).wRate = s.wRate := by cases l <;> rfl
@[simp] theorem State.countGood_cRate (s : State) (l : Link) : (s.countGood l).cRate = s.cRate := by cases l <;> rfl
@[simp] theorem State.countGood_cRatePending (s : State) (l : Link) : (s.countGood l).cRatePending = s.cRatePending := by cases l <;> rfl
@[simp] theorem State.countGood_broadcast (s : State) (l : Link) : (s.countGood l).broadcast = s.broadcast := by cases l <;> rfl
@[simp] theorem State.countGood_normalQueue (s : State) (l : Link) : (s.countGood l).normalQueue = s.normalQueue := by cases l <;> rfl
@[simp] theorem State.countGood_requestBuffer (s : State) (l : Link) : (s.countGood l).requestBuffer = s.requestBuffer := by cases l <;> rfl
@[simp] theorem State.countGood_cQueue (s : State) (l : Link) : (s.countGood l).cQueue = s.cQueue := by cases l <;> rfl
@[simp] theorem State.countGood_globals (s : State) (l : Link) : (s.countGood l).globals = s.globals := by cases l <;> rfl
@[simp] theorem State.countGood_latches (s : State) (l : Link) : (s.countGood l).latches = s.latches := by cases l <;> rfl
@[simp] theorem State.countGood_eventSeq (s : State) (l : Link) : (s.countGood l).eventSeq = s.eventSeq := by cases l <;> rfl
@[simp] theorem State.countGood_bankA (s : State) (l : Link) : (s.countGood l).bankA = s.bankA := by cases l <;> rfl
@[simp] theorem State.countGood_bankB (s : State) (l : Link) : (s.countGood l).bankB = s.bankB := by cases l <;> rfl
@[simp] theorem State.countGood_active (s : State) (l : Link) : (s.countGood l).active = s.active := by cases l <;> rfl
@[simp] theorem State.countGood_swap (s : State) (l : Link) : (s.countGood l).swap = s.swap := by cases l <;> rfl
@[simp] theorem State.countGood_swapTimer (s : State) (l : Link) : (s.countGood l).swapTimer = s.swapTimer := by cases l <;> rfl
@[simp] theorem State.countGood_contexts (s : State) (l : Link) : (s.countGood l).contexts = s.contexts := by cases l <;> rfl
@[simp] theorem State.countGood_classes (s : State) (l : Link) : (s.countGood l).classes = s.classes := by cases l <;> rfl
@[simp] theorem State.countGood_feeders (s : State) (l : Link) : (s.countGood l).feeders = s.feeders := by cases l <;> rfl
@[simp] theorem State.countGood_loads (s : State) (l : Link) : (s.countGood l).loads = s.loads := by cases l <;> rfl
@[simp] theorem State.countGood_sections (s : State) (l : Link) : (s.countGood l).sections = s.sections := by cases l <;> rfl
@[simp] theorem State.countGood_admission (s : State) (l : Link) : (s.countGood l).admission = s.admission := by cases l <;> rfl
@[simp] theorem State.countGood_meters (s : State) (l : Link) : (s.countGood l).meters = s.meters := by cases l <;> rfl
@[simp] theorem State.countGood_rings (s : State) (l : Link) : (s.countGood l).rings = s.rings := by cases l <;> rfl
@[simp] theorem State.countGood_samples (s : State) (l : Link) : (s.countGood l).samples = s.samples := by cases l <;> rfl
@[simp] theorem State.countGood_fresh (s : State) (l : Link) : (s.countGood l).fresh = s.fresh := by cases l <;> rfl
@[simp] theorem State.countGood_pending (s : State) (l : Link) : (s.countGood l).pending = s.pending := by cases l <;> rfl

/-! ### countForeign -/

@[simp] theorem State.countForeign_resetPin (s : State) (l : Link) : (s.countForeign l).resetPin = s.resetPin := by cases l <;> rfl
@[simp] theorem State.countForeign_stopLine (s : State) (l : Link) : (s.countForeign l).stopLine = s.stopLine := by cases l <;> rfl
@[simp] theorem State.countForeign_alert (s : State) (l : Link) : (s.countForeign l).alert = s.alert := by cases l <;> rfl
@[simp] theorem State.countForeign_cAddress (s : State) (l : Link) : (s.countForeign l).cAddress = s.cAddress := by cases l <;> rfl
@[simp] theorem State.countForeign_asmW (s : State) (l : Link) : (s.countForeign l).asmW = s.asmW := by cases l <;> rfl
@[simp] theorem State.countForeign_asmC (s : State) (l : Link) : (s.countForeign l).asmC = s.asmC := by cases l <;> rfl
@[simp] theorem State.countForeign_asmM (s : State) (l : Link) : (s.countForeign l).asmM = s.asmM := by cases l <;> rfl
@[simp] theorem State.countForeign_wSending (s : State) (l : Link) : (s.countForeign l).wSending = s.wSending := by cases l <;> rfl
@[simp] theorem State.countForeign_cSending (s : State) (l : Link) : (s.countForeign l).cSending = s.cSending := by cases l <;> rfl
@[simp] theorem State.countForeign_wRate (s : State) (l : Link) : (s.countForeign l).wRate = s.wRate := by cases l <;> rfl
@[simp] theorem State.countForeign_cRate (s : State) (l : Link) : (s.countForeign l).cRate = s.cRate := by cases l <;> rfl
@[simp] theorem State.countForeign_cRatePending (s : State) (l : Link) : (s.countForeign l).cRatePending = s.cRatePending := by cases l <;> rfl
@[simp] theorem State.countForeign_broadcast (s : State) (l : Link) : (s.countForeign l).broadcast = s.broadcast := by cases l <;> rfl
@[simp] theorem State.countForeign_normalQueue (s : State) (l : Link) : (s.countForeign l).normalQueue = s.normalQueue := by cases l <;> rfl
@[simp] theorem State.countForeign_requestBuffer (s : State) (l : Link) : (s.countForeign l).requestBuffer = s.requestBuffer := by cases l <;> rfl
@[simp] theorem State.countForeign_cQueue (s : State) (l : Link) : (s.countForeign l).cQueue = s.cQueue := by cases l <;> rfl
@[simp] theorem State.countForeign_globals (s : State) (l : Link) : (s.countForeign l).globals = s.globals := by cases l <;> rfl
@[simp] theorem State.countForeign_latches (s : State) (l : Link) : (s.countForeign l).latches = s.latches := by cases l <;> rfl
@[simp] theorem State.countForeign_eventSeq (s : State) (l : Link) : (s.countForeign l).eventSeq = s.eventSeq := by cases l <;> rfl
@[simp] theorem State.countForeign_bankA (s : State) (l : Link) : (s.countForeign l).bankA = s.bankA := by cases l <;> rfl
@[simp] theorem State.countForeign_bankB (s : State) (l : Link) : (s.countForeign l).bankB = s.bankB := by cases l <;> rfl
@[simp] theorem State.countForeign_active (s : State) (l : Link) : (s.countForeign l).active = s.active := by cases l <;> rfl
@[simp] theorem State.countForeign_swap (s : State) (l : Link) : (s.countForeign l).swap = s.swap := by cases l <;> rfl
@[simp] theorem State.countForeign_swapTimer (s : State) (l : Link) : (s.countForeign l).swapTimer = s.swapTimer := by cases l <;> rfl
@[simp] theorem State.countForeign_contexts (s : State) (l : Link) : (s.countForeign l).contexts = s.contexts := by cases l <;> rfl
@[simp] theorem State.countForeign_classes (s : State) (l : Link) : (s.countForeign l).classes = s.classes := by cases l <;> rfl
@[simp] theorem State.countForeign_feeders (s : State) (l : Link) : (s.countForeign l).feeders = s.feeders := by cases l <;> rfl
@[simp] theorem State.countForeign_loads (s : State) (l : Link) : (s.countForeign l).loads = s.loads := by cases l <;> rfl
@[simp] theorem State.countForeign_sections (s : State) (l : Link) : (s.countForeign l).sections = s.sections := by cases l <;> rfl
@[simp] theorem State.countForeign_admission (s : State) (l : Link) : (s.countForeign l).admission = s.admission := by cases l <;> rfl
@[simp] theorem State.countForeign_meters (s : State) (l : Link) : (s.countForeign l).meters = s.meters := by cases l <;> rfl
@[simp] theorem State.countForeign_rings (s : State) (l : Link) : (s.countForeign l).rings = s.rings := by cases l <;> rfl
@[simp] theorem State.countForeign_samples (s : State) (l : Link) : (s.countForeign l).samples = s.samples := by cases l <;> rfl
@[simp] theorem State.countForeign_fresh (s : State) (l : Link) : (s.countForeign l).fresh = s.fresh := by cases l <;> rfl
@[simp] theorem State.countForeign_pending (s : State) (l : Link) : (s.countForeign l).pending = s.pending := by cases l <;> rfl

/-! ### sendNormal -/

@[simp] theorem State.sendNormal_resetPin (s : State) (f : Frame) : (s.sendNormal f).resetPin = s.resetPin := by unfold State.sendNormal; split <;> rfl
@[simp] theorem State.sendNormal_stopLine (s : State) (f : Frame) : (s.sendNormal f).stopLine = s.stopLine := by unfold State.sendNormal; split <;> rfl
@[simp] theorem State.sendNormal_alert (s : State) (f : Frame) : (s.sendNormal f).alert = s.alert := by unfold State.sendNormal; split <;> rfl
@[simp] theorem State.sendNormal_cAddress (s : State) (f : Frame) : (s.sendNormal f).cAddress = s.cAddress := by unfold State.sendNormal; split <;> rfl
@[simp] theorem State.sendNormal_asmW (s : State) (f : Frame) : (s.sendNormal f).asmW = s.asmW := by unfold State.sendNormal; split <;> rfl
@[simp] theorem State.sendNormal_asmC (s : State) (f : Frame) : (s.sendNormal f).asmC = s.asmC := by unfold State.sendNormal; split <;> rfl
@[simp] theorem State.sendNormal_asmM (s : State) (f : Frame) : (s.sendNormal f).asmM = s.asmM := by unfold State.sendNormal; split <;> rfl
@[simp] theorem State.sendNormal_wSending (s : State) (f : Frame) : (s.sendNormal f).wSending = s.wSending := by unfold State.sendNormal; split <;> rfl
@[simp] theorem State.sendNormal_cSending (s : State) (f : Frame) : (s.sendNormal f).cSending = s.cSending := by unfold State.sendNormal; split <;> rfl
@[simp] theorem State.sendNormal_wRate (s : State) (f : Frame) : (s.sendNormal f).wRate = s.wRate := by unfold State.sendNormal; split <;> rfl
@[simp] theorem State.sendNormal_cRate (s : State) (f : Frame) : (s.sendNormal f).cRate = s.cRate := by unfold State.sendNormal; split <;> rfl
@[simp] theorem State.sendNormal_cRatePending (s : State) (f : Frame) : (s.sendNormal f).cRatePending = s.cRatePending := by unfold State.sendNormal; split <;> rfl
@[simp] theorem State.sendNormal_broadcast (s : State) (f : Frame) : (s.sendNormal f).broadcast = s.broadcast := by unfold State.sendNormal; split <;> rfl
@[simp] theorem State.sendNormal_requestBuffer (s : State) (f : Frame) : (s.sendNormal f).requestBuffer = s.requestBuffer := by unfold State.sendNormal; split <;> rfl
@[simp] theorem State.sendNormal_cQueue (s : State) (f : Frame) : (s.sendNormal f).cQueue = s.cQueue := by unfold State.sendNormal; split <;> rfl
@[simp] theorem State.sendNormal_globals (s : State) (f : Frame) : (s.sendNormal f).globals = s.globals := by unfold State.sendNormal; split <;> rfl
@[simp] theorem State.sendNormal_latches (s : State) (f : Frame) : (s.sendNormal f).latches = s.latches := by unfold State.sendNormal; split <;> rfl
@[simp] theorem State.sendNormal_eventSeq (s : State) (f : Frame) : (s.sendNormal f).eventSeq = s.eventSeq := by unfold State.sendNormal; split <;> rfl
@[simp] theorem State.sendNormal_bankA (s : State) (f : Frame) : (s.sendNormal f).bankA = s.bankA := by unfold State.sendNormal; split <;> rfl
@[simp] theorem State.sendNormal_bankB (s : State) (f : Frame) : (s.sendNormal f).bankB = s.bankB := by unfold State.sendNormal; split <;> rfl
@[simp] theorem State.sendNormal_active (s : State) (f : Frame) : (s.sendNormal f).active = s.active := by unfold State.sendNormal; split <;> rfl
@[simp] theorem State.sendNormal_swap (s : State) (f : Frame) : (s.sendNormal f).swap = s.swap := by unfold State.sendNormal; split <;> rfl
@[simp] theorem State.sendNormal_swapTimer (s : State) (f : Frame) : (s.sendNormal f).swapTimer = s.swapTimer := by unfold State.sendNormal; split <;> rfl
@[simp] theorem State.sendNormal_contexts (s : State) (f : Frame) : (s.sendNormal f).contexts = s.contexts := by unfold State.sendNormal; split <;> rfl
@[simp] theorem State.sendNormal_classes (s : State) (f : Frame) : (s.sendNormal f).classes = s.classes := by unfold State.sendNormal; split <;> rfl
@[simp] theorem State.sendNormal_feeders (s : State) (f : Frame) : (s.sendNormal f).feeders = s.feeders := by unfold State.sendNormal; split <;> rfl
@[simp] theorem State.sendNormal_loads (s : State) (f : Frame) : (s.sendNormal f).loads = s.loads := by unfold State.sendNormal; split <;> rfl
@[simp] theorem State.sendNormal_sections (s : State) (f : Frame) : (s.sendNormal f).sections = s.sections := by unfold State.sendNormal; split <;> rfl
@[simp] theorem State.sendNormal_admission (s : State) (f : Frame) : (s.sendNormal f).admission = s.admission := by unfold State.sendNormal; split <;> rfl
@[simp] theorem State.sendNormal_meters (s : State) (f : Frame) : (s.sendNormal f).meters = s.meters := by unfold State.sendNormal; split <;> rfl
@[simp] theorem State.sendNormal_rings (s : State) (f : Frame) : (s.sendNormal f).rings = s.rings := by unfold State.sendNormal; split <;> rfl
@[simp] theorem State.sendNormal_samples (s : State) (f : Frame) : (s.sendNormal f).samples = s.samples := by unfold State.sendNormal; split <;> rfl
@[simp] theorem State.sendNormal_fresh (s : State) (f : Frame) : (s.sendNormal f).fresh = s.fresh := by unfold State.sendNormal; split <;> rfl
@[simp] theorem State.sendNormal_pending (s : State) (f : Frame) : (s.sendNormal f).pending = s.pending := by unfold State.sendNormal; split <;> rfl

/-! ### offerC -/

@[simp] theorem State.offerC_resetPin (s : State) (f : Frame) : (s.offerC f).resetPin = s.resetPin := by unfold State.offerC; split <;> rfl
@[simp] theorem State.offerC_stopLine (s : State) (f : Frame) : (s.offerC f).stopLine = s.stopLine := by unfold State.offerC; split <;> rfl
@[simp] theorem State.offerC_alert (s : State) (f : Frame) : (s.offerC f).alert = s.alert := by unfold State.offerC; split <;> rfl
@[simp] theorem State.offerC_cAddress (s : State) (f : Frame) : (s.offerC f).cAddress = s.cAddress := by unfold State.offerC; split <;> rfl
@[simp] theorem State.offerC_asmW (s : State) (f : Frame) : (s.offerC f).asmW = s.asmW := by unfold State.offerC; split <;> rfl
@[simp] theorem State.offerC_asmC (s : State) (f : Frame) : (s.offerC f).asmC = s.asmC := by unfold State.offerC; split <;> rfl
@[simp] theorem State.offerC_asmM (s : State) (f : Frame) : (s.offerC f).asmM = s.asmM := by unfold State.offerC; split <;> rfl
@[simp] theorem State.offerC_wSending (s : State) (f : Frame) : (s.offerC f).wSending = s.wSending := by unfold State.offerC; split <;> rfl
@[simp] theorem State.offerC_cSending (s : State) (f : Frame) : (s.offerC f).cSending = s.cSending := by unfold State.offerC; split <;> rfl
@[simp] theorem State.offerC_wRate (s : State) (f : Frame) : (s.offerC f).wRate = s.wRate := by unfold State.offerC; split <;> rfl
@[simp] theorem State.offerC_cRate (s : State) (f : Frame) : (s.offerC f).cRate = s.cRate := by unfold State.offerC; split <;> rfl
@[simp] theorem State.offerC_cRatePending (s : State) (f : Frame) : (s.offerC f).cRatePending = s.cRatePending := by unfold State.offerC; split <;> rfl
@[simp] theorem State.offerC_broadcast (s : State) (f : Frame) : (s.offerC f).broadcast = s.broadcast := by unfold State.offerC; split <;> rfl
@[simp] theorem State.offerC_normalQueue (s : State) (f : Frame) : (s.offerC f).normalQueue = s.normalQueue := by unfold State.offerC; split <;> rfl
@[simp] theorem State.offerC_requestBuffer (s : State) (f : Frame) : (s.offerC f).requestBuffer = s.requestBuffer := by unfold State.offerC; split <;> rfl
@[simp] theorem State.offerC_globals (s : State) (f : Frame) : (s.offerC f).globals = s.globals := by unfold State.offerC; split <;> rfl
@[simp] theorem State.offerC_latches (s : State) (f : Frame) : (s.offerC f).latches = s.latches := by unfold State.offerC; split <;> rfl
@[simp] theorem State.offerC_eventSeq (s : State) (f : Frame) : (s.offerC f).eventSeq = s.eventSeq := by unfold State.offerC; split <;> rfl
@[simp] theorem State.offerC_bankA (s : State) (f : Frame) : (s.offerC f).bankA = s.bankA := by unfold State.offerC; split <;> rfl
@[simp] theorem State.offerC_bankB (s : State) (f : Frame) : (s.offerC f).bankB = s.bankB := by unfold State.offerC; split <;> rfl
@[simp] theorem State.offerC_active (s : State) (f : Frame) : (s.offerC f).active = s.active := by unfold State.offerC; split <;> rfl
@[simp] theorem State.offerC_swap (s : State) (f : Frame) : (s.offerC f).swap = s.swap := by unfold State.offerC; split <;> rfl
@[simp] theorem State.offerC_swapTimer (s : State) (f : Frame) : (s.offerC f).swapTimer = s.swapTimer := by unfold State.offerC; split <;> rfl
@[simp] theorem State.offerC_contexts (s : State) (f : Frame) : (s.offerC f).contexts = s.contexts := by unfold State.offerC; split <;> rfl
@[simp] theorem State.offerC_classes (s : State) (f : Frame) : (s.offerC f).classes = s.classes := by unfold State.offerC; split <;> rfl
@[simp] theorem State.offerC_feeders (s : State) (f : Frame) : (s.offerC f).feeders = s.feeders := by unfold State.offerC; split <;> rfl
@[simp] theorem State.offerC_loads (s : State) (f : Frame) : (s.offerC f).loads = s.loads := by unfold State.offerC; split <;> rfl
@[simp] theorem State.offerC_sections (s : State) (f : Frame) : (s.offerC f).sections = s.sections := by unfold State.offerC; split <;> rfl
@[simp] theorem State.offerC_admission (s : State) (f : Frame) : (s.offerC f).admission = s.admission := by unfold State.offerC; split <;> rfl
@[simp] theorem State.offerC_meters (s : State) (f : Frame) : (s.offerC f).meters = s.meters := by unfold State.offerC; split <;> rfl
@[simp] theorem State.offerC_rings (s : State) (f : Frame) : (s.offerC f).rings = s.rings := by unfold State.offerC; split <;> rfl
@[simp] theorem State.offerC_samples (s : State) (f : Frame) : (s.offerC f).samples = s.samples := by unfold State.offerC; split <;> rfl
@[simp] theorem State.offerC_fresh (s : State) (f : Frame) : (s.offerC f).fresh = s.fresh := by unfold State.offerC; split <;> rfl
@[simp] theorem State.offerC_pending (s : State) (f : Frame) : (s.offerC f).pending = s.pending := by unfold State.offerC; split <;> rfl

/-! ### sendReply -/

@[simp] theorem State.sendReply_resetPin (s : State) (f : Frame) : (s.sendReply f).resetPin = s.resetPin := by unfold State.sendReply; split <;> rfl
@[simp] theorem State.sendReply_stopLine (s : State) (f : Frame) : (s.sendReply f).stopLine = s.stopLine := by unfold State.sendReply; split <;> rfl
@[simp] theorem State.sendReply_alert (s : State) (f : Frame) : (s.sendReply f).alert = s.alert := by unfold State.sendReply; split <;> rfl
@[simp] theorem State.sendReply_cAddress (s : State) (f : Frame) : (s.sendReply f).cAddress = s.cAddress := by unfold State.sendReply; split <;> rfl
@[simp] theorem State.sendReply_asmW (s : State) (f : Frame) : (s.sendReply f).asmW = s.asmW := by unfold State.sendReply; split <;> rfl
@[simp] theorem State.sendReply_asmC (s : State) (f : Frame) : (s.sendReply f).asmC = s.asmC := by unfold State.sendReply; split <;> rfl
@[simp] theorem State.sendReply_asmM (s : State) (f : Frame) : (s.sendReply f).asmM = s.asmM := by unfold State.sendReply; split <;> rfl
@[simp] theorem State.sendReply_wSending (s : State) (f : Frame) : (s.sendReply f).wSending = s.wSending := by unfold State.sendReply; split <;> rfl
@[simp] theorem State.sendReply_cSending (s : State) (f : Frame) : (s.sendReply f).cSending = s.cSending := by unfold State.sendReply; split <;> rfl
@[simp] theorem State.sendReply_wRate (s : State) (f : Frame) : (s.sendReply f).wRate = s.wRate := by unfold State.sendReply; split <;> rfl
@[simp] theorem State.sendReply_cRate (s : State) (f : Frame) : (s.sendReply f).cRate = s.cRate := by unfold State.sendReply; split <;> rfl
@[simp] theorem State.sendReply_cRatePending (s : State) (f : Frame) : (s.sendReply f).cRatePending = s.cRatePending := by unfold State.sendReply; split <;> rfl
@[simp] theorem State.sendReply_broadcast (s : State) (f : Frame) : (s.sendReply f).broadcast = s.broadcast := by unfold State.sendReply; split <;> rfl
@[simp] theorem State.sendReply_normalQueue (s : State) (f : Frame) : (s.sendReply f).normalQueue = s.normalQueue := by unfold State.sendReply; split <;> rfl
@[simp] theorem State.sendReply_requestBuffer (s : State) (f : Frame) : (s.sendReply f).requestBuffer = s.requestBuffer := by unfold State.sendReply; split <;> rfl
@[simp] theorem State.sendReply_globals (s : State) (f : Frame) : (s.sendReply f).globals = s.globals := by unfold State.sendReply; split <;> rfl
@[simp] theorem State.sendReply_latches (s : State) (f : Frame) : (s.sendReply f).latches = s.latches := by unfold State.sendReply; split <;> rfl
@[simp] theorem State.sendReply_eventSeq (s : State) (f : Frame) : (s.sendReply f).eventSeq = s.eventSeq := by unfold State.sendReply; split <;> rfl
@[simp] theorem State.sendReply_bankA (s : State) (f : Frame) : (s.sendReply f).bankA = s.bankA := by unfold State.sendReply; split <;> rfl
@[simp] theorem State.sendReply_bankB (s : State) (f : Frame) : (s.sendReply f).bankB = s.bankB := by unfold State.sendReply; split <;> rfl
@[simp] theorem State.sendReply_active (s : State) (f : Frame) : (s.sendReply f).active = s.active := by unfold State.sendReply; split <;> rfl
@[simp] theorem State.sendReply_swap (s : State) (f : Frame) : (s.sendReply f).swap = s.swap := by unfold State.sendReply; split <;> rfl
@[simp] theorem State.sendReply_swapTimer (s : State) (f : Frame) : (s.sendReply f).swapTimer = s.swapTimer := by unfold State.sendReply; split <;> rfl
@[simp] theorem State.sendReply_contexts (s : State) (f : Frame) : (s.sendReply f).contexts = s.contexts := by unfold State.sendReply; split <;> rfl
@[simp] theorem State.sendReply_classes (s : State) (f : Frame) : (s.sendReply f).classes = s.classes := by unfold State.sendReply; split <;> rfl
@[simp] theorem State.sendReply_feeders (s : State) (f : Frame) : (s.sendReply f).feeders = s.feeders := by unfold State.sendReply; split <;> rfl
@[simp] theorem State.sendReply_loads (s : State) (f : Frame) : (s.sendReply f).loads = s.loads := by unfold State.sendReply; split <;> rfl
@[simp] theorem State.sendReply_sections (s : State) (f : Frame) : (s.sendReply f).sections = s.sections := by unfold State.sendReply; split <;> rfl
@[simp] theorem State.sendReply_admission (s : State) (f : Frame) : (s.sendReply f).admission = s.admission := by unfold State.sendReply; split <;> rfl
@[simp] theorem State.sendReply_meters (s : State) (f : Frame) : (s.sendReply f).meters = s.meters := by unfold State.sendReply; split <;> rfl
@[simp] theorem State.sendReply_rings (s : State) (f : Frame) : (s.sendReply f).rings = s.rings := by unfold State.sendReply; split <;> rfl
@[simp] theorem State.sendReply_samples (s : State) (f : Frame) : (s.sendReply f).samples = s.samples := by unfold State.sendReply; split <;> rfl
@[simp] theorem State.sendReply_fresh (s : State) (f : Frame) : (s.sendReply f).fresh = s.fresh := by unfold State.sendReply; split <;> rfl
@[simp] theorem State.sendReply_pending (s : State) (f : Frame) : (s.sendReply f).pending = s.pending := by unfold State.sendReply; split <;> rfl

/-! ### evalAlert -/

@[simp] theorem State.evalAlert_resetPin (s : State) : (s.evalAlert).resetPin = s.resetPin := rfl
@[simp] theorem State.evalAlert_stopLine (s : State) : (s.evalAlert).stopLine = s.stopLine := rfl
@[simp] theorem State.evalAlert_cAddress (s : State) : (s.evalAlert).cAddress = s.cAddress := rfl
@[simp] theorem State.evalAlert_asmW (s : State) : (s.evalAlert).asmW = s.asmW := rfl
@[simp] theorem State.evalAlert_asmC (s : State) : (s.evalAlert).asmC = s.asmC := rfl
@[simp] theorem State.evalAlert_asmM (s : State) : (s.evalAlert).asmM = s.asmM := rfl
@[simp] theorem State.evalAlert_wSending (s : State) : (s.evalAlert).wSending = s.wSending := rfl
@[simp] theorem State.evalAlert_cSending (s : State) : (s.evalAlert).cSending = s.cSending := rfl
@[simp] theorem State.evalAlert_wRate (s : State) : (s.evalAlert).wRate = s.wRate := rfl
@[simp] theorem State.evalAlert_cRate (s : State) : (s.evalAlert).cRate = s.cRate := rfl
@[simp] theorem State.evalAlert_cRatePending (s : State) : (s.evalAlert).cRatePending = s.cRatePending := rfl
@[simp] theorem State.evalAlert_broadcast (s : State) : (s.evalAlert).broadcast = s.broadcast := rfl
@[simp] theorem State.evalAlert_normalQueue (s : State) : (s.evalAlert).normalQueue = s.normalQueue := rfl
@[simp] theorem State.evalAlert_requestBuffer (s : State) : (s.evalAlert).requestBuffer = s.requestBuffer := rfl
@[simp] theorem State.evalAlert_cQueue (s : State) : (s.evalAlert).cQueue = s.cQueue := rfl
@[simp] theorem State.evalAlert_globals (s : State) : (s.evalAlert).globals = s.globals := rfl
@[simp] theorem State.evalAlert_latches (s : State) : (s.evalAlert).latches = s.latches := rfl
@[simp] theorem State.evalAlert_eventSeq (s : State) : (s.evalAlert).eventSeq = s.eventSeq := rfl
@[simp] theorem State.evalAlert_counters (s : State) : (s.evalAlert).counters = s.counters := rfl
@[simp] theorem State.evalAlert_bankA (s : State) : (s.evalAlert).bankA = s.bankA := rfl
@[simp] theorem State.evalAlert_bankB (s : State) : (s.evalAlert).bankB = s.bankB := rfl
@[simp] theorem State.evalAlert_active (s : State) : (s.evalAlert).active = s.active := rfl
@[simp] theorem State.evalAlert_swap (s : State) : (s.evalAlert).swap = s.swap := rfl
@[simp] theorem State.evalAlert_swapTimer (s : State) : (s.evalAlert).swapTimer = s.swapTimer := rfl
@[simp] theorem State.evalAlert_contexts (s : State) : (s.evalAlert).contexts = s.contexts := rfl
@[simp] theorem State.evalAlert_classes (s : State) : (s.evalAlert).classes = s.classes := rfl
@[simp] theorem State.evalAlert_feeders (s : State) : (s.evalAlert).feeders = s.feeders := rfl
@[simp] theorem State.evalAlert_loads (s : State) : (s.evalAlert).loads = s.loads := rfl
@[simp] theorem State.evalAlert_sections (s : State) : (s.evalAlert).sections = s.sections := rfl
@[simp] theorem State.evalAlert_admission (s : State) : (s.evalAlert).admission = s.admission := rfl
@[simp] theorem State.evalAlert_meters (s : State) : (s.evalAlert).meters = s.meters := rfl
@[simp] theorem State.evalAlert_rings (s : State) : (s.evalAlert).rings = s.rings := rfl
@[simp] theorem State.evalAlert_samples (s : State) : (s.evalAlert).samples = s.samples := rfl
@[simp] theorem State.evalAlert_fresh (s : State) : (s.evalAlert).fresh = s.fresh := rfl
@[simp] theorem State.evalAlert_pending (s : State) : (s.evalAlert).pending = s.pending := rfl

/-! ### setLatch -/

@[simp] theorem State.setLatch_resetPin (s : State) (p : Fin 22) : (s.setLatch p).resetPin = s.resetPin := rfl
@[simp] theorem State.setLatch_stopLine (s : State) (p : Fin 22) : (s.setLatch p).stopLine = s.stopLine := rfl
@[simp] theorem State.setLatch_alert (s : State) (p : Fin 22) : (s.setLatch p).alert = s.alert := rfl
@[simp] theorem State.setLatch_cAddress (s : State) (p : Fin 22) : (s.setLatch p).cAddress = s.cAddress := rfl
@[simp] theorem State.setLatch_asmW (s : State) (p : Fin 22) : (s.setLatch p).asmW = s.asmW := rfl
@[simp] theorem State.setLatch_asmC (s : State) (p : Fin 22) : (s.setLatch p).asmC = s.asmC := rfl
@[simp] theorem State.setLatch_asmM (s : State) (p : Fin 22) : (s.setLatch p).asmM = s.asmM := rfl
@[simp] theorem State.setLatch_wSending (s : State) (p : Fin 22) : (s.setLatch p).wSending = s.wSending := rfl
@[simp] theorem State.setLatch_cSending (s : State) (p : Fin 22) : (s.setLatch p).cSending = s.cSending := rfl
@[simp] theorem State.setLatch_wRate (s : State) (p : Fin 22) : (s.setLatch p).wRate = s.wRate := rfl
@[simp] theorem State.setLatch_cRate (s : State) (p : Fin 22) : (s.setLatch p).cRate = s.cRate := rfl
@[simp] theorem State.setLatch_cRatePending (s : State) (p : Fin 22) : (s.setLatch p).cRatePending = s.cRatePending := rfl
@[simp] theorem State.setLatch_broadcast (s : State) (p : Fin 22) : (s.setLatch p).broadcast = s.broadcast := rfl
@[simp] theorem State.setLatch_normalQueue (s : State) (p : Fin 22) : (s.setLatch p).normalQueue = s.normalQueue := rfl
@[simp] theorem State.setLatch_requestBuffer (s : State) (p : Fin 22) : (s.setLatch p).requestBuffer = s.requestBuffer := rfl
@[simp] theorem State.setLatch_cQueue (s : State) (p : Fin 22) : (s.setLatch p).cQueue = s.cQueue := rfl
@[simp] theorem State.setLatch_globals (s : State) (p : Fin 22) : (s.setLatch p).globals = s.globals := rfl
@[simp] theorem State.setLatch_eventSeq (s : State) (p : Fin 22) : (s.setLatch p).eventSeq = s.eventSeq := rfl
@[simp] theorem State.setLatch_counters (s : State) (p : Fin 22) : (s.setLatch p).counters = s.counters := rfl
@[simp] theorem State.setLatch_bankA (s : State) (p : Fin 22) : (s.setLatch p).bankA = s.bankA := rfl
@[simp] theorem State.setLatch_bankB (s : State) (p : Fin 22) : (s.setLatch p).bankB = s.bankB := rfl
@[simp] theorem State.setLatch_active (s : State) (p : Fin 22) : (s.setLatch p).active = s.active := rfl
@[simp] theorem State.setLatch_swap (s : State) (p : Fin 22) : (s.setLatch p).swap = s.swap := rfl
@[simp] theorem State.setLatch_swapTimer (s : State) (p : Fin 22) : (s.setLatch p).swapTimer = s.swapTimer := rfl
@[simp] theorem State.setLatch_contexts (s : State) (p : Fin 22) : (s.setLatch p).contexts = s.contexts := rfl
@[simp] theorem State.setLatch_classes (s : State) (p : Fin 22) : (s.setLatch p).classes = s.classes := rfl
@[simp] theorem State.setLatch_feeders (s : State) (p : Fin 22) : (s.setLatch p).feeders = s.feeders := rfl
@[simp] theorem State.setLatch_loads (s : State) (p : Fin 22) : (s.setLatch p).loads = s.loads := rfl
@[simp] theorem State.setLatch_sections (s : State) (p : Fin 22) : (s.setLatch p).sections = s.sections := rfl
@[simp] theorem State.setLatch_admission (s : State) (p : Fin 22) : (s.setLatch p).admission = s.admission := rfl
@[simp] theorem State.setLatch_meters (s : State) (p : Fin 22) : (s.setLatch p).meters = s.meters := rfl
@[simp] theorem State.setLatch_rings (s : State) (p : Fin 22) : (s.setLatch p).rings = s.rings := rfl
@[simp] theorem State.setLatch_samples (s : State) (p : Fin 22) : (s.setLatch p).samples = s.samples := rfl
@[simp] theorem State.setLatch_fresh (s : State) (p : Fin 22) : (s.setLatch p).fresh = s.fresh := rfl
@[simp] theorem State.setLatch_pending (s : State) (p : Fin 22) : (s.setLatch p).pending = s.pending := rfl

/-! ### emitEvent -/

@[simp] theorem State.emitEvent_resetPin (s : State) (k : EventKind) (a b : Nat) : (s.emitEvent k a b).resetPin = s.resetPin := by unfold State.emitEvent; split <;> simp
@[simp] theorem State.emitEvent_stopLine (s : State) (k : EventKind) (a b : Nat) : (s.emitEvent k a b).stopLine = s.stopLine := by unfold State.emitEvent; split <;> simp
@[simp] theorem State.emitEvent_alert (s : State) (k : EventKind) (a b : Nat) : (s.emitEvent k a b).alert = s.alert := by unfold State.emitEvent; split <;> simp
@[simp] theorem State.emitEvent_cAddress (s : State) (k : EventKind) (a b : Nat) : (s.emitEvent k a b).cAddress = s.cAddress := by unfold State.emitEvent; split <;> simp
@[simp] theorem State.emitEvent_asmW (s : State) (k : EventKind) (a b : Nat) : (s.emitEvent k a b).asmW = s.asmW := by unfold State.emitEvent; split <;> simp
@[simp] theorem State.emitEvent_asmC (s : State) (k : EventKind) (a b : Nat) : (s.emitEvent k a b).asmC = s.asmC := by unfold State.emitEvent; split <;> simp
@[simp] theorem State.emitEvent_asmM (s : State) (k : EventKind) (a b : Nat) : (s.emitEvent k a b).asmM = s.asmM := by unfold State.emitEvent; split <;> simp
@[simp] theorem State.emitEvent_wSending (s : State) (k : EventKind) (a b : Nat) : (s.emitEvent k a b).wSending = s.wSending := by unfold State.emitEvent; split <;> simp
@[simp] theorem State.emitEvent_cSending (s : State) (k : EventKind) (a b : Nat) : (s.emitEvent k a b).cSending = s.cSending := by unfold State.emitEvent; split <;> simp
@[simp] theorem State.emitEvent_wRate (s : State) (k : EventKind) (a b : Nat) : (s.emitEvent k a b).wRate = s.wRate := by unfold State.emitEvent; split <;> simp
@[simp] theorem State.emitEvent_cRate (s : State) (k : EventKind) (a b : Nat) : (s.emitEvent k a b).cRate = s.cRate := by unfold State.emitEvent; split <;> simp
@[simp] theorem State.emitEvent_cRatePending (s : State) (k : EventKind) (a b : Nat) : (s.emitEvent k a b).cRatePending = s.cRatePending := by unfold State.emitEvent; split <;> simp
@[simp] theorem State.emitEvent_broadcast (s : State) (k : EventKind) (a b : Nat) : (s.emitEvent k a b).broadcast = s.broadcast := by unfold State.emitEvent; split <;> simp
@[simp] theorem State.emitEvent_normalQueue (s : State) (k : EventKind) (a b : Nat) : (s.emitEvent k a b).normalQueue = s.normalQueue := by unfold State.emitEvent; split <;> simp
@[simp] theorem State.emitEvent_requestBuffer (s : State) (k : EventKind) (a b : Nat) : (s.emitEvent k a b).requestBuffer = s.requestBuffer := by unfold State.emitEvent; split <;> simp
@[simp] theorem State.emitEvent_globals (s : State) (k : EventKind) (a b : Nat) : (s.emitEvent k a b).globals = s.globals := by unfold State.emitEvent; split <;> simp
@[simp] theorem State.emitEvent_latches (s : State) (k : EventKind) (a b : Nat) : (s.emitEvent k a b).latches = s.latches := by unfold State.emitEvent; split <;> simp
@[simp] theorem State.emitEvent_bankA (s : State) (k : EventKind) (a b : Nat) : (s.emitEvent k a b).bankA = s.bankA := by unfold State.emitEvent; split <;> simp
@[simp] theorem State.emitEvent_bankB (s : State) (k : EventKind) (a b : Nat) : (s.emitEvent k a b).bankB = s.bankB := by unfold State.emitEvent; split <;> simp
@[simp] theorem State.emitEvent_active (s : State) (k : EventKind) (a b : Nat) : (s.emitEvent k a b).active = s.active := by unfold State.emitEvent; split <;> simp
@[simp] theorem State.emitEvent_swap (s : State) (k : EventKind) (a b : Nat) : (s.emitEvent k a b).swap = s.swap := by unfold State.emitEvent; split <;> simp
@[simp] theorem State.emitEvent_swapTimer (s : State) (k : EventKind) (a b : Nat) : (s.emitEvent k a b).swapTimer = s.swapTimer := by unfold State.emitEvent; split <;> simp
@[simp] theorem State.emitEvent_contexts (s : State) (k : EventKind) (a b : Nat) : (s.emitEvent k a b).contexts = s.contexts := by unfold State.emitEvent; split <;> simp
@[simp] theorem State.emitEvent_classes (s : State) (k : EventKind) (a b : Nat) : (s.emitEvent k a b).classes = s.classes := by unfold State.emitEvent; split <;> simp
@[simp] theorem State.emitEvent_feeders (s : State) (k : EventKind) (a b : Nat) : (s.emitEvent k a b).feeders = s.feeders := by unfold State.emitEvent; split <;> simp
@[simp] theorem State.emitEvent_loads (s : State) (k : EventKind) (a b : Nat) : (s.emitEvent k a b).loads = s.loads := by unfold State.emitEvent; split <;> simp
@[simp] theorem State.emitEvent_sections (s : State) (k : EventKind) (a b : Nat) : (s.emitEvent k a b).sections = s.sections := by unfold State.emitEvent; split <;> simp
@[simp] theorem State.emitEvent_admission (s : State) (k : EventKind) (a b : Nat) : (s.emitEvent k a b).admission = s.admission := by unfold State.emitEvent; split <;> simp
@[simp] theorem State.emitEvent_meters (s : State) (k : EventKind) (a b : Nat) : (s.emitEvent k a b).meters = s.meters := by unfold State.emitEvent; split <;> simp
@[simp] theorem State.emitEvent_rings (s : State) (k : EventKind) (a b : Nat) : (s.emitEvent k a b).rings = s.rings := by unfold State.emitEvent; split <;> simp
@[simp] theorem State.emitEvent_samples (s : State) (k : EventKind) (a b : Nat) : (s.emitEvent k a b).samples = s.samples := by unfold State.emitEvent; split <;> simp
@[simp] theorem State.emitEvent_fresh (s : State) (k : EventKind) (a b : Nat) : (s.emitEvent k a b).fresh = s.fresh := by unfold State.emitEvent; split <;> simp
@[simp] theorem State.emitEvent_pending (s : State) (k : EventKind) (a b : Nat) : (s.emitEvent k a b).pending = s.pending := by unfold State.emitEvent; split <;> simp

/-! ### report -/

@[simp] theorem State.report_resetPin (s : State) (k : EventKind) (a b : Nat) : (s.report k a b).resetPin = s.resetPin := by simp [State.report]
@[simp] theorem State.report_stopLine (s : State) (k : EventKind) (a b : Nat) : (s.report k a b).stopLine = s.stopLine := by simp [State.report]
@[simp] theorem State.report_cAddress (s : State) (k : EventKind) (a b : Nat) : (s.report k a b).cAddress = s.cAddress := by simp [State.report]
@[simp] theorem State.report_asmW (s : State) (k : EventKind) (a b : Nat) : (s.report k a b).asmW = s.asmW := by simp [State.report]
@[simp] theorem State.report_asmC (s : State) (k : EventKind) (a b : Nat) : (s.report k a b).asmC = s.asmC := by simp [State.report]
@[simp] theorem State.report_asmM (s : State) (k : EventKind) (a b : Nat) : (s.report k a b).asmM = s.asmM := by simp [State.report]
@[simp] theorem State.report_wSending (s : State) (k : EventKind) (a b : Nat) : (s.report k a b).wSending = s.wSending := by simp [State.report]
@[simp] theorem State.report_cSending (s : State) (k : EventKind) (a b : Nat) : (s.report k a b).cSending = s.cSending := by simp [State.report]
@[simp] theorem State.report_wRate (s : State) (k : EventKind) (a b : Nat) : (s.report k a b).wRate = s.wRate := by simp [State.report]
@[simp] theorem State.report_cRate (s : State) (k : EventKind) (a b : Nat) : (s.report k a b).cRate = s.cRate := by simp [State.report]
@[simp] theorem State.report_cRatePending (s : State) (k : EventKind) (a b : Nat) : (s.report k a b).cRatePending = s.cRatePending := by simp [State.report]
@[simp] theorem State.report_broadcast (s : State) (k : EventKind) (a b : Nat) : (s.report k a b).broadcast = s.broadcast := by simp [State.report]
@[simp] theorem State.report_normalQueue (s : State) (k : EventKind) (a b : Nat) : (s.report k a b).normalQueue = s.normalQueue := by simp [State.report]
@[simp] theorem State.report_requestBuffer (s : State) (k : EventKind) (a b : Nat) : (s.report k a b).requestBuffer = s.requestBuffer := by simp [State.report]
@[simp] theorem State.report_globals (s : State) (k : EventKind) (a b : Nat) : (s.report k a b).globals = s.globals := by simp [State.report]
@[simp] theorem State.report_bankA (s : State) (k : EventKind) (a b : Nat) : (s.report k a b).bankA = s.bankA := by simp [State.report]
@[simp] theorem State.report_bankB (s : State) (k : EventKind) (a b : Nat) : (s.report k a b).bankB = s.bankB := by simp [State.report]
@[simp] theorem State.report_active (s : State) (k : EventKind) (a b : Nat) : (s.report k a b).active = s.active := by simp [State.report]
@[simp] theorem State.report_swap (s : State) (k : EventKind) (a b : Nat) : (s.report k a b).swap = s.swap := by simp [State.report]
@[simp] theorem State.report_swapTimer (s : State) (k : EventKind) (a b : Nat) : (s.report k a b).swapTimer = s.swapTimer := by simp [State.report]
@[simp] theorem State.report_contexts (s : State) (k : EventKind) (a b : Nat) : (s.report k a b).contexts = s.contexts := by simp [State.report]
@[simp] theorem State.report_classes (s : State) (k : EventKind) (a b : Nat) : (s.report k a b).classes = s.classes := by simp [State.report]
@[simp] theorem State.report_feeders (s : State) (k : EventKind) (a b : Nat) : (s.report k a b).feeders = s.feeders := by simp [State.report]
@[simp] theorem State.report_loads (s : State) (k : EventKind) (a b : Nat) : (s.report k a b).loads = s.loads := by simp [State.report]
@[simp] theorem State.report_sections (s : State) (k : EventKind) (a b : Nat) : (s.report k a b).sections = s.sections := by simp [State.report]
@[simp] theorem State.report_admission (s : State) (k : EventKind) (a b : Nat) : (s.report k a b).admission = s.admission := by simp [State.report]
@[simp] theorem State.report_meters (s : State) (k : EventKind) (a b : Nat) : (s.report k a b).meters = s.meters := by simp [State.report]
@[simp] theorem State.report_rings (s : State) (k : EventKind) (a b : Nat) : (s.report k a b).rings = s.rings := by simp [State.report]
@[simp] theorem State.report_samples (s : State) (k : EventKind) (a b : Nat) : (s.report k a b).samples = s.samples := by simp [State.report]
@[simp] theorem State.report_fresh (s : State) (k : EventKind) (a b : Nat) : (s.report k a b).fresh = s.fresh := by simp [State.report]
@[simp] theorem State.report_pending (s : State) (k : EventKind) (a b : Nat) : (s.report k a b).pending = s.pending := by simp [State.report]

/-! ### Reading a record after an update -/

theorem State.modCtx_ctx (s : State) (i i' : Slot) (g : Context → Context) :
    (s.modCtx i g).ctx i' = if i = i' then g (s.ctx i) else s.ctx i' := by
  simp [State.modCtx, State.ctx, State.setCtx, Vector.getElem_set, Fin.ext_iff]

@[simp] theorem State.modCtx_ctx_self (s : State) (i : Slot) (g : Context → Context) : (s.modCtx i g).ctx i = g (s.ctx i) := by
  simp [State.modCtx_ctx]

theorem State.modCtx_ctx_other (s : State) {i i' : Slot} (g : Context → Context) (h : i ≠ i') :
    (s.modCtx i g).ctx i' = s.ctx i' := by
  simp [State.modCtx_ctx, h]

theorem State.modFdr_fdr (s : State) (f f' : FeederId) (g : Feeder → Feeder) :
    (s.modFdr f g).fdr f' = if f = f' then g (s.fdr f) else s.fdr f' := by
  simp [State.modFdr, State.fdr, Vector.getElem_set, Fin.ext_iff]

@[simp] theorem State.modFdr_fdr_self (s : State) (f : FeederId) (g : Feeder → Feeder) : (s.modFdr f g).fdr f = g (s.fdr f) := by
  simp [State.modFdr_fdr]

theorem State.modFdr_fdr_other (s : State) {f f' : FeederId} (g : Feeder → Feeder) (h : f ≠ f') :
    (s.modFdr f g).fdr f' = s.fdr f' := by
  simp [State.modFdr_fdr, h]

theorem State.modLoad_load (s : State) (x x' : SectionId) (g : Nat → Nat) :
    (s.modLoad x g).load x' = if x = x' then g (s.load x) else s.load x' := by
  simp [State.modLoad, State.load, Vector.getElem_set, Fin.ext_iff]

@[simp] theorem State.modLoad_load_self (s : State) (x : SectionId) (g : Nat → Nat) : (s.modLoad x g).load x = g (s.load x) := by
  simp [State.modLoad_load]

theorem State.modLoad_load_other (s : State) {x x' : SectionId} (g : Nat → Nat) (h : x ≠ x') :
    (s.modLoad x g).load x' = s.load x' := by
  simp [State.modLoad_load, h]

theorem State.modSec_sec (s : State) (x x' : SectionId) (g : SectionRec → SectionRec) :
    (s.modSec x g).sec x' = if x = x' then g (s.sec x) else s.sec x' := by
  simp [State.modSec, State.sec, Vector.getElem_set, Fin.ext_iff]

@[simp] theorem State.modSec_sec_self (s : State) (x : SectionId) (g : SectionRec → SectionRec) : (s.modSec x g).sec x = g (s.sec x) := by
  simp [State.modSec_sec]

theorem State.modSec_sec_other (s : State) {x x' : SectionId} (g : SectionRec → SectionRec) (h : x ≠ x') :
    (s.modSec x g).sec x' = s.sec x' := by
  simp [State.modSec_sec, h]

theorem State.modMeter_meter (s : State) (f f' : FeederId) (g : Meter → Meter) :
    (s.modMeter f g).meter f' = if f = f' then g (s.meter f) else s.meter f' := by
  simp [State.modMeter, State.meter, Vector.getElem_set, Fin.ext_iff]

@[simp] theorem State.modMeter_meter_self (s : State) (f : FeederId) (g : Meter → Meter) : (s.modMeter f g).meter f = g (s.meter f) := by
  simp [State.modMeter_meter]

theorem State.modMeter_meter_other (s : State) {f f' : FeederId} (g : Meter → Meter) (h : f ≠ f') :
    (s.modMeter f g).meter f' = s.meter f' := by
  simp [State.modMeter_meter, h]

theorem State.modRing_ring (s : State) (f f' : FeederId) (g : Ring → Ring) :
    (s.modRing f g).ring f' = if f = f' then g (s.ring f) else s.ring f' := by
  simp [State.modRing, State.ring, Vector.getElem_set, Fin.ext_iff]

@[simp] theorem State.modRing_ring_self (s : State) (f : FeederId) (g : Ring → Ring) : (s.modRing f g).ring f = g (s.ring f) := by
  simp [State.modRing_ring]

theorem State.modRing_ring_other (s : State) {f f' : FeederId} (g : Ring → Ring) (h : f ≠ f') :
    (s.modRing f g).ring f' = s.ring f' := by
  simp [State.modRing_ring, h]

theorem State.setCtx_ctx (s : State) (i j : Slot) (c : Context) : (s.setCtx i c).ctx j = if i = j then c else s.ctx j := by
  simp [State.setCtx, State.ctx, Vector.getElem_set, Fin.ext_iff]

/-! ### Reading a record that an update does not touch -/

@[simp] theorem State.setCtx_fdr' (s : State) (i : Slot) (c : Context) (z : FeederId) : (s.setCtx i c).fdr z = s.fdr z := by simp [State.fdr]
@[simp] theorem State.setCtx_load' (s : State) (i : Slot) (c : Context) (z : SectionId) : (s.setCtx i c).load z = s.load z := by simp [State.load]
@[simp] theorem State.setCtx_sec' (s : State) (i : Slot) (c : Context) (z : SectionId) : (s.setCtx i c).sec z = s.sec z := by simp [State.sec]
@[simp] theorem State.setCtx_meter' (s : State) (i : Slot) (c : Context) (z : FeederId) : (s.setCtx i c).meter z = s.meter z := by simp [State.meter]
@[simp] theorem State.setCtx_ring' (s : State) (i : Slot) (c : Context) (z : FeederId) : (s.setCtx i c).ring z = s.ring z := by simp [State.ring]
@[simp] theorem State.modCtx_fdr' (s : State) (i : Slot) (g : Context → Context) (z : FeederId) : (s.modCtx i g).fdr z = s.fdr z := by simp [State.fdr]
@[simp] theorem State.modCtx_load' (s : State) (i : Slot) (g : Context → Context) (z : SectionId) : (s.modCtx i g).load z = s.load z := by simp [State.load]
@[simp] theorem State.modCtx_sec' (s : State) (i : Slot) (g : Context → Context) (z : SectionId) : (s.modCtx i g).sec z = s.sec z := by simp [State.sec]
@[simp] theorem State.modCtx_meter' (s : State) (i : Slot) (g : Context → Context) (z : FeederId) : (s.modCtx i g).meter z = s.meter z := by simp [State.meter]
@[simp] theorem State.modCtx_ring' (s : State) (i : Slot) (g : Context → Context) (z : FeederId) : (s.modCtx i g).ring z = s.ring z := by simp [State.ring]
@[simp] theorem State.modFdr_ctx' (s : State) (f : FeederId) (g : Feeder → Feeder) (z : Slot) : (s.modFdr f g).ctx z = s.ctx z := by simp [State.ctx]
@[simp] theorem State.modFdr_load' (s : State) (f : FeederId) (g : Feeder → Feeder) (z : SectionId) : (s.modFdr f g).load z = s.load z := by simp [State.load]
@[simp] theorem State.modFdr_sec' (s : State) (f : FeederId) (g : Feeder → Feeder) (z : SectionId) : (s.modFdr f g).sec z = s.sec z := by simp [State.sec]
@[simp] theorem State.modFdr_meter' (s : State) (f : FeederId) (g : Feeder → Feeder) (z : FeederId) : (s.modFdr f g).meter z = s.meter z := by simp [State.meter]
@[simp] theorem State.modFdr_ring' (s : State) (f : FeederId) (g : Feeder → Feeder) (z : FeederId) : (s.modFdr f g).ring z = s.ring z := by simp [State.ring]
@[simp] theorem State.modLoad_ctx' (s : State) (x : SectionId) (g : Nat → Nat) (z : Slot) : (s.modLoad x g).ctx z = s.ctx z := by simp [State.ctx]
@[simp] theorem State.modLoad_fdr' (s : State) (x : SectionId) (g : Nat → Nat) (z : FeederId) : (s.modLoad x g).fdr z = s.fdr z := by simp [State.fdr]
@[simp] theorem State.modLoad_sec' (s : State) (x : SectionId) (g : Nat → Nat) (z : SectionId) : (s.modLoad x g).sec z = s.sec z := by simp [State.sec]
@[simp] theorem State.modLoad_meter' (s : State) (x : SectionId) (g : Nat → Nat) (z : FeederId) : (s.modLoad x g).meter z = s.meter z := by simp [State.meter]
@[simp] theorem State.modLoad_ring' (s : State) (x : SectionId) (g : Nat → Nat) (z : FeederId) : (s.modLoad x g).ring z = s.ring z := by simp [State.ring]
@[simp] theorem State.modSec_ctx' (s : State) (x : SectionId) (g : SectionRec → SectionRec) (z : Slot) : (s.modSec x g).ctx z = s.ctx z := by simp [State.ctx]
@[simp] theorem State.modSec_fdr' (s : State) (x : SectionId) (g : SectionRec → SectionRec) (z : FeederId) : (s.modSec x g).fdr z = s.fdr z := by simp [State.fdr]
@[simp] theorem State.modSec_load' (s : State) (x : SectionId) (g : SectionRec → SectionRec) (z : SectionId) : (s.modSec x g).load z = s.load z := by simp [State.load]
@[simp] theorem State.modSec_meter' (s : State) (x : SectionId) (g : SectionRec → SectionRec) (z : FeederId) : (s.modSec x g).meter z = s.meter z := by simp [State.meter]
@[simp] theorem State.modSec_ring' (s : State) (x : SectionId) (g : SectionRec → SectionRec) (z : FeederId) : (s.modSec x g).ring z = s.ring z := by simp [State.ring]
@[simp] theorem State.modMeter_ctx' (s : State) (f : FeederId) (g : Meter → Meter) (z : Slot) : (s.modMeter f g).ctx z = s.ctx z := by simp [State.ctx]
@[simp] theorem State.modMeter_fdr' (s : State) (f : FeederId) (g : Meter → Meter) (z : FeederId) : (s.modMeter f g).fdr z = s.fdr z := by simp [State.fdr]
@[simp] theorem State.modMeter_load' (s : State) (f : FeederId) (g : Meter → Meter) (z : SectionId) : (s.modMeter f g).load z = s.load z := by simp [State.load]
@[simp] theorem State.modMeter_sec' (s : State) (f : FeederId) (g : Meter → Meter) (z : SectionId) : (s.modMeter f g).sec z = s.sec z := by simp [State.sec]
@[simp] theorem State.modMeter_ring' (s : State) (f : FeederId) (g : Meter → Meter) (z : FeederId) : (s.modMeter f g).ring z = s.ring z := by simp [State.ring]
@[simp] theorem State.modRing_ctx' (s : State) (f : FeederId) (g : Ring → Ring) (z : Slot) : (s.modRing f g).ctx z = s.ctx z := by simp [State.ctx]
@[simp] theorem State.modRing_fdr' (s : State) (f : FeederId) (g : Ring → Ring) (z : FeederId) : (s.modRing f g).fdr z = s.fdr z := by simp [State.fdr]
@[simp] theorem State.modRing_load' (s : State) (f : FeederId) (g : Ring → Ring) (z : SectionId) : (s.modRing f g).load z = s.load z := by simp [State.load]
@[simp] theorem State.modRing_sec' (s : State) (f : FeederId) (g : Ring → Ring) (z : SectionId) : (s.modRing f g).sec z = s.sec z := by simp [State.sec]
@[simp] theorem State.modRing_meter' (s : State) (f : FeederId) (g : Ring → Ring) (z : FeederId) : (s.modRing f g).meter z = s.meter z := by simp [State.meter]
@[simp] theorem State.modLink_ctx' (s : State) (l : Link) (g : LinkCounters → LinkCounters) (z : Slot) : (s.modLink l g).ctx z = s.ctx z := by simp [State.ctx]
@[simp] theorem State.modLink_fdr' (s : State) (l : Link) (g : LinkCounters → LinkCounters) (z : FeederId) : (s.modLink l g).fdr z = s.fdr z := by simp [State.fdr]
@[simp] theorem State.modLink_load' (s : State) (l : Link) (g : LinkCounters → LinkCounters) (z : SectionId) : (s.modLink l g).load z = s.load z := by simp [State.load]
@[simp] theorem State.modLink_sec' (s : State) (l : Link) (g : LinkCounters → LinkCounters) (z : SectionId) : (s.modLink l g).sec z = s.sec z := by simp [State.sec]
@[simp] theorem State.modLink_meter' (s : State) (l : Link) (g : LinkCounters → LinkCounters) (z : FeederId) : (s.modLink l g).meter z = s.meter z := by simp [State.meter]
@[simp] theorem State.modLink_ring' (s : State) (l : Link) (g : LinkCounters → LinkCounters) (z : FeederId) : (s.modLink l g).ring z = s.ring z := by simp [State.ring]
@[simp] theorem State.countTxDrop_ctx' (s : State) (l : Link) (z : Slot) : (s.countTxDrop l).ctx z = s.ctx z := by simp [State.ctx]
@[simp] theorem State.countTxDrop_fdr' (s : State) (l : Link) (z : FeederId) : (s.countTxDrop l).fdr z = s.fdr z := by simp [State.fdr]
@[simp] theorem State.countTxDrop_load' (s : State) (l : Link) (z : SectionId) : (s.countTxDrop l).load z = s.load z := by simp [State.load]
@[simp] theorem State.countTxDrop_sec' (s : State) (l : Link) (z : SectionId) : (s.countTxDrop l).sec z = s.sec z := by simp [State.sec]
@[simp] theorem State.countTxDrop_meter' (s : State) (l : Link) (z : FeederId) : (s.countTxDrop l).meter z = s.meter z := by simp [State.meter]
@[simp] theorem State.countTxDrop_ring' (s : State) (l : Link) (z : FeederId) : (s.countTxDrop l).ring z = s.ring z := by simp [State.ring]
@[simp] theorem State.countGood_ctx' (s : State) (l : Link) (z : Slot) : (s.countGood l).ctx z = s.ctx z := by simp [State.ctx]
@[simp] theorem State.countGood_fdr' (s : State) (l : Link) (z : FeederId) : (s.countGood l).fdr z = s.fdr z := by simp [State.fdr]
@[simp] theorem State.countGood_load' (s : State) (l : Link) (z : SectionId) : (s.countGood l).load z = s.load z := by simp [State.load]
@[simp] theorem State.countGood_sec' (s : State) (l : Link) (z : SectionId) : (s.countGood l).sec z = s.sec z := by simp [State.sec]
@[simp] theorem State.countGood_meter' (s : State) (l : Link) (z : FeederId) : (s.countGood l).meter z = s.meter z := by simp [State.meter]
@[simp] theorem State.countGood_ring' (s : State) (l : Link) (z : FeederId) : (s.countGood l).ring z = s.ring z := by simp [State.ring]
@[simp] theorem State.countForeign_ctx' (s : State) (l : Link) (z : Slot) : (s.countForeign l).ctx z = s.ctx z := by simp [State.ctx]
@[simp] theorem State.countForeign_fdr' (s : State) (l : Link) (z : FeederId) : (s.countForeign l).fdr z = s.fdr z := by simp [State.fdr]
@[simp] theorem State.countForeign_load' (s : State) (l : Link) (z : SectionId) : (s.countForeign l).load z = s.load z := by simp [State.load]
@[simp] theorem State.countForeign_sec' (s : State) (l : Link) (z : SectionId) : (s.countForeign l).sec z = s.sec z := by simp [State.sec]
@[simp] theorem State.countForeign_meter' (s : State) (l : Link) (z : FeederId) : (s.countForeign l).meter z = s.meter z := by simp [State.meter]
@[simp] theorem State.countForeign_ring' (s : State) (l : Link) (z : FeederId) : (s.countForeign l).ring z = s.ring z := by simp [State.ring]
@[simp] theorem State.sendNormal_ctx' (s : State) (f : Frame) (z : Slot) : (s.sendNormal f).ctx z = s.ctx z := by simp [State.ctx]
@[simp] theorem State.sendNormal_fdr' (s : State) (f : Frame) (z : FeederId) : (s.sendNormal f).fdr z = s.fdr z := by simp [State.fdr]
@[simp] theorem State.sendNormal_load' (s : State) (f : Frame) (z : SectionId) : (s.sendNormal f).load z = s.load z := by simp [State.load]
@[simp] theorem State.sendNormal_sec' (s : State) (f : Frame) (z : SectionId) : (s.sendNormal f).sec z = s.sec z := by simp [State.sec]
@[simp] theorem State.sendNormal_meter' (s : State) (f : Frame) (z : FeederId) : (s.sendNormal f).meter z = s.meter z := by simp [State.meter]
@[simp] theorem State.sendNormal_ring' (s : State) (f : Frame) (z : FeederId) : (s.sendNormal f).ring z = s.ring z := by simp [State.ring]
@[simp] theorem State.offerC_ctx' (s : State) (f : Frame) (z : Slot) : (s.offerC f).ctx z = s.ctx z := by simp [State.ctx]
@[simp] theorem State.offerC_fdr' (s : State) (f : Frame) (z : FeederId) : (s.offerC f).fdr z = s.fdr z := by simp [State.fdr]
@[simp] theorem State.offerC_load' (s : State) (f : Frame) (z : SectionId) : (s.offerC f).load z = s.load z := by simp [State.load]
@[simp] theorem State.offerC_sec' (s : State) (f : Frame) (z : SectionId) : (s.offerC f).sec z = s.sec z := by simp [State.sec]
@[simp] theorem State.offerC_meter' (s : State) (f : Frame) (z : FeederId) : (s.offerC f).meter z = s.meter z := by simp [State.meter]
@[simp] theorem State.offerC_ring' (s : State) (f : Frame) (z : FeederId) : (s.offerC f).ring z = s.ring z := by simp [State.ring]
@[simp] theorem State.sendReply_ctx' (s : State) (f : Frame) (z : Slot) : (s.sendReply f).ctx z = s.ctx z := by simp [State.ctx]
@[simp] theorem State.sendReply_fdr' (s : State) (f : Frame) (z : FeederId) : (s.sendReply f).fdr z = s.fdr z := by simp [State.fdr]
@[simp] theorem State.sendReply_load' (s : State) (f : Frame) (z : SectionId) : (s.sendReply f).load z = s.load z := by simp [State.load]
@[simp] theorem State.sendReply_sec' (s : State) (f : Frame) (z : SectionId) : (s.sendReply f).sec z = s.sec z := by simp [State.sec]
@[simp] theorem State.sendReply_meter' (s : State) (f : Frame) (z : FeederId) : (s.sendReply f).meter z = s.meter z := by simp [State.meter]
@[simp] theorem State.sendReply_ring' (s : State) (f : Frame) (z : FeederId) : (s.sendReply f).ring z = s.ring z := by simp [State.ring]
@[simp] theorem State.evalAlert_ctx' (s : State) (z : Slot) : (s.evalAlert).ctx z = s.ctx z := by simp [State.ctx]
@[simp] theorem State.evalAlert_fdr' (s : State) (z : FeederId) : (s.evalAlert).fdr z = s.fdr z := by simp [State.fdr]
@[simp] theorem State.evalAlert_load' (s : State) (z : SectionId) : (s.evalAlert).load z = s.load z := by simp [State.load]
@[simp] theorem State.evalAlert_sec' (s : State) (z : SectionId) : (s.evalAlert).sec z = s.sec z := by simp [State.sec]
@[simp] theorem State.evalAlert_meter' (s : State) (z : FeederId) : (s.evalAlert).meter z = s.meter z := by simp [State.meter]
@[simp] theorem State.evalAlert_ring' (s : State) (z : FeederId) : (s.evalAlert).ring z = s.ring z := by simp [State.ring]
@[simp] theorem State.setLatch_ctx' (s : State) (p : Fin 22) (z : Slot) : (s.setLatch p).ctx z = s.ctx z := by simp [State.ctx]
@[simp] theorem State.setLatch_fdr' (s : State) (p : Fin 22) (z : FeederId) : (s.setLatch p).fdr z = s.fdr z := by simp [State.fdr]
@[simp] theorem State.setLatch_load' (s : State) (p : Fin 22) (z : SectionId) : (s.setLatch p).load z = s.load z := by simp [State.load]
@[simp] theorem State.setLatch_sec' (s : State) (p : Fin 22) (z : SectionId) : (s.setLatch p).sec z = s.sec z := by simp [State.sec]
@[simp] theorem State.setLatch_meter' (s : State) (p : Fin 22) (z : FeederId) : (s.setLatch p).meter z = s.meter z := by simp [State.meter]
@[simp] theorem State.setLatch_ring' (s : State) (p : Fin 22) (z : FeederId) : (s.setLatch p).ring z = s.ring z := by simp [State.ring]
@[simp] theorem State.emitEvent_ctx' (s : State) (k : EventKind) (a b : Nat) (z : Slot) : (s.emitEvent k a b).ctx z = s.ctx z := by simp [State.ctx]
@[simp] theorem State.emitEvent_fdr' (s : State) (k : EventKind) (a b : Nat) (z : FeederId) : (s.emitEvent k a b).fdr z = s.fdr z := by simp [State.fdr]
@[simp] theorem State.emitEvent_load' (s : State) (k : EventKind) (a b : Nat) (z : SectionId) : (s.emitEvent k a b).load z = s.load z := by simp [State.load]
@[simp] theorem State.emitEvent_sec' (s : State) (k : EventKind) (a b : Nat) (z : SectionId) : (s.emitEvent k a b).sec z = s.sec z := by simp [State.sec]
@[simp] theorem State.emitEvent_meter' (s : State) (k : EventKind) (a b : Nat) (z : FeederId) : (s.emitEvent k a b).meter z = s.meter z := by simp [State.meter]
@[simp] theorem State.emitEvent_ring' (s : State) (k : EventKind) (a b : Nat) (z : FeederId) : (s.emitEvent k a b).ring z = s.ring z := by simp [State.ring]
@[simp] theorem State.report_ctx' (s : State) (k : EventKind) (a b : Nat) (z : Slot) : (s.report k a b).ctx z = s.ctx z := by simp [State.ctx]
@[simp] theorem State.report_fdr' (s : State) (k : EventKind) (a b : Nat) (z : FeederId) : (s.report k a b).fdr z = s.fdr z := by simp [State.fdr]
@[simp] theorem State.report_load' (s : State) (k : EventKind) (a b : Nat) (z : SectionId) : (s.report k a b).load z = s.load z := by simp [State.load]
@[simp] theorem State.report_sec' (s : State) (k : EventKind) (a b : Nat) (z : SectionId) : (s.report k a b).sec z = s.sec z := by simp [State.sec]
@[simp] theorem State.report_meter' (s : State) (k : EventKind) (a b : Nat) (z : FeederId) : (s.report k a b).meter z = s.meter z := by simp [State.meter]
@[simp] theorem State.report_ring' (s : State) (k : EventKind) (a b : Nat) (z : FeederId) : (s.report k a b).ring z = s.ring z := by simp [State.ring]

end Sys2Proof.Machine
end

