-- ==== Sys2Proof/Laws/Budget.lean ====
section
/-! SUPPORT. The budgets: every change of a grant, offer or reservation keeps committed current and loads at their sums (R66, R67). -/

namespace Sys2Proof.Machine
open Sys2Proof

/-! ### Who is told -/

/-- Telling the section controller of a holder changes no context, feeder or load. -/
theorem State.tellHolder_same (s s0 : State) (x : SectionId) :
    (s.tellHolder s0 x).contexts = s.contexts ∧ (s.tellHolder s0 x).feeders = s.feeders ∧ (s.tellHolder s0 x).loads = s.loads := by
  unfold State.tellHolder
  split
  · split <;> simp
  · simp
  · simp
  · simp

/-- Telling the section controller of a grant or offer changes no context, feeder or load. -/
theorem State.tellHold_same (s s0 : State) (h : Option Holding) :
    (s.tellHold s0 h).contexts = s.contexts ∧ (s.tellHold s0 h).feeders = s.feeders ∧ (s.tellHold s0 h).loads = s.loads := by
  cases h with
  | none => exact ⟨rfl, rfl, rfl⟩
  | some g => exact s.tellHolder_same s0 g.sect

/-! ### What a commitment does -/

theorem State.commitHold_committed (s : State) (h : Option Holding) (f : FeederId) :
    ((s.commitHold h).fdr f).committed = (s.fdr f).committed + heldOn f h := by
  cases h with
  | none => simp [State.commitHold, heldOn]
  | some g =>
    by_cases hf : g.feeder = f
    · subst hf; simp [State.commitHold, State.commit, heldOn]
    · simp [State.commitHold, State.commit, heldOn, hf, State.modFdr_fdr_other _ _ hf]

theorem State.commitHold_load (s : State) (h : Option Holding) (x : SectionId) :
    (s.commitHold h).load x = s.load x + heldIn x h := by
  cases h with
  | none => simp [State.commitHold, heldIn]
  | some g =>
    by_cases hx : g.sect = x
    · subst hx; simp [State.commitHold, State.commit, heldIn]
    · simp [State.commitHold, State.commit, heldIn, hx, State.modLoad_load_other _ _ hx]

theorem State.uncommitHold_committed (s : State) (h : Option Holding) (f : FeederId) :
    ((s.uncommitHold h).fdr f).committed = (s.fdr f).committed - heldOn f h := by
  cases h with
  | none => simp [State.uncommitHold, heldOn]
  | some g =>
    by_cases hf : g.feeder = f
    · subst hf; simp [State.uncommitHold, State.uncommit, heldOn]
    · simp [State.uncommitHold, State.uncommit, heldOn, hf, State.modFdr_fdr_other _ _ hf]

theorem State.uncommitHold_load (s : State) (h : Option Holding) (x : SectionId) :
    (s.uncommitHold h).load x = s.load x - heldIn x h := by
  cases h with
  | none => simp [State.uncommitHold, heldIn]
  | some g =>
    by_cases hx : g.sect = x
    · subst hx; simp [State.uncommitHold, State.uncommit, heldIn]
    · simp [State.uncommitHold, State.uncommit, heldIn, hx, State.modLoad_load_other _ _ hx]

theorem State.commitHold_contexts (s : State) (h : Option Holding) : (s.commitHold h).contexts = s.contexts := by
  cases h <;> rfl

theorem State.uncommitHold_contexts (s : State) (h : Option Holding) : (s.uncommitHold h).contexts = s.contexts := by
  cases h <;> rfl

/-! ### The state after a change of a holding -/

/-- Committed current after the grant or offer of a context is replaced. -/
theorem State.setHold_committed (s : State) (i : Slot) (h : Option Holding) (f : FeederId) :
    ((s.setHold i h).fdr f).committed = (s.fdr f).committed + heldOn f h - heldOn f (s.ctx i).hold := by
  unfold State.setHold
  dsimp only
  unfold State.fdr
  rw [(State.tellHold_same _ _ _).2.1, (State.tellHold_same _ _ _).2.1]
  show (State.fdr _ f).committed = _
  rw [State.modCtx_fdr', State.uncommitHold_committed, State.commitHold_committed]
  rfl

/-- A section's load after the grant or offer of a context is replaced. -/
theorem State.setHold_load (s : State) (i : Slot) (h : Option Holding) (x : SectionId) :
    (s.setHold i h).load x = s.load x + heldIn x h - heldIn x (s.ctx i).hold := by
  unfold State.setHold
  dsimp only
  unfold State.load
  rw [(State.tellHold_same _ _ _).2.2, (State.tellHold_same _ _ _).2.2]
  show State.load _ x = _
  rw [State.modCtx_load', State.uncommitHold_load, State.commitHold_load]
  rfl

/-- The contexts after the grant or offer of one is replaced. -/
theorem State.setHold_ctx (s : State) (i j : Slot) (h : Option Holding) :
    (s.setHold i h).ctx j = if i = j then { s.ctx i with hold := h } else s.ctx j := by
  unfold State.setHold
  dsimp only
  unfold State.ctx
  rw [(State.tellHold_same _ _ _).1, (State.tellHold_same _ _ _).1]
  show State.ctx _ j = _
  rw [State.modCtx_ctx]
  simp only [State.ctx, State.uncommitHold_contexts, State.commitHold_contexts]

/-- Committed current after the gap fields of a context are replaced. -/
theorem State.setGap_committed (s : State) (i : Slot) (g : GapFields) (f : FeederId) :
    ((s.setGap i g).fdr f).committed = (s.fdr f).committed + heldOn f g.reserved - heldOn f (s.ctx i).gap.reserved := by
  unfold State.setGap
  dsimp only
  unfold State.fdr
  rw [(State.tellHold_same _ _ _).2.1, (State.tellHold_same _ _ _).2.1]
  show (State.fdr _ f).committed = _
  rw [State.modCtx_fdr', State.uncommitHold_committed, State.commitHold_committed]
  rfl

/-- A section's load after the gap fields of a context are replaced. -/
theorem State.setGap_load (s : State) (i : Slot) (g : GapFields) (x : SectionId) :
    (s.setGap i g).load x = s.load x + heldIn x g.reserved - heldIn x (s.ctx i).gap.reserved := by
  unfold State.setGap
  dsimp only
  unfold State.load
  rw [(State.tellHold_same _ _ _).2.2, (State.tellHold_same _ _ _).2.2]
  show State.load _ x = _
  rw [State.modCtx_load', State.uncommitHold_load, State.commitHold_load]
  rfl

/-- The contexts after the gap fields of one are replaced. -/
theorem State.setGap_ctx (s : State) (i j : Slot) (g : GapFields) :
    (s.setGap i g).ctx j = if i = j then { s.ctx i with gap := g } else s.ctx j := by
  unfold State.setGap
  dsimp only
  unfold State.ctx
  rw [(State.tellHold_same _ _ _).1, (State.tellHold_same _ _ _).1]
  show State.ctx _ j = _
  rw [State.modCtx_ctx]
  simp only [State.ctx, State.uncommitHold_contexts, State.commitHold_contexts]

/-! ### Sums over the contexts -/

/-- A list without a slot sums the same where only that slot differs. -/
theorem sum_same_of_not_mem {i : Slot} {a b : Slot → Nat} (hr : ∀ j, i ≠ j → b j = a j) :
    ∀ l : List Slot, i ∉ l → (l.map b).sum = (l.map a).sum
  | [], _ => rfl
  | j :: l, h => by
    rw [List.map_cons, List.map_cons, List.sum_cons, List.sum_cons, hr j (fun e => h (e ▸ List.mem_cons_self ..)),
      sum_same_of_not_mem hr l (fun m => h (List.mem_cons_of_mem _ m))]

/-- A sum over slots where one slot alone differs. -/
theorem sum_change {i : Slot} {a b : Slot → Nat} (hr : ∀ j, i ≠ j → b j = a j) :
    ∀ l : List Slot, l.Nodup → i ∈ l → (l.map b).sum + a i = (l.map a).sum + b i
  | [], _, h => absurd h (List.not_mem_nil)
  | j :: l, hn, h => by
    rw [List.map_cons, List.map_cons, List.sum_cons, List.sum_cons]
    rw [List.nodup_cons] at hn
    by_cases hj : i = j
    · subst hj
      rw [sum_same_of_not_mem hr l hn.1]
      omega
    · have := sum_change hr l hn.2 ((List.mem_cons.1 h).resolve_left hj)
      rw [hr j hj]
      omega

theorem allSlots_nodup : allSlots.Nodup := List.nodup_finRange 48

theorem mem_allSlots (i : Slot) : i ∈ allSlots := List.mem_finRange i

/-- The sum over every slot where one slot alone differs. -/
theorem sum_allSlots_change {i : Slot} {a b : Slot → Nat} (hr : ∀ j, i ≠ j → b j = a j) :
    (allSlots.map b).sum + a i = (allSlots.map a).sum + b i := sum_change hr allSlots allSlots_nodup (mem_allSlots i)

/-- A change that moves one context's part and the totals alike keeps the budgets. -/
theorem budgetsAgree_change {s t : State} (i : Slot) (hr : ∀ j, i ≠ j → t.ctx j = s.ctx j)
    (hf : ∀ f, (s.fdr f).committed = s.feederSum f → (t.fdr f).committed + (s.ctx i).onFeeder f = (s.fdr f).committed + (t.ctx i).onFeeder f)
    (hx : ∀ x, s.load x = s.sectionSum x → t.load x + (s.ctx i).inSection x = s.load x + (t.ctx i).inSection x) (h : s.budgetsAgree) : t.budgetsAgree := by
  refine ⟨fun f => ?_, fun x => ?_⟩
  · have h1 := sum_allSlots_change (i := i) (a := fun j => (s.ctx j).onFeeder f) (b := fun j => (t.ctx j).onFeeder f)
      (fun j hj => by rw [hr j hj])
    have h2 := hf f (h.1 f)
    have h3 := h.1 f
    unfold State.feederSum at *
    omega
  · have h1 := sum_allSlots_change (i := i) (a := fun j => (s.ctx j).inSection x) (b := fun j => (t.ctx j).inSection x)
      (fun j hj => by rw [hr j hj])
    have h2 := hx x (h.2 x)
    have h3 := h.2 x
    unfold State.sectionSum at *
    omega

theorem le_sum_of_mem {a : Slot → Nat} {i : Slot} : ∀ l : List Slot, i ∈ l → a i ≤ (l.map a).sum
  | [], h => absurd h (List.not_mem_nil)
  | j :: l, h => by
    rw [List.map_cons, List.sum_cons]
    rcases List.mem_cons.1 h with rfl | h
    · omega
    · have := le_sum_of_mem (a := a) l h
      omega

/-- What one context puts on a feeder is at most the feeder's sum. -/
theorem onFeeder_le_feederSum (s : State) (i : Slot) (f : FeederId) : (s.ctx i).onFeeder f ≤ s.feederSum f :=
  le_sum_of_mem (a := fun j => (s.ctx j).onFeeder f) allSlots (mem_allSlots i)

/-- What one context puts on a section is at most the section's sum. -/
theorem inSection_le_sectionSum (s : State) (i : Slot) (x : SectionId) : (s.ctx i).inSection x ≤ s.sectionSum x :=
  le_sum_of_mem (a := fun j => (s.ctx j).inSection x) allSlots (mem_allSlots i)

/-- Replacing a grant or offer keeps the budgets (R66, R67). -/
theorem budgetsAgree_setHold {s : State} (i : Slot) (g : Option Holding) (h : s.budgetsAgree) : (s.setHold i g).budgetsAgree := by
  refine budgetsAgree_change i (fun j hj => by rw [State.setHold_ctx, if_neg hj]) (fun f hf => ?_) (fun x hx => ?_) h
  · have := onFeeder_le_feederSum s i f
    rw [State.setHold_committed, State.setHold_ctx, if_pos rfl]
    unfold Context.onFeeder at *
    dsimp only
    omega
  · have := inSection_le_sectionSum s i x
    rw [State.setHold_load, State.setHold_ctx, if_pos rfl]
    unfold Context.inSection at *
    dsimp only
    omega

/-- Replacing the gap fields keeps the budgets (R66, R67). -/
theorem budgetsAgree_setGap {s : State} (i : Slot) (g : GapFields) (h : s.budgetsAgree) : (s.setGap i g).budgetsAgree := by
  refine budgetsAgree_change i (fun j hj => by rw [State.setGap_ctx, if_neg hj]) (fun f hf => ?_) (fun x hx => ?_) h
  · have := onFeeder_le_feederSum s i f
    rw [State.setGap_committed, State.setGap_ctx, if_pos rfl]
    unfold Context.onFeeder at *
    dsimp only
    omega
  · have := inSection_le_sectionSum s i x
    rw [State.setGap_load, State.setGap_ctx, if_pos rfl]
    unfold Context.inSection at *
    dsimp only
    omega

/-- A change of contexts, feeders and loads that leaves every holding and every total keeps the budgets. -/
theorem budgetsAgree_of_same {s t : State} (hc : ∀ j, (t.ctx j).hold = (s.ctx j).hold ∧ (t.ctx j).gap.reserved = (s.ctx j).gap.reserved)
    (hf : ∀ f, (t.fdr f).committed = (s.fdr f).committed) (hl : ∀ x, t.load x = s.load x) (h : s.budgetsAgree) : t.budgetsAgree := by
  refine ⟨fun f => ?_, fun x => ?_⟩
  · rw [hf, h.1 f]
    unfold State.feederSum Context.onFeeder
    simp only [hc]
  · rw [hl, h.2 x]
    unfold State.sectionSum Context.inSection
    simp only [hc]

end Sys2Proof.Machine
end

