-- ==== Sys2Proof/Laws/Holders.lean ====
section
/-! SUPPORT. What a change of a holding, an entry or a whole context can touch: contexts, feeders, loads and idle timers, and nothing else. -/

namespace Sys2Proof.Machine
open Sys2Proof

/-- Two states differ in contexts, feeders, loads and section records alone, and no section changed its state or lockout. -/
structure HoldersOnly (s t : State) : Prop where
  rest : t = { s with contexts := t.contexts, feeders := t.feeders, loads := t.loads, sections := t.sections }
  states : ∀ x, (t.sec x).state = (s.sec x).state
  lockouts : ∀ x, (t.sec x).lockout = (s.sec x).lockout

namespace HoldersOnly
variable {s t u : State}

theorem refl (s : State) : HoldersOnly s s := ⟨rfl, fun _ => rfl, fun _ => rfl⟩

theorem trans (h : HoldersOnly s t) (k : HoldersOnly t u) : HoldersOnly s u := by
  refine ⟨?_, fun x => (k.states x).trans (h.states x), fun x => (k.lockouts x).trans (h.lockouts x)⟩
  rw [k.rest, h.rest]

theorem setCtx (s : State) (i : Slot) (c : Context) : HoldersOnly s (s.setCtx i c) := ⟨rfl, fun _ => rfl, fun _ => rfl⟩

theorem modCtx (s : State) (i : Slot) (g : Context → Context) : HoldersOnly s (s.modCtx i g) := ⟨rfl, fun _ => rfl, fun _ => rfl⟩

theorem modFdr (s : State) (f : FeederId) (g : Feeder → Feeder) : HoldersOnly s (s.modFdr f g) := ⟨rfl, fun _ => rfl, fun _ => rfl⟩

theorem modLoad (s : State) (x : SectionId) (g : Nat → Nat) : HoldersOnly s (s.modLoad x g) := ⟨rfl, fun _ => rfl, fun _ => rfl⟩

theorem modSec (s : State) (x : SectionId) {g : SectionRec → SectionRec} (hg : ∀ r, (g r).state = r.state ∧ (g r).lockout = r.lockout) :
    HoldersOnly s (s.modSec x g) := by
  refine ⟨rfl, fun y => ?_, fun y => ?_⟩ <;> by_cases h : x = y
  · subst h; rw [State.modSec_sec_self, (hg _).1]
  · rw [State.modSec_sec_other _ _ h]
  · subst h; rw [State.modSec_sec_self, (hg _).2]
  · rw [State.modSec_sec_other _ _ h]

theorem tellHolder (s s0 : State) (x : SectionId) : HoldersOnly s (s.tellHolder s0 x) := by
  unfold State.tellHolder
  split
  · split
    · exact modSec _ _ (fun _ => ⟨rfl, rfl⟩)
    · exact refl _
  · exact modSec _ _ (fun _ => ⟨rfl, rfl⟩)
  · exact refl _
  · exact refl _

theorem tellHold (s s0 : State) (h : Option Holding) : HoldersOnly s (s.tellHold s0 h) := by
  cases h with
  | none => exact refl _
  | some g => exact tellHolder _ _ _

theorem commitHold (s : State) (h : Option Holding) : HoldersOnly s (s.commitHold h) := by
  cases h with
  | none => exact refl _
  | some g => exact ⟨rfl, fun _ => rfl, fun _ => rfl⟩

theorem uncommitHold (s : State) (h : Option Holding) : HoldersOnly s (s.uncommitHold h) := by
  cases h with
  | none => exact refl _
  | some g => exact ⟨rfl, fun _ => rfl, fun _ => rfl⟩

/-- Replacing a grant or offer. -/
theorem setHold (s : State) (i : Slot) (h : Option Holding) : HoldersOnly s (s.setHold i h) :=
  ((((commitHold s h).trans (uncommitHold _ _)).trans (modCtx _ _ _)).trans (tellHold _ _ _)).trans (tellHold _ _ _)

/-- Replacing the gap fields. -/
theorem setGap (s : State) (i : Slot) (g : GapFields) : HoldersOnly s (s.setGap i g) :=
  ((((commitHold s g.reserved).trans (uncommitHold _ _)).trans (modCtx _ _ _)).trans (tellHold _ _ _)).trans (tellHold _ _ _)

theorem releaseHold (s : State) (i : Slot) : HoldersOnly s (s.releaseHold i) := by
  unfold State.releaseHold
  split
  · exact refl _
  · exact (setHold _ _ _).trans (modFdr _ _ _)

/-- Removing an entry. -/
theorem dropEntry (s : State) (i : Slot) : HoldersOnly s (s.dropEntry i) := by
  unfold State.dropEntry
  split
  · exact refl _
  · exact (modFdr _ _ _).trans (tellHolder _ _ _)

/-- Adding an entry. -/
theorem addEntry (s : State) (i : Slot) (f : FeederId) (l : Level) (x : SectionId) (k : Mark) :
    HoldersOnly s (s.addEntry i f l x k) := ((dropEntry s i).trans (modFdr _ _ _)).trans (tellHolder _ _ _)

/-- Giving up everything. -/
theorem giveUp (s : State) (i : Slot) (st : CtxState) : HoldersOnly s (s.giveUp i st) :=
  (((releaseHold s i).trans (setGap _ _ _)).trans (dropEntry _ _)).trans (modCtx _ _ _)

/-- Freeing a slot. -/
theorem freeQuiet (s : State) (i : Slot) : HoldersOnly s (s.freeQuiet i) :=
  (((releaseHold s i).trans (setGap _ _ _)).trans (dropEntry _ _)).trans (setCtx _ _ _)

end HoldersOnly

/-! ### Entries leave holdings alone -/

theorem State.leaveOrder_ctx (s : State) (i : Slot) (f : FeederId) (j : Slot) : (s.leaveOrder i f).ctx j = s.ctx j := rfl

/-- A released grant or offer is gone; the context's other fields and the other contexts stand. -/
theorem State.releaseHold_ctx (s : State) (i j : Slot) :
    (s.releaseHold i).ctx j = if i = j then { s.ctx i with hold := none } else s.ctx j := by
  unfold State.releaseHold
  split
  · next h =>
    split
    · next hj => subst hj; rw [← h]
    · rfl
  · rw [State.leaveOrder_ctx, State.setHold_ctx]

/-- Removing an entry changes no context. -/
theorem State.dropEntry_ctx (s : State) (i j : Slot) : (s.dropEntry i).ctx j = s.ctx j := by
  unfold State.dropEntry
  split
  · rfl
  · unfold State.ctx
    rw [(State.tellHolder_same _ _ _).1]
    rfl

/-- Removing an entry changes no committed current. -/
theorem State.dropEntry_committed (s : State) (i : Slot) (f : FeederId) :
    ((s.dropEntry i).fdr f).committed = (s.fdr f).committed := by
  unfold State.dropEntry
  split
  · rfl
  · next m _ =>
    unfold State.fdr
    rw [(State.tellHolder_same _ _ _).2.1]
    show (State.fdr _ f).committed = _
    by_cases h : m.feeder = f
    · subst h
      rw [State.modFdr_fdr_self]
      cases m.level <;> rfl
    · rw [State.modFdr_fdr_other _ _ h]
      rfl

/-- Removing an entry changes no load. -/
theorem State.dropEntry_load (s : State) (i : Slot) (x : SectionId) : (s.dropEntry i).load x = s.load x := by
  unfold State.dropEntry
  split
  · rfl
  · unfold State.load
    rw [(State.tellHolder_same _ _ _).2.2]
    rfl

/-- Giving up everything leaves the other contexts, and the context in its new state with nothing held. -/
theorem State.giveUp_ctx (s : State) (i j : Slot) (st : CtxState) :
    (s.giveUp i st).ctx j =
      if i = j then Context.settled { s.ctx i with hold := none, gap := GapFields.clear } st else s.ctx j := by
  unfold State.giveUp
  rw [State.modCtx_ctx]
  simp only [State.dropEntry_ctx, State.setGap_ctx, State.releaseHold_ctx, if_true]
  split <;> rfl

end Sys2Proof.Machine
end

