-- ==== Sys2Proof/Laws/Arbitration.lean ====
section
/-! SUPPORT. What arbitration can do: offers and reservations for contexts in QUEUED and CROSSING, their frames, and nothing else (R77, R78). -/

namespace Sys2Proof.Machine
open Sys2Proof

/-- A context waits: it is QUEUED or CROSSING. -/
def Context.waits (c : Context) : Bool := c.state == .queued || c.state == .crossing

/-- What serving waiting contexts may change. -/
structure Served (s t : State) : Prop where
  rest : t = { s with contexts := t.contexts, feeders := t.feeders, loads := t.loads, sections := t.sections
                      normalQueue := t.normalQueue, counters := t.counters }
  states : ∀ x, (t.sec x).state = (s.sec x).state
  others : ∀ i, (s.ctx i).waits = false → t.ctx i = s.ctx i
  queued : ∀ i, (s.ctx i).state = .queued → (t.ctx i).state = .queued ∨ (t.ctx i).state = .offered
  crossing : ∀ i, (s.ctx i).state = .crossing → (t.ctx i).state = .crossing
  records : ∀ f, (t.fdr f).config = (s.fdr f).config ∧ (t.fdr f).state = (s.fdr f).state
    ∧ (t.fdr f).overload = (s.fdr f).overload ∧ (t.fdr f).meterLost = (s.fdr f).meterLost
    ∧ (t.fdr f).grantOrder = (s.fdr f).grantOrder
  frames : s.normalQueue <+: t.normalQueue
  counts : t.counters = { s.counters with w := { s.counters.w with txDrops := t.counters.w.txDrops } }

namespace Served
variable {s t u : State}

theorem refl (s : State) : Served s s :=
  ⟨rfl, fun _ => rfl, fun _ _ => rfl, fun _ h => .inl h, fun _ h => h, fun _ => ⟨rfl, rfl, rfl, rfl, rfl⟩, List.prefix_refl _, rfl⟩

theorem waits_iff (c : Context) : c.waits = false ↔ c.state ≠ .queued ∧ c.state ≠ .crossing := by
  unfold Context.waits
  cases c.state <;> simp

theorem trans (h : Served s t) (k : Served t u) : Served s u where
  rest := by rw [k.rest, h.rest]
  states := fun x => (k.states x).trans (h.states x)
  others := fun i hi => by
    have h1 := h.others i hi
    rw [← h1] at hi
    exact (k.others i hi).trans h1
  queued := fun i hi => by
    rcases h.queued i hi with h1 | h1
    · exact k.queued i h1
    · have : (t.ctx i).waits = false := by rw [waits_iff, h1]; simp
      rw [k.others i this]
      exact .inr h1
  crossing := fun i hi => k.crossing i (h.crossing i hi)
  records := fun f => by
    obtain ⟨a1, a2, a3, a4, a5⟩ := h.records f
    obtain ⟨b1, b2, b3, b4, b5⟩ := k.records f
    exact ⟨b1.trans a1, b2.trans a2, b3.trans a3, b4.trans a4, b5.trans a5⟩
  frames := h.frames.trans k.frames
  counts := by rw [k.counts, h.counts]

/-- A frame handed to the normal queue. -/
theorem sendNormal (s : State) (f : Frame) : Served s (s.sendNormal f) := by
  unfold State.sendNormal
  split
  · exact ⟨rfl, fun _ => rfl, fun _ _ => rfl, fun _ h => .inl h, fun _ h => h, fun _ => ⟨rfl, rfl, rfl, rfl, rfl⟩, ⟨[f], rfl⟩, rfl⟩
  · exact ⟨rfl, fun _ => rfl, fun _ _ => rfl, fun _ h => .inl h, fun _ h => h, fun _ => ⟨rfl, rfl, rfl, rfl, rfl⟩, List.prefix_refl _, rfl⟩

/-- A change that leaves the records of feeders but for committed current, turn and wait lists, and contexts alone. -/
theorem ofHolders (h : HoldersOnly s t) (hc : ∀ i, (s.ctx i).waits = false → t.ctx i = s.ctx i)
    (hq : ∀ i, (s.ctx i).state = .queued → (t.ctx i).state = .queued ∨ (t.ctx i).state = .offered)
    (hx : ∀ i, (s.ctx i).state = .crossing → (t.ctx i).state = .crossing)
    (hf : ∀ f, (t.fdr f).config = (s.fdr f).config ∧ (t.fdr f).state = (s.fdr f).state
      ∧ (t.fdr f).overload = (s.fdr f).overload ∧ (t.fdr f).meterLost = (s.fdr f).meterLost
      ∧ (t.fdr f).grantOrder = (s.fdr f).grantOrder) : Served s t where
  rest := by rw [h.rest]
  states := h.states
  others := hc
  queued := hq
  crossing := hx
  records := hf
  frames := by rw [h.rest]
  counts := by rw [h.rest]

theorem records_modFdr (s : State) (g : FeederId) {m : Feeder → Feeder}
    (hm : ∀ d, (m d).config = d.config ∧ (m d).state = d.state ∧ (m d).overload = d.overload ∧ (m d).meterLost = d.meterLost
      ∧ (m d).grantOrder = d.grantOrder) (f : FeederId) :
    ((s.modFdr g m).fdr f).config = (s.fdr f).config ∧ ((s.modFdr g m).fdr f).state = (s.fdr f).state
      ∧ ((s.modFdr g m).fdr f).overload = (s.fdr f).overload ∧ ((s.modFdr g m).fdr f).meterLost = (s.fdr f).meterLost
      ∧ ((s.modFdr g m).fdr f).grantOrder = (s.fdr f).grantOrder := by
  by_cases h : g = f
  · subst h
    rw [State.modFdr_fdr_self]
    exact hm _
  · rw [State.modFdr_fdr_other _ _ h]
    exact ⟨rfl, rfl, rfl, rfl, rfl⟩

theorem modFdr (s : State) (g : FeederId) {m : Feeder → Feeder}
    (hm : ∀ d, (m d).config = d.config ∧ (m d).state = d.state ∧ (m d).overload = d.overload ∧ (m d).meterLost = d.meterLost
      ∧ (m d).grantOrder = d.grantOrder) : Served s (s.modFdr g m) :=
  ofHolders (HoldersOnly.modFdr _ _ _) (fun _ _ => rfl) (fun _ h => .inl h) (fun _ h => h) (records_modFdr s g hm)

theorem setWait_records (d : Feeder) (l : Level) (es : List Entry) :
    (d.setWait l es).config = d.config ∧ (d.setWait l es).state = d.state ∧ (d.setWait l es).overload = d.overload
      ∧ (d.setWait l es).meterLost = d.meterLost ∧ (d.setWait l es).grantOrder = d.grantOrder := by
  cases l <;> exact ⟨rfl, rfl, rfl, rfl, rfl⟩

theorem tellHolder (s s0 : State) (x : SectionId) : Served s (s.tellHolder s0 x) := by
  have h := State.tellHolder_same s s0 x
  refine ofHolders (HoldersOnly.tellHolder _ _ _) (fun i _ => ?_) (fun i hi => .inl ?_) (fun i hi => ?_) (fun f => ?_)
  · simp only [State.ctx, h.1]
  · simpa only [State.ctx, h.1] using hi
  · simpa only [State.ctx, h.1] using hi
  · simp only [State.fdr, h.2.1, and_self]

theorem tellHold (s s0 : State) (g : Option Holding) : Served s (s.tellHold s0 g) := by
  cases g with
  | none => exact refl _
  | some g => exact tellHolder _ _ _

theorem dropEntry (s : State) (i : Slot) : Served s (s.dropEntry i) := by
  unfold State.dropEntry
  split
  · exact refl _
  · exact (modFdr _ _ (fun d => setWait_records _ _ _)).trans (tellHolder _ _ _)

theorem commitHold (s : State) (g : Option Holding) : Served s (s.commitHold g) := by
  cases g with
  | none => exact refl _
  | some g =>
    exact ofHolders (HoldersOnly.commitHold s (some g)) (fun _ _ => rfl) (fun _ h => .inl h) (fun _ h => h)
      (records_modFdr s g.feeder (m := fun d => { d with committed := d.committed + g.amount }) (fun _ => ⟨rfl, rfl, rfl, rfl, rfl⟩))

theorem uncommitHold (s : State) (g : Option Holding) : Served s (s.uncommitHold g) := by
  cases g with
  | none => exact refl _
  | some g =>
    exact ofHolders (HoldersOnly.uncommitHold s (some g)) (fun _ _ => rfl) (fun _ h => .inl h) (fun _ h => h)
      (records_modFdr s g.feeder (m := fun d => { d with committed := d.committed - g.amount }) (fun _ => ⟨rfl, rfl, rfl, rfl, rfl⟩))

/-- A change of one waiting context that keeps it waiting, or offers to it. -/
theorem modCtx (s : State) (i : Slot) {g : Context → Context} (hw : (s.ctx i).waits = true)
    (hq : (s.ctx i).state = .queued → (g (s.ctx i)).state = .queued ∨ (g (s.ctx i)).state = .offered)
    (hx : (s.ctx i).state = .crossing → (g (s.ctx i)).state = .crossing) : Served s (s.modCtx i g) := by
  refine ofHolders (HoldersOnly.modCtx _ _ _) (fun j hj => ?_) (fun j hj => ?_) (fun j hj => ?_) (fun _ => ⟨rfl, rfl, rfl, rfl, rfl⟩)
  · have : i ≠ j := by rintro rfl; simp [hj] at hw
    exact State.modCtx_ctx_other _ _ this
  · by_cases h : i = j
    · subst h; rw [State.modCtx_ctx_self]; exact hq hj
    · rw [State.modCtx_ctx_other _ _ h]; exact .inl hj
  · by_cases h : i = j
    · subst h; rw [State.modCtx_ctx_self]; exact hx hj
    · rw [State.modCtx_ctx_other _ _ h]; exact hj

theorem setHold (s : State) (i : Slot) (g : Option Holding) (hw : (s.ctx i).waits = true) : Served s (s.setHold i g) := by
  have h1 := (commitHold s g).trans (uncommitHold (s.commitHold g) (s.ctx i).hold)
  have hc : ((s.commitHold g).uncommitHold (s.ctx i).hold).ctx i = s.ctx i := by
    simp only [State.ctx, State.uncommitHold_contexts, State.commitHold_contexts]
  have h2 := modCtx ((s.commitHold g).uncommitHold (s.ctx i).hold) i (g := fun c => { c with hold := g }) (by rw [hc]; exact hw)
    (fun h => .inl h) (fun h => h)
  exact ((h1.trans h2).trans (tellHold _ _ _)).trans (tellHold _ _ _)

theorem setGap (s : State) (i : Slot) (g : GapFields) (hw : (s.ctx i).waits = true) : Served s (s.setGap i g) := by
  have h1 := (commitHold s g.reserved).trans (uncommitHold (s.commitHold g.reserved) (s.ctx i).gap.reserved)
  have hc : ((s.commitHold g.reserved).uncommitHold (s.ctx i).gap.reserved).ctx i = s.ctx i := by
    simp only [State.ctx, State.uncommitHold_contexts, State.commitHold_contexts]
  have h2 := modCtx ((s.commitHold g.reserved).uncommitHold (s.ctx i).gap.reserved) i (g := fun c => { c with gap := g })
    (by rw [hc]; exact hw) (fun h => .inl h) (fun h => h)
  exact ((h1.trans h2).trans (tellHold _ _ _)).trans (tellHold _ _ _)

theorem sendOfr (s : State) (i : Slot) (g : Byte) : Served s (s.sendOfr i g) := by
  unfold State.sendOfr
  dsimp only
  split
  · exact refl _
  · exact sendNormal _ _

/-- An offer to a QUEUED context. -/
theorem makeOffer (s : State) (i : Slot) (f : FeederId) (x : SectionId) (h : (s.ctx i).state = .queued) :
    Served s (s.makeOffer i f x) := by
  have hw : (s.ctx i).waits = true := by unfold Context.waits; rw [h]; rfl
  have h1 := (setHold s i (some ⟨s.candidate i f x, f, x⟩) hw).trans (dropEntry _ i)
  have hs : (((s.setHold i (some ⟨s.candidate i f x, f, x⟩)).dropEntry i).ctx i).state = .queued := by
    rw [State.dropEntry_ctx, State.setHold_ctx, if_pos rfl]
    exact h
  refine (h1.trans (modCtx _ i ?_ (fun _ => .inr rfl) (fun hx => ?_))).trans (sendOfr _ _ _)
  · unfold Context.waits; rw [hs]; rfl
  · rw [hs] at hx; cases hx

/-- A reservation for a CROSSING context. -/
theorem serveCrossing (s : State) (i : Slot) (f : FeederId) (h : (s.ctx i).state = .crossing) : Served s (s.serveCrossing i f) :=
  (setGap s i _ (by unfold Context.waits; rw [h]; rfl)).trans (dropEntry _ _)

/-- The entry of a round's candidate is one of a context that waits (R75). -/
theorem candidate_waits {f : FeederId} {l : Level} {e : Entry} (h : s.roundCandidate f = some (l, e)) :
    (s.ctx e.slot).state = .queued ∨ (s.ctx e.slot).state = .crossing := by
  have he : s.eligible f e = true := by
    unfold State.roundCandidate at h
    dsimp only at h
    have key : ∀ (o : Option (Level × Entry)) (es : List Entry) (k : Level), o = (es.find? (s.eligible f)).map (fun e => (k, e)) →
        o = some (l, e) → s.eligible f e = true := by
      intro o es k ho hs
      rw [ho] at hs
      cases hf : es.find? (s.eligible f) with
      | none => simp [hf] at hs
      | some d =>
        simp only [hf, Option.map_some, Option.some.injEq, Prod.mk.injEq] at hs
        exact hs.2 ▸ List.find?_some hf
    split at h
    · rcases Option.or_eq_some_iff.1 h with h | h
      · exact key _ _ .two rfl h
      · exact key _ _ .one rfl h.2
    · rcases Option.or_eq_some_iff.1 h with h | h
      · exact key _ _ .one rfl h
      · exact key _ _ .two rfl h.2
  unfold State.eligible at he
  rw [Bool.and_eq_true] at he
  have := he.2
  split at this <;> simp_all

theorem rounds (f : FeederId) (n : Nat) : ∀ s : State, Served s (s.rounds f n) := by
  induction n with
  | zero => exact refl
  | succ n ih =>
    intro s
    unfold State.rounds
    split
    · exact refl s
    · next l e hc =>
      split
      · refine (Served.trans (t := s.serve f e) ?_
        (modFdr _ f (m := fun r => { r with turn := turnAfter l r.turn r.config.share }) (fun _ => ⟨rfl, rfl, rfl, rfl, rfl⟩))).trans (ih _)
        unfold State.serve
        split
        · next hx => exact serveCrossing s e.slot f (by simpa using hx)
        · next hx =>
          rcases candidate_waits hc with hq | hq
          · exact makeOffer s e.slot f e.sect hq
          · simp [hq] at hx
      · exact refl s

/-- Everything arbitration on a feeder can do. -/
theorem arbitrate (s : State) (f : FeederId) : Served s (s.arbitrate f) := rounds f _ s

/-- Everything arbitration on several feeders can do. -/
theorem arbitrateOn (s : State) (w : FeederId → Bool) : Served s (s.arbitrateOn w) := by
  unfold State.arbitrateOn
  generalize allFeeders.filter w = l
  induction l generalizing s with
  | nil => exact refl s
  | cons f l ih => exact (arbitrate s f).trans (ih _)

end Served

/-! ### The contexts that are served -/

/-- What arbitration does to a waiting context: a CROSSING one changes its reservation feeder alone, a QUEUED one stands or
is OFFERED. -/
structure Waited (s t : State) : Prop where
  others : ∀ i, (s.ctx i).waits = false → t.ctx i = s.ctx i
  crossing : ∀ i, (s.ctx i).state = .crossing → ∃ f, t.ctx i = { s.ctx i with gap := { (s.ctx i).gap with feeder := f } }
  queued : ∀ i, (s.ctx i).state = .queued → t.ctx i = s.ctx i
    ∨ ∃ h w r, t.ctx i = { (s.ctx i).settled .offered with hold := some h, offerWindow := w, offerRepeat := r }

theorem State.sendNormal_ctx (s : State) (f : Frame) (j : Slot) : (s.sendNormal f).ctx j = s.ctx j := by
  unfold State.sendNormal
  split <;> rfl

theorem State.sendOfr_ctx (s : State) (i : Slot) (tag : Byte) (j : Slot) : (s.sendOfr i tag).ctx j = s.ctx j := by
  unfold State.sendOfr
  dsimp only
  split
  · rfl
  · exact State.sendNormal_ctx _ _ _

/-- An offer changes its context alone. -/
theorem State.makeOffer_ctx (s : State) (i j : Slot) (f : FeederId) (x : SectionId) :
    (s.makeOffer i f x).ctx j = if i = j then
      { (s.ctx i).settled .offered with
        hold := some ⟨s.candidate i f x, f, x⟩
        offerWindow := seconds s.globals.offerWindow
        offerRepeat := quarters s.globals.offerRepeat } else s.ctx j := by
  unfold State.makeOffer
  dsimp only
  rw [State.sendOfr_ctx, State.modCtx_ctx]
  simp only [State.dropEntry_ctx, State.setHold_ctx, if_true]
  split <;> rfl

/-- A reservation in arbitration changes its context's reservation feeder alone. -/
theorem State.serveCrossing_ctx (s : State) (i j : Slot) (f : FeederId) :
    (s.serveCrossing i f).ctx j = if i = j then { s.ctx i with gap := { (s.ctx i).gap with feeder := some f } } else s.ctx j := by
  unfold State.serveCrossing State.makeReservation
  rw [State.dropEntry_ctx, State.setGap_ctx]

namespace Waited
variable {s t u : State}

theorem refl (s : State) : Waited s s := ⟨fun _ _ => rfl, fun _ _ => ⟨_, rfl⟩, fun _ _ => .inl rfl⟩

theorem trans (h : Waited s t) (k : Waited t u) : Waited s u where
  others := fun i hi => by
    have h1 := h.others i hi
    exact (k.others i (h1 ▸ hi)).trans h1
  crossing := fun i hi => by
    obtain ⟨f, hf⟩ := h.crossing i hi
    obtain ⟨g, hg⟩ := k.crossing i (by rw [hf]; exact hi)
    exact ⟨g, by rw [hg, hf]⟩
  queued := fun i hi => by
    rcases h.queued i hi with h1 | ⟨a, w, r, h1⟩
    · rcases k.queued i (by rw [h1]; exact hi) with k1 | ⟨b, w, r, k1⟩
      · exact .inl (k1.trans h1)
      · exact .inr ⟨b, w, r, by rw [k1, h1]⟩
    · exact .inr ⟨a, w, r, by rw [k.others i (by rw [h1]; rfl), h1]⟩

/-- A change of one waiting context of the right form. -/
theorem one (i : Slot) (ho : ∀ j, j ≠ i → t.ctx j = s.ctx j) (hw : (s.ctx i).waits = true)
    (hc : (s.ctx i).state = .crossing → ∃ f, t.ctx i = { s.ctx i with gap := { (s.ctx i).gap with feeder := f } })
    (hq : (s.ctx i).state = .queued → t.ctx i = s.ctx i
      ∨ ∃ h w r, t.ctx i = { (s.ctx i).settled .offered with hold := some h, offerWindow := w, offerRepeat := r }) : Waited s t where
  others := fun j hj => ho j (fun e => by subst e; rw [hj] at hw; cases hw)
  crossing := fun j hj => by
    by_cases e : j = i
    · subst e; exact hc hj
    · exact ⟨_, ho j e⟩
  queued := fun j hj => by
    by_cases e : j = i
    · subst e; exact hq hj
    · exact .inl (ho j e)

theorem serve (s : State) (f : FeederId) (e : Entry) (h : (s.ctx e.slot).state = .queued ∨ (s.ctx e.slot).state = .crossing) :
    Waited s (s.serve f e) := by
  have hw : (s.ctx e.slot).waits = true := by unfold Context.waits; rcases h with h | h <;> rw [h] <;> rfl
  unfold State.serve
  split
  · next hx =>
    have hx : (s.ctx e.slot).state = .crossing := by simpa using hx
    refine one e.slot (fun j hj => ?_) hw (fun _ => ⟨some f, ?_⟩) (fun hq => by rw [hx] at hq; cases hq)
    · rw [State.serveCrossing_ctx, if_neg (Ne.symm hj)]
    · rw [State.serveCrossing_ctx, if_pos rfl]
  · next hx =>
    refine one e.slot (fun j hj => ?_) hw (fun hc => absurd hc (by simpa using hx))
      (fun _ => .inr ⟨⟨s.candidate e.slot f e.sect, f, e.sect⟩, seconds s.globals.offerWindow, quarters s.globals.offerRepeat, ?_⟩)
    · rw [State.makeOffer_ctx, if_neg (Ne.symm hj)]
    · rw [State.makeOffer_ctx, if_pos rfl]

theorem rounds (f : FeederId) (n : Nat) : ∀ s : State, Waited s (s.rounds f n) := by
  induction n with
  | zero => exact refl
  | succ n ih =>
    intro s
    unfold State.rounds
    split
    · exact refl s
    · next l e hc =>
      split
      · refine (serve s f e (Served.candidate_waits hc)).trans (Waited.trans ?_ (ih _))
        exact ⟨fun _ _ => rfl, fun _ _ => ⟨_, rfl⟩, fun _ _ => .inl rfl⟩
      · exact refl s

/-- What arbitration on a feeder does to each context. -/
theorem arbitrate (s : State) (f : FeederId) : Waited s (s.arbitrate f) := rounds f _ s

/-- What arbitration on several feeders does to each context. -/
theorem arbitrateOn (s : State) (w : FeederId → Bool) : Waited s (s.arbitrateOn w) := by
  unfold State.arbitrateOn
  generalize allFeeders.filter w = l
  induction l generalizing s with
  | nil => exact refl s
  | cons f l ih => exact (arbitrate s f).trans (ih _)

end Waited

/-- With nothing eligible, arbitration changes nothing (R76). -/
theorem State.arbitrate_idle {s : State} {f : FeederId} (h : s.roundCandidate f = none) : s.arbitrate f = s := by
  unfold State.arbitrate State.rounds
  rw [h]

end Sys2Proof.Machine
end

