-- ==== Sys2Proof/Laws/Contexts.lean ====
section
/-! SUPPORT. What each operation of Chapters 2 to 6 does to each context, read through `State.ctx`. -/

namespace Sys2Proof.Machine
open Sys2Proof

/-! ### Operations that change no context -/

theorem State.report_ctx (s : State) (k : EventKind) (a b : Nat) (j : Slot) : (s.report k a b).ctx j = s.ctx j := by
  show ((s.setLatch k.place).emitEvent k a b).ctx j = _
  unfold State.emitEvent
  split
  · unfold State.offerC
    dsimp only
    split <;> rfl
  · rfl

theorem State.offerC_ctx (s : State) (f : Frame) (j : Slot) : (s.offerC f).ctx j = s.ctx j := by
  unfold State.offerC
  split <;> rfl

theorem State.refuse_ctx (s : State) (i : Slot) (r : Refuse) (j : Slot) : (s.refuse i r).ctx j = s.ctx j :=
  State.sendNormal_ctx _ _ _

theorem State.answer_ctx (s : State) (i : Slot) (tag : Byte) (r : Refuse) (j : Slot) : (s.answer i tag r).ctx j = s.ctx j :=
  State.sendNormal_ctx _ _ _

theorem State.sendGrt_ctx (s : State) (i : Slot) (tag : Byte) (j : Slot) : (s.sendGrt i tag).ctx j = s.ctx j := by
  unfold State.sendGrt
  dsimp only
  split
  · rfl
  · exact State.sendNormal_ctx _ _ _

theorem State.sendDfr_ctx (s : State) (i : Slot) (tag : Byte) (j : Slot) : (s.sendDfr i tag).ctx j = s.ctx j := by
  unfold State.sendDfr
  split
  · rfl
  · exact State.sendNormal_ctx _ _ _

theorem State.deferIfQueued_ctx (s : State) (i : Slot) (tag : Byte) (j : Slot) : (s.deferIfQueued i tag).ctx j = s.ctx j := by
  unfold State.deferIfQueued
  split
  · exact State.sendDfr_ctx _ _ _ _
  · rfl

theorem State.tellHolder_ctx (s s0 : State) (x : SectionId) (j : Slot) : (s.tellHolder s0 x).ctx j = s.ctx j := by
  unfold State.ctx
  rw [(State.tellHolder_same s s0 x).1]

theorem State.wake_ctx (s : State) (x : SectionId) (j : Slot) : (s.wake x).ctx j = s.ctx j := by
  unfold State.wake
  split
  · rfl
  · split
    · split
      · rfl
      · split <;> rfl
      · rfl
      · rfl
      · rfl
    · rfl

theorem State.approachWake_ctx (s : State) (i j : Slot) : (s.approachWake i).ctx j = s.ctx j := by
  have fold : ∀ (l : List SectionId) (t : State), (l.foldl State.wake t).ctx j = t.ctx j := by
    intro l
    induction l with
    | nil => intro t; rfl
    | cons x l ih => intro t; exact (ih _).trans (State.wake_ctx _ _ _)
  unfold State.approachWake
  dsimp only
  split
  · rfl
  · rfl
  · exact fold _ _
  · rfl
  · rfl

theorem State.psaFor_ctx (s : State) (i : Slot) (p : Report) (r : Resolution) (j : Slot) : (s.psaFor i p r).ctx j = s.ctx j := by
  unfold State.psaFor
  dsimp only
  split
  · exact State.offerC_ctx _ _ _
  · rfl

theorem State.psaWithout_ctx (s : State) (truck : Byte) (p : Report) (r : Resolution) (j : Slot) :
    (s.psaWithout truck p r).ctx j = s.ctx j := by
  unfold State.psaWithout
  split
  · exact State.offerC_ctx _ _ _
  · rfl

theorem State.addEntry_ctx (s : State) (i : Slot) (f : FeederId) (l : Level) (x : SectionId) (k : Mark) (j : Slot) :
    (s.addEntry i f l x k).ctx j = s.ctx j := by
  unfold State.addEntry
  dsimp only
  rw [State.tellHolder_ctx]
  exact State.dropEntry_ctx _ _ _

theorem State.moveEntry_ctx (s : State) (i : Slot) (x : SectionId) (j : Slot) : (s.moveEntry i x).ctx j = s.ctx j := by
  unfold State.moveEntry
  split
  · rfl
  · dsimp only
    rw [State.tellHolder_ctx, State.tellHolder_ctx]
    rfl

/-! ### Operations on one context -/

theorem State.modCtxTold_ctx (s : State) (i : Slot) (g : Context → Context) (j : Slot) :
    (s.modCtxTold i g).ctx j = if i = j then g (s.ctx i) else s.ctx j := by
  unfold State.modCtxTold
  split
  · exact State.modCtx_ctx _ _ _ _
  · rw [State.tellHolder_ctx]
    exact State.modCtx_ctx _ _ _ _

/-- A context that goes to QUEUED is settled there. -/
theorem State.queueAt_ctx (s : State) (i : Slot) (f : FeederId) (l : Level) (x : SectionId) (k : Mark) (j : Slot) :
    (s.queueAt i f l x k).ctx j = if i = j then (s.ctx i).settled .queued else s.ctx j := by
  unfold State.queueAt
  rw [State.addEntry_ctx, State.modCtxTold_ctx]

theorem State.setWithdraw_ctx (s : State) (i : Slot) (r : Reason) (b : Bool) (j : Slot) :
    (s.setWithdraw i r b).ctx j = if i = j then { s.ctx i with withdraw := some ⟨r, b⟩ } else s.ctx j :=
  State.modCtx_ctx _ _ _ _

theorem State.startDrop_ctx (s : State) (i : Slot) (r : Reason) (d : Nat) (j : Slot) :
    (s.startDrop i r d).ctx j = if i = j then
      { s.ctx i with state := .dropping, grantExpiry := none, overdraw := 0, dropReason := some r
                     dropDeadline := tenths d, withdraw := some ⟨r, false⟩ } else s.ctx j :=
  State.modCtx_ctx _ _ _ _

/-- A withdrawal with deadline 0 leaves nothing held and its WDR pending (R60). -/
theorem State.withdrawNow_ctx (s : State) (i : Slot) (r : Reason) (st : CtxState) (j : Slot) :
    (s.withdrawNow i r st).ctx j = if i = j then
      { Context.settled { s.ctx i with hold := none, gap := GapFields.clear } st with withdraw := some ⟨r, true⟩ }
      else s.ctx j := by
  unfold State.withdrawNow
  rw [State.setWithdraw_ctx, State.giveUp_ctx, State.giveUp_ctx, if_pos rfl]
  split <;> rfl

theorem State.turnDrop_ctx (s : State) (i : Slot) (r : Reason) (j : Slot) :
    (s.turnDrop i r).ctx j = if i = j then { s.ctx i with dropReason := some r, withdraw := some ⟨r, false⟩ } else s.ctx j := by
  unfold State.turnDrop
  rw [State.setWithdraw_ctx, State.modCtx_ctx, State.modCtx_ctx, if_pos rfl]
  split <;> rfl

theorem State.releaseTarget_ctx (s : State) (i j : Slot) :
    (s.releaseTarget i).ctx j = if i = j then { s.ctx i with gap := GapFields.clear } else s.ctx j := by
  unfold State.releaseTarget
  rw [State.setGap_ctx, State.dropEntry_ctx, State.dropEntry_ctx]

/-- A running drop takes another reason; a gap drop loses its gap fields. -/
theorem State.redirectDrop_ctx (s : State) (i : Slot) (r : Reason) (j : Slot) :
    (s.redirectDrop i r).ctx j = if i = j then
      { s.ctx i with dropReason := some r, withdraw := some ⟨r, false⟩
                     gap := if (s.ctx i).dropsForGap then GapFields.clear else (s.ctx i).gap } else s.ctx j := by
  unfold State.redirectDrop
  split
  · rw [State.turnDrop_ctx, State.releaseTarget_ctx, State.releaseTarget_ctx, if_pos rfl]
    by_cases e : i = j
    · rw [if_pos e, if_pos e]
    · rw [if_neg e, if_neg e, if_neg e]
  · rw [State.turnDrop_ctx]

/-- A context that goes to CROSSING holds nothing and keeps its gap fields, the crossing timer running (R95, R96). -/
theorem State.enterCrossing_ctx (s : State) (i j : Slot) :
    (s.enterCrossing i).ctx j = if i = j then
      { s.ctx i with state := .crossing, hold := none, grantExpiry := none, overdraw := 0, dropReason := none
                     dropDeadline := none, gap := { (s.ctx i).gap with crossing := seconds (s.crossingLimit i) } }
      else s.ctx j := by
  unfold State.enterCrossing
  dsimp only
  rw [State.modCtx_ctx]
  simp only [State.setGap_ctx, State.releaseHold_ctx, if_true]
  split <;> rfl

theorem State.freeQuiet_ctx (s : State) (i j : Slot) : (s.freeQuiet i).ctx j = if i = j then Context.freed else s.ctx j := by
  unfold State.freeQuiet
  rw [State.setCtx_ctx]
  simp only [State.dropEntry_ctx, State.setGap_ctx, State.releaseHold_ctx]
  split <;> rfl

/-! ### Strikes (R33, R34) -/

/-- The context a strike's treatment leaves. -/
def Context.faulted (c : Context) (drop : Nat) : Context :=
  match c.state with
  | .drawing => { c with state := .dropping, grantExpiry := none, overdraw := 0, dropReason := some .fault
                         dropDeadline := tenths drop, withdraw := some ⟨.fault, false⟩ }
  | .dropping => { c with dropReason := some .fault, withdraw := some ⟨.fault, false⟩
                          gap := if c.dropsForGap then GapFields.clear else c.gap }
  | .crossing => { Context.settled { c with hold := none, gap := GapFields.clear } .faulted with withdraw := some ⟨.fault, true⟩ }
  | .tracked => Context.settled { c with hold := none, gap := GapFields.clear } .faulted
  | .queued => Context.settled { c with hold := none, gap := GapFields.clear } .faulted
  | .offered => Context.settled { c with hold := none, gap := GapFields.clear } .faulted
  | .faulted => c
  | .free => c

theorem State.faultContext_ctx (s : State) (i j : Slot) :
    (s.faultContext i).ctx j = if i = j then (s.ctx i).faulted s.globals.ordinaryDrop else s.ctx j := by
  unfold State.faultContext
  split <;> next h => 
    simp only [Context.faulted, h, State.startDrop_ctx, State.redirectDrop_ctx, State.withdrawNow_ctx, State.giveUp_ctx]
    try (split <;> next e => first | (subst e; rfl) | rfl)

/-- What the treatment of R34 makes of a context after a drop that ended late. -/
def Context.faultedLate (c : Context) (ordinary : Nat) : Context :=
  if c.state = .crossing then Context.settled { c with hold := none, gap := GapFields.clear } .faulted else c.faulted ordinary

theorem State.faultLate_ctx (s : State) (i j : Slot) :
    (s.faultLate i).ctx j = if i = j then (s.ctx i).faultedLate s.globals.ordinaryDrop else s.ctx j := by
  unfold State.faultLate Context.faultedLate
  simp only [beq_iff_eq]
  split
  · rw [State.giveUp_ctx]
  · exact State.faultContext_ctx s i j

/-- A strike counts, and treats its context where it reaches the threshold with exclusion enabled. -/
theorem State.strikeBy_ctx (s : State) (i j : Slot) {treat : State → State} {change : Context → Nat → Context}
    (ht : ∀ t : State, (treat t).ctx j = if i = j then change (t.ctx i) t.globals.ordinaryDrop else t.ctx j) :
    (s.strikeBy i treat).ctx j =
      if i = j then
        (if s.strikeFaults i then
          change { s.ctx i with strikes := strikeCount (s.ctx i).strikes s.globals.strikeThreshold } s.globals.ordinaryDrop
        else { s.ctx i with strikes := strikeCount (s.ctx i).strikes s.globals.strikeThreshold })
      else s.ctx j := by
  unfold State.strikeBy
  dsimp only
  split
  · rw [ht, State.report_globals, State.modCtx_globals, State.report_ctx, State.report_ctx, State.modCtx_ctx,
      State.modCtx_ctx, if_pos rfl]
    split <;> rfl
  · split
    · rw [State.report_ctx, State.modCtx_ctx]
    · rw [State.modCtx_ctx]

/-! ### The swap (R12) -/

/-- A settled swap is not completed. -/
theorem State.evalSwap_settled {s : State} (h : s.swapSettled) : s.evalSwap = s := by
  unfold State.evalSwap
  rw [if_neg]
  rintro hp
  rw [Bool.and_eq_true] at hp
  rcases h with h | ⟨i, hi⟩
  · simp [State.swapPending, h] at hp
  · have : 0 < s.conflicts := by
      unfold State.conflicts
      exact List.length_pos_of_mem (List.mem_filter.2 ⟨mem_allSlots i, hi⟩)
    have h0 : s.conflicts = 0 := by simpa using hp.2
    omega

theorem State.evalSwap_none {s : State} (h : s.swap = .none) : s.evalSwap = s := State.evalSwap_settled (.inl h)

end Sys2Proof.Machine
end

