-- ==== Sys2Proof/Laws/Keeps.lean ====
section
/-! SUPPORT. What every operation keeps: a property that the few primitive changes keep is kept by every operation of the part. -/

namespace Sys2Proof.Machine
open Sys2Proof

/-- Two states agree on everything but the lines, the assemblers, the transmitters, the latches and the counters
other than those of missed samples. -/
structure SameCore (s t : State) : Prop where
  resetPin : t.resetPin = s.resetPin
  stopLine : t.stopLine = s.stopLine
  cAddress : t.cAddress = s.cAddress
  globals : t.globals = s.globals
  bankA : t.bankA = s.bankA
  bankB : t.bankB = s.bankB
  active : t.active = s.active
  swap : t.swap = s.swap
  contexts : t.contexts = s.contexts
  classes : t.classes = s.classes
  feeders : t.feeders = s.feeders
  loads : t.loads = s.loads
  sections : t.sections = s.sections
  admission : t.admission = s.admission
  meters : t.meters = s.meters
  rings : t.rings = s.rings
  samples : t.samples = s.samples
  pending : t.pending = s.pending
  missed : t.counters.missed = s.counters.missed
  normal : t.normalQueue = s.normalQueue
  requests : t.requestBuffer = s.requestBuffer
  frames : t.cQueue = s.cQueue

/-- From `s` to `t` no feeder's committed current passes both what it was and its admission limit, and no section's load
both what it was and its section limit (R68). -/
def State.spares (s t : State) : Prop :=
  (∀ f, (t.fdr f).committed ≤ max (s.fdr f).committed (s.fdr f).config.limit)
    ∧ ∀ x, t.load x ≤ max (s.load x) (s.sectionLimit x)

/-- A change of section records brings one into ISOLATED only with its lockout set, and clears no lockout there (R107, R119). -/
def Locks (g : SectionRec → SectionRec) : Prop :=
  ∀ r, (g r).state = .isolated → (g r).lockout = true ∨ r.state = .isolated ∧ (g r).lockout = r.lockout

/-- The primitive changes keep a property. -/
structure Keeps (P : State → Prop) : Prop where
  frame : ∀ {s t : State}, SameCore s t → P s → P t
  sendNormal : ∀ {s : State} (f : Frame), P s → P (s.sendNormal f)
  offerC : ∀ {s : State} (f : Frame), 0x80 ≤ f.kind.toNat → P s → P (s.offerC f)
  ctx : ∀ {s : State} (i : Slot) {g : Context → Context},
    (∀ c, (g c).hold = c.hold ∧ (g c).gap.reserved = c.gap.reserved) → P s → P (s.modCtx i g)
  setHold : ∀ {s : State} (i : Slot) (h : Option Holding), s.spares (s.setHold i h) → P s → P (s.setHold i h)
  setGap : ∀ {s : State} (i : Slot) (g : GapFields), s.spares (s.setGap i g) → P s → P (s.setGap i g)
  turnGrant : ∀ {s : State} (i : Slot) (r : Holding), (s.ctx i).gap.reserved = some r →
    P s → P ((s.setHold i (some r)).setGap i GapFields.clear)
  freeQuiet : ∀ {s : State} (i : Slot), P s → P (s.freeQuiet i)
  newcomer : ∀ {s : State} (i : Slot) (truck : Byte) (k : TruckClass),
    P s → P ((s.freeQuiet i).setCtx i (Context.newcomer truck k))
  fdr : ∀ {s : State} (f : FeederId) {g : Feeder → Feeder}, (∀ d, (g d).committed = d.committed ∧ (g d).config = d.config) → P s → P (s.modFdr f g)
  sec : ∀ {s : State} (x : SectionId) {g : SectionRec → SectionRec},
    ((s.sec x).state ≠ .isolated ∨ ∀ r, r.state = .isolated → (g r).state = .isolated) → Locks g → P s → P (s.modSec x g)
  ring : ∀ {s : State} (f : FeederId) {g : Ring → Ring},
    (∀ r, (g r).desc = r.desc ∧ (g r).writePos = r.writePos ∧ (g r).fill = r.fill) → P s → P (s.modRing f g)
  stored : ∀ {s : State} (f : FeederId) (e : SampleEntry), P s →
    P (({ s with samples := s.samples.store (s.ring f).writePos e } : State).modRing f Ring.advanced)
  meter : ∀ {s : State} (f : FeederId) (g : Meter → Meter), P s → P (s.modMeter f g)
  missed : ∀ {s : State} (f : FeederId) (n : Nat),
    P s → P { s with counters := { s.counters with missed := s.counters.missed.set f n } }
  flip : ∀ {s : State}, P s → P s.flip
  setSwap : ∀ {s : State} (w : SwapState) (t : Timer), P s → P { s with swap := w, swapTimer := t }

/-! ### Changes that spare the limits -/

/-- A grant or offer no larger than the old one and the headrooms together spares the limits (R44, R56). -/
theorem spares_setHold {s : State} {i : Slot} {h : Option Holding}
    (hf : ∀ f, heldOn f h ≤ heldOn f (s.ctx i).hold + s.feederRoom f)
    (hx : ∀ x, heldIn x h ≤ heldIn x (s.ctx i).hold + s.sectionRoom x) : s.spares (s.setHold i h) := by
  refine ⟨fun f => ?_, fun x => ?_⟩
  · have := hf f
    rw [State.setHold_committed]
    unfold State.feederRoom at this
    omega
  · have := hx x
    rw [State.setHold_load]
    unfold State.sectionRoom at this
    omega

/-- A reservation no larger than the old one and the headrooms together spares the limits (R68). -/
theorem spares_setGap {s : State} {i : Slot} {g : GapFields}
    (hf : ∀ f, heldOn f g.reserved ≤ heldOn f (s.ctx i).gap.reserved + s.feederRoom f)
    (hx : ∀ x, heldIn x g.reserved ≤ heldIn x (s.ctx i).gap.reserved + s.sectionRoom x) : s.spares (s.setGap i g) := by
  refine ⟨fun f => ?_, fun x => ?_⟩
  · have := hf f
    rw [State.setGap_committed]
    unfold State.feederRoom at this
    omega
  · have := hx x
    rw [State.setGap_load]
    unfold State.sectionRoom at this
    omega

theorem spares_release (s : State) (i : Slot) : s.spares (s.setHold i none) :=
  spares_setHold (fun _ => Nat.zero_le _) fun _ => Nat.zero_le _

theorem reserved_none {g : GapFields} (h : g.feeder = none) : g.reserved = none := by
  unfold GapFields.reserved
  rw [h]

/-- Gap fields without a reservation spare the limits. -/
theorem spares_unreserved (s : State) (i : Slot) {g : GapFields} (h : g.feeder = none) : s.spares (s.setGap i g) :=
  spares_setGap (fun _ => by rw [reserved_none h]; exact Nat.zero_le _) fun _ => by rw [reserved_none h]; exact Nat.zero_le _

/-- Gap fields with the reservation as it was spare the limits. -/
theorem spares_sameGap (s : State) (i : Slot) {g : GapFields} (h : g.reserved = (s.ctx i).gap.reserved) : s.spares (s.setGap i g) :=
  spares_setGap (fun _ => by rw [h]; exact Nat.le_add_right _ _) fun _ => by rw [h]; exact Nat.le_add_right _ _

/-- A holding puts at most its amount on a feeder, and nothing on another. -/
theorem heldOn_le {h : Holding} {f : FeederId} {n : Nat} (hn : h.feeder = f → h.amount ≤ n) : heldOn f (some h) ≤ n := by
  unfold heldOn
  dsimp only
  split
  · next e => exact hn e
  · exact Nat.zero_le _

/-- A holding puts at most its amount on a section, and nothing on another. -/
theorem heldIn_le {h : Holding} {x : SectionId} {n : Nat} (hn : h.sect = x → h.amount ≤ n) : heldIn x (some h) ≤ n := by
  unfold heldIn
  dsimp only
  split
  · next e => exact hn e
  · exact Nat.zero_le _

/-- The candidate amount is at most both headrooms (R44). -/
theorem candidate_le_room (s : State) (i : Slot) (f : FeederId) (x : SectionId) :
    s.candidate i f x ≤ s.feederRoom f ∧ s.candidate i f x ≤ s.sectionRoom x := by
  unfold State.candidate
  omega

/-- A grant or offer of the candidate amount spares the limits (R44). -/
theorem spares_candidate (s : State) (i : Slot) (f : FeederId) (x : SectionId) :
    s.spares (s.setHold i (some ⟨s.candidate i f x, f, x⟩)) :=
  spares_setHold (fun _ => heldOn_le fun e => e ▸ Nat.le_add_left_of_le (candidate_le_room s i f x).1)
    fun _ => heldIn_le fun e => e ▸ Nat.le_add_left_of_le (candidate_le_room s i f x).2

/-- A reservation that fits at the target spares the limits (R68). -/
theorem spares_reservation {s : State} {i : Slot} {f : FeederId} {x : SectionId} (h : s.reserveFits i f x = true)
    (hx : ∀ y, (s.ctx i).gap.target = some y → y = x) :
    s.spares (s.setGap i { (s.ctx i).gap with feeder := some f }) := by
  unfold State.reserveFits at h
  simp only [Bool.and_eq_true, decide_eq_true_eq] at h
  cases ht : (s.ctx i).gap.target with
  | none =>
    have hn : GapFields.reserved { (s.ctx i).gap with feeder := some f } = none := by unfold GapFields.reserved; rw [ht]
    exact spares_setGap (fun _ => by rw [hn]; exact Nat.zero_le _) fun _ => by rw [hn]; exact Nat.zero_le _
  | some y =>
    have hn : GapFields.reserved { (s.ctx i).gap with feeder := some f } = some ⟨(s.ctx i).gap.amount, f, y⟩ := by
      unfold GapFields.reserved; rw [ht]
    have hy := hx y ht
    refine spares_setGap (fun _ => ?_) fun _ => ?_ <;> rw [hn]
    · exact heldOn_le fun e => e ▸ Nat.le_add_left_of_le h.1
    · exact heldIn_le fun e => e ▸ hy ▸ Nat.le_add_left_of_le h.2

/-- An amount no larger than the held one, moved on the same feeder to a section with room for it, spares the limits (R64). -/
theorem spares_less {s : State} {i : Slot} {g : Holding} {a : Nat} {x : SectionId} (hg : (s.ctx i).hold = some g) (ha : a ≤ g.amount)
    (hx : a ≤ s.sectionRoom x) : s.spares (s.setHold i (some ⟨a, g.feeder, x⟩)) :=
  spares_setHold (fun k => by
    rw [hg]
    unfold heldOn
    dsimp only
    split <;> omega) fun _ => heldIn_le fun e => e ▸ Nat.le_add_left_of_le hx

/-- The amount of a renewal spares the limits (R56). -/
theorem spares_renewed {s : State} {i : Slot} {g : Holding} (n : Nat) (hg : (s.ctx i).hold = some g) :
    s.spares (s.setHold i (some { g with amount := s.renewedAmount g n })) := by
  have hr : s.renewedAmount g n ≤ g.amount
      ∨ s.renewedAmount g n ≤ g.amount + s.feederRoom g.feeder ∧ s.renewedAmount g n ≤ g.amount + s.sectionRoom g.sect := by
    unfold State.renewedAmount
    split
    · omega
    · split
      · next hf =>
        unfold State.increaseFits at hf
        simp only [Bool.and_eq_true, decide_eq_true_eq] at hf
        omega
      · omega
  refine spares_setHold (fun k => ?_) fun x => ?_ <;> rw [hg]
  · unfold heldOn
    dsimp only
    split
    · next e => subst e; omega
    · omega
  · unfold heldIn
    dsimp only
    split
    · next e => subst e; omega
    · omega

namespace Keeps
variable {P : State → Prop} {s : State}

/-! ### Reports, counters, frames to trucks -/

theorem modLink (K : Keeps P) (l : Link) (g : LinkCounters → LinkCounters) (h : P s) : P (s.modLink l g) :=
  K.frame (by cases l <;> constructor <;> simp [State.modLink]) h

theorem emitEvent (K : Keeps P) (k : EventKind) (a b : Nat) (h : P s) : P (s.emitEvent k a b) := by
  unfold State.emitEvent
  split
  · exact K.offerC _ (Nat.le_of_ble_eq_true rfl) (K.frame (by constructor <;> simp) h)
  · exact h

theorem report (K : Keeps P) (k : EventKind) (a b : Nat) (h : P s) : P (s.report k a b) :=
  K.frame (s := (s.setLatch k.place).emitEvent k a b) (by constructor <;> simp [State.report])
    (K.emitEvent k a b (K.frame (by constructor <;> simp) h))

theorem evalAlert (K : Keeps P) (h : P s) : P s.evalAlert := K.frame (by constructor <;> simp) h

theorem refuseTruck (K : Keeps P) (t g : Byte) (r : Refuse) (h : P s) : P (s.refuseTruck t g r) := K.sendNormal _ h

theorem refuse (K : Keeps P) (i : Slot) (r : Refuse) (h : P s) : P (s.refuse i r) := K.sendNormal _ h

theorem answer (K : Keeps P) (i : Slot) (g : Byte) (r : Refuse) (h : P s) : P (s.answer i g r) := K.sendNormal _ h

theorem sendGrt (K : Keeps P) (i : Slot) (g : Byte) (h : P s) : P (s.sendGrt i g) := by
  unfold State.sendGrt
  dsimp only
  split
  · exact h
  · exact K.sendNormal _ h

theorem sendOfr (K : Keeps P) (i : Slot) (g : Byte) (h : P s) : P (s.sendOfr i g) := by
  unfold State.sendOfr
  dsimp only
  split
  · exact h
  · exact K.sendNormal _ h

theorem sendDfr (K : Keeps P) (i : Slot) (g : Byte) (h : P s) : P (s.sendDfr i g) := by
  unfold State.sendDfr
  split
  · exact h
  · exact K.sendNormal _ h

theorem deferIfQueued (K : Keeps P) (i : Slot) (g : Byte) (h : P s) : P (s.deferIfQueued i g) := by
  unfold State.deferIfQueued
  split
  · exact K.sendDfr _ _ h
  · exact h

/-! ### Folds -/

theorem fold (_ : Keeps P) {α : Type} {g : State → α → State} (hg : ∀ (t : State) (a : α), P t → P (g t a)) (l : List α) :
    ∀ {s : State}, P s → P (l.foldl g s) := by
  induction l with
  | nil => exact fun h => h
  | cons a l ih => exact fun h => ih (hg _ a h)

theorem eachSlot (K : Keeps P) {g : State → Slot → State} (hg : ∀ (t : State) (i : Slot), P t → P (g t i)) (h : P s) :
    P (s.eachSlot g) := K.fold hg _ h

theorem eachSection (K : Keeps P) {g : State → SectionId → State} (hg : ∀ (t : State) (x : SectionId), P t → P (g t x))
    (h : P s) : P (s.eachSection g) := K.fold hg _ h

/-! ### Budgets and lists -/

theorem tellHolder (K : Keeps P) (s0 : State) (x : SectionId) (h : P s) : P (s.tellHolder s0 x) := by
  unfold State.tellHolder
  split
  · split
    · exact K.sec _ (.inr fun _ hr => hr) (fun _ hr => .inr ⟨hr, rfl⟩) h
    · exact h
  · exact K.sec _ (.inr fun _ hr => hr) (fun _ hr => .inr ⟨hr, rfl⟩) h
  · exact h
  · exact h

theorem leaveOrder (K : Keeps P) (i : Slot) (f : FeederId) (h : P s) : P (s.leaveOrder i f) := K.fdr _ (fun _ => ⟨rfl, rfl⟩) h

theorem joinOrder (K : Keeps P) (i : Slot) (f : FeederId) (h : P s) : P (s.joinOrder i f) := K.fdr _ (fun _ => ⟨rfl, rfl⟩) h

theorem setWait_committed (d : Feeder) (l : Level) (es : List Entry) :
    (d.setWait l es).committed = d.committed ∧ (d.setWait l es).config = d.config := by
  cases l <;> exact ⟨rfl, rfl⟩

theorem releaseHold (K : Keeps P) (i : Slot) (h : P s) : P (s.releaseHold i) := by
  unfold State.releaseHold
  split
  · exact h
  · exact K.leaveOrder _ _ (K.setHold _ _ (spares_release _ _) h)

theorem dropEntry (K : Keeps P) (i : Slot) (h : P s) : P (s.dropEntry i) := by
  unfold State.dropEntry
  split
  · exact h
  · exact K.tellHolder _ _ (K.fdr _ (fun _ => setWait_committed _ _ _) h)

theorem addEntry (K : Keeps P) (i : Slot) (f : FeederId) (l : Level) (x : SectionId) (k : Mark) (h : P s) :
    P (s.addEntry i f l x k) :=
  K.tellHolder _ _ (K.fdr _ (fun _ => setWait_committed _ _ _) (K.dropEntry _ h))

theorem moveEntry (K : Keeps P) (i : Slot) (x : SectionId) (h : P s) : P (s.moveEntry i x) := by
  unfold State.moveEntry
  split
  · exact h
  · exact K.tellHolder _ _ (K.tellHolder _ _ (K.fdr _ (fun _ => setWait_committed _ _ _) h))

theorem modCtxTold (K : Keeps P) (i : Slot) {g : Context → Context}
    (hg : ∀ c, (g c).hold = c.hold ∧ (g c).gap.reserved = c.gap.reserved) (h : P s) : P (s.modCtxTold i g) := by
  unfold State.modCtxTold
  split
  · exact K.ctx _ hg h
  · exact K.tellHolder _ _ (K.ctx _ hg h)

theorem giveUp (K : Keeps P) (i : Slot) (st : CtxState) (h : P s) : P (s.giveUp i st) :=
  K.ctx _ (fun _ => ⟨rfl, rfl⟩) (K.dropEntry _ (K.setGap _ _ (spares_unreserved _ _ rfl) (K.releaseHold _ h)))

theorem queueAt (K : Keeps P) (i : Slot) (f : FeederId) (l : Level) (x : SectionId) (k : Mark) (h : P s) :
    P (s.queueAt i f l x k) :=
  K.addEntry _ _ _ _ _ (K.modCtxTold _ (fun _ => ⟨rfl, rfl⟩) h)

/-! ### Arbitration -/

theorem makeOffer (K : Keeps P) (i : Slot) (f : FeederId) (x : SectionId) (h : P s) : P (s.makeOffer i f x) :=
  K.sendOfr _ _ (K.ctx _ (fun _ => ⟨rfl, rfl⟩) (K.dropEntry _ (K.setHold _ _ (spares_candidate _ _ _ _) h)))

theorem makeReservation (K : Keeps P) (i : Slot) (f : FeederId) {x : SectionId} (hf : s.reserveFits i f x = true)
    (hx : ∀ y, (s.ctx i).gap.target = some y → y = x) (h : P s) : P (s.makeReservation i f) :=
  K.setGap _ _ (spares_reservation hf hx) h

theorem serve (K : Keeps P) (f : FeederId) (e : Entry) (hf : s.candidateFits f e = true) (h : P s) : P (s.serve f e) := by
  unfold State.candidateFits at hf
  unfold State.serve
  split
  · next hx =>
    rw [if_pos hx] at hf
    exact K.dropEntry _ (K.makeReservation _ _ hf (fun y hy => by rw [hy]; rfl) h)
  · exact K.makeOffer _ _ _ h

theorem rounds (K : Keeps P) (f : FeederId) (n : Nat) : ∀ {s : State}, P s → P (s.rounds f n) := by
  induction n with
  | zero => exact fun h => h
  | succ n ih =>
    intro s h
    unfold State.rounds
    split
    · exact h
    · split
      · next hf => exact ih (K.fdr _ (fun _ => ⟨rfl, rfl⟩) (K.serve _ _ hf h))
      · exact h

theorem arbitrate (K : Keeps P) (f : FeederId) (h : P s) : P (s.arbitrate f) := K.rounds _ _ h

theorem arbitrateOn (K : Keeps P) (w : FeederId → Bool) (h : P s) : P (s.arbitrateOn w) :=
  K.fold (fun _ f => K.arbitrate f) _ h

theorem arbitrateAll (K : Keeps P) (h : P s) : P s.arbitrateAll := K.arbitrateOn _ h

theorem arbitrateSection (K : Keeps P) (x : SectionId) (h : P s) : P (s.arbitrateSection x) := by
  unfold State.arbitrateSection
  split
  · exact K.arbitrate _ h
  · exact h

/-! ### Withdrawals and strikes -/

theorem setWithdraw (K : Keeps P) (i : Slot) (r : Reason) (b : Bool) (h : P s) : P (s.setWithdraw i r b) :=
  K.ctx _ (fun _ => ⟨rfl, rfl⟩) h

theorem startDrop (K : Keeps P) (i : Slot) (r : Reason) (n : Nat) (h : P s) : P (s.startDrop i r n) :=
  K.ctx _ (fun _ => ⟨rfl, rfl⟩) h

theorem withdrawNow (K : Keeps P) (i : Slot) (r : Reason) (st : CtxState) (h : P s) : P (s.withdrawNow i r st) :=
  K.setWithdraw _ _ _ (K.giveUp _ _ h)

theorem turnDrop (K : Keeps P) (i : Slot) (r : Reason) (h : P s) : P (s.turnDrop i r) :=
  K.setWithdraw _ _ _ (K.ctx _ (fun _ => ⟨rfl, rfl⟩) h)

theorem releaseTarget (K : Keeps P) (i : Slot) (h : P s) : P (s.releaseTarget i) :=
  K.setGap _ _ (spares_unreserved _ _ rfl) (K.dropEntry _ h)

theorem redirectDrop (K : Keeps P) (i : Slot) (r : Reason) (h : P s) : P (s.redirectDrop i r) := by
  unfold State.redirectDrop
  split
  · exact K.turnDrop _ _ (K.releaseTarget _ h)
  · exact K.turnDrop _ _ h

theorem enterCrossing (K : Keeps P) (i : Slot) (h : P s) : P (s.enterCrossing i) := by
  unfold State.enterCrossing
  dsimp only
  exact K.ctx _ (fun _ => ⟨rfl, rfl⟩) (K.setGap _ _ (spares_sameGap _ _ rfl) (K.releaseHold _ h))

theorem faultContext (K : Keeps P) (i : Slot) (h : P s) : P (s.faultContext i) := by
  unfold State.faultContext
  split
  · exact K.startDrop _ _ _ h
  · exact K.redirectDrop _ _ h
  · exact K.withdrawNow _ _ _ h
  · exact K.giveUp _ _ h
  · exact K.giveUp _ _ h
  · exact K.giveUp _ _ h
  · exact h
  · exact h

theorem faultLate (K : Keeps P) (i : Slot) (h : P s) : P (s.faultLate i) := by
  unfold State.faultLate
  split
  · exact K.giveUp _ _ h
  · exact K.faultContext _ h

theorem strikeBy (K : Keeps P) (i : Slot) {g : State → State} (hg : ∀ t, P t → P (g t)) (h : P s) : P (s.strikeBy i g) := by
  unfold State.strikeBy
  dsimp only
  split
  · exact hg _ (K.report _ _ _ (K.ctx _ (fun _ => ⟨rfl, rfl⟩) h))
  · split
    · exact K.report _ _ _ (K.ctx _ (fun _ => ⟨rfl, rfl⟩) h)
    · exact K.ctx _ (fun _ => ⟨rfl, rfl⟩) h

theorem strikeQuiet (K : Keeps P) (i : Slot) (h : P s) : P (s.strikeQuiet i) := K.strikeBy _ (fun _ => K.faultContext _) h

theorem strikeLate (K : Keeps P) (i : Slot) (h : P s) : P (s.strikeLate i) := by
  unfold State.strikeLate
  dsimp only
  split
  · exact K.arbitrateOn _ (K.strikeBy _ (fun _ => K.faultLate _) h)
  · exact K.strikeBy _ (fun _ => K.faultLate _) h

theorem strike (K : Keeps P) (i : Slot) (h : P s) : P (s.strike i) := by
  unfold State.strike
  dsimp only
  split
  · exact K.arbitrateOn _ (K.strikeQuiet _ h)
  · exact K.strikeQuiet _ h

/-! ### Sections -/

theorem openToStandby (K : Keeps P) (x : SectionId) (hx : (s.sec x).state ≠ .isolated) (h : P s) : P (s.openToStandby x) :=
  K.sec _ (.inl hx) (fun _ hr => nomatch hr) h

theorem restIdle (K : Keeps P) (x : SectionId) (hx : (s.sec x).state ≠ .isolated) (h : P s) : P (s.restIdle x) :=
  K.sec _ (.inl hx) (fun _ hr => nomatch hr) h

theorem writeOpen (K : Keeps P) (x : SectionId) (h : P s) : P (s.writeOpen x) := K.sec _ (.inr fun _ hr => hr) (fun _ hr => .inr ⟨hr, rfl⟩) h

theorem wake (K : Keeps P) (x : SectionId) (h : P s) : P (s.wake x) := by
  unfold State.wake
  split
  · exact h
  · split
    · split
      · exact K.sec _ (.inl (by simp_all)) (fun _ hr => nomatch hr) h
      · split
        · exact K.sec _ (.inl (by simp_all)) (fun _ hr => nomatch hr) h
        · exact K.sec _ (.inl (by simp_all)) (fun _ hr => nomatch hr) h
      · exact h
      · exact h
      · exact h
    · exact h

theorem approachWake (K : Keeps P) (i : Slot) (h : P s) : P (s.approachWake i) := by
  unfold State.approachWake
  dsimp only
  split
  · exact h
  · exact h
  · exact K.fold (fun _ x => K.wake x) _ h
  · exact h
  · exact h

theorem stripTarget (K : Keeps P) (i : Slot) (x : SectionId) (h : P s) : P (s.stripTarget i x) := by
  unfold State.stripTarget
  dsimp only
  split <;> split
  · exact K.dropEntry _ (K.setGap _ _ (spares_unreserved _ _ rfl) h)
  · exact K.setGap _ _ (spares_unreserved _ _ rfl) h
  · exact K.dropEntry _ h
  · exact h

theorem isolateContext (K : Keeps P) (x : SectionId) (i : Slot) (h : P s) : P (State.isolateContext x s i) := by
  unfold State.isolateContext
  dsimp only
  split
  · split
    · exact K.startDrop _ _ _ h
    · exact h
  · split
    · exact K.refuse _ _ (K.giveUp _ _ h)
    · exact h
  · split
    · exact K.refuse _ _ (K.giveUp _ _ h)
    · exact h
  · exact K.stripTarget _ _ h
  · exact K.stripTarget _ _ h
  · exact h
  · exact h
  · exact h

theorem lockOut (K : Keeps P) (x : SectionId) (h : P s) : P (s.lockOut x) := K.sec _ (.inr fun _ _ => rfl) (fun _ _ => .inl rfl) h

theorem isolate (K : Keeps P) (x : SectionId) (h : P s) : P (s.isolate x) := by
  unfold State.isolate
  dsimp only
  split
  · exact K.arbitrateSection _ (K.eachSlot (fun _ i => K.isolateContext x i) (K.lockOut _ h))
  · exact K.eachSlot (fun _ i => K.isolateContext x i) (K.lockOut _ h)

theorem completeRaise (K : Keeps P) (x : SectionId) (hx : (s.sec x).state ≠ .isolated) (h : P s) : P (s.completeRaise x) :=
  K.arbitrateSection _ (K.sec _ (.inl hx) (fun _ hr => nomatch hr) h)

theorem failRaise (K : Keeps P) (x : SectionId) (b : Bool) (h : P s) : P (s.failRaise x b) :=
  K.report _ _ _ (K.isolate _ h)

theorem takeStatus (K : Keeps P) (x : SectionId) (u : SsuStatus) (h : P s) : P (s.takeStatus x u) := by
  have h1 : P (s.modSec x (fun r => { r with ssu := some u })) := K.sec _ (.inr fun _ hr => hr) (fun _ hr => .inr ⟨hr, rfl⟩) h
  have hs : ((s.modSec x (fun r => { r with ssu := some u })).sec x).state = (s.sec x).state := by simp
  unfold State.takeStatus
  dsimp only
  split
  · split
    · exact h1
    · exact K.report _ _ _ (K.isolate _ h1)
  · split
    · exact h1
    · split
      · exact K.report _ _ _ (K.isolate _ h1)
      · exact K.report _ _ _ (K.openToStandby _ (by rw [hs]; simp_all) h1)
  · split
    · exact K.completeRaise _ (by rw [hs]; simp_all) h1
    · split
      · exact K.failRaise _ _ h1
      · exact h1
  · split
    · exact K.report _ _ _ (K.isolate _ h1)
    · split
      · exact K.report _ _ _ (K.writeOpen _ h1)
      · exact h1
  · split
    · have h2 := K.sec (g := fun r => { r with lockout := true }) x (.inr fun _ hr => hr) (fun _ _ => .inl rfl) h1
      split
      · split
        · exact K.writeOpen _ h2
        · exact h2
      · split
        · exact K.report _ _ _ (K.writeOpen _ h2)
        · exact K.report _ _ _ h2
    · split
      · exact K.report _ _ _ (K.writeOpen _ h1)
      · exact h1

theorem sectionsSuspect (K : Keeps P) (f : FeederId) (h : P s) : P (s.sectionsSuspect f) :=
  K.eachSection (fun t x ht => by
    split
    · exact K.openToStandby _ (by simp_all) ht
    · exact ht) h

theorem sectionsDown (K : Keeps P) (f : FeederId) (h : P s) : P (s.sectionsDown f) :=
  K.eachSection (fun t x ht => by
    split
    · exact K.openToStandby _ (by simp_all [SectionRec.closedOrClosing]; grind) ht
    · exact ht) h

theorem sectionsBack (K : Keeps P) (f : FeederId) (h : P s) : P (s.sectionsBack f) :=
  K.eachSection (fun t x ht => by
    split
    · exact K.wake _ ht
    · exact ht) h

theorem sectionAfterSwap (K : Keeps P) (x : SectionId) (h : P s) : P (s.sectionAfterSwap x) := by
  unfold State.sectionAfterSwap
  split
  · split
    · exact h
    · exact K.openToStandby _ (by simp_all) h
  · split
    · exact K.openToStandby _ (by simp_all) h
    · exact h
  · split
    · exact K.openToStandby _ (by simp_all) h
    · exact h
  · exact h
  · exact h

theorem stopContext (K : Keeps P) (i : Slot) (h : P s) : P (s.stopContext i) := by
  unfold State.stopContext
  split
  · exact K.withdrawNow _ _ _ h
  · exact K.withdrawNow _ _ _ h
  · exact K.withdrawNow _ _ _ h
  · exact K.withdrawNow _ _ _ h
  · exact K.refuse _ _ (K.giveUp _ _ h)
  · exact h
  · exact h
  · exact h

/-- A ramp stop keeps what setting the admission state keeps, and then stopping each section. -/
theorem takeRampStop_of (K : Keeps P) (n : Nat) (hs : ∀ t x, P t → P (State.stopSection t x))
    (h : P { s with admission := Admission.stopped }) : P (s.takeRampStop n) :=
  K.report _ _ _ (K.eachSection hs (K.eachSlot (fun _ i => K.stopContext i) h))

/-! ### Admission -/

theorem setRequest (K : Keeps P) (i : Slot) (t : Terms) (l : Level) (h : P s) : P (s.setRequest i t l) :=
  K.ctx _ (fun _ => ⟨rfl, rfl⟩) h

theorem grantDirect (K : Keeps P) (i : Slot) (f : FeederId) (x : SectionId) (e : Timer) (h : P s) : P (s.grantDirect i f x e) :=
  K.ctx _ (fun _ => ⟨rfl, rfl⟩) (K.joinOrder _ _ (K.setHold _ _ (spares_candidate _ _ _ _) h))

theorem acceptRequest (K : Keeps P) (i : Slot) (t : Terms) (l : Level) (x : SectionId) (f : FeederId) (h : P s) :
    P (s.acceptRequest i t l x f) := by
  unfold State.acceptRequest
  dsimp only
  have hw := K.wake x (K.setRequest i t l h)
  split
  · exact K.sendGrt _ _ (K.grantDirect _ _ _ _ hw)
  · exact K.deferIfQueued _ _ (K.arbitrate _ (K.queueAt _ _ _ _ _ hw))

theorem requestFromTracked (K : Keeps P) (i : Slot) (t : Terms) (h : P s) : P (s.requestFromTracked i t) := by
  unfold State.requestFromTracked
  split
  · exact K.answer _ _ _ h
  · split
    · exact K.answer _ _ _ h
    · split
      · exact K.answer _ _ _ h
      · exact K.acceptRequest _ _ _ _ _ h

theorem updateRequest (K : Keeps P) (i : Slot) (t : Terms) (h : P s) : P (s.updateRequest i t) := by
  unfold State.updateRequest
  split
  · exact h
  · split
    · exact K.arbitrate _ (K.answer _ _ _ (K.giveUp _ _ h))
    · exact K.deferIfQueued _ _ (K.arbitrate _ (K.setRequest _ _ _ h))

theorem declineAndAsk (K : Keeps P) (i : Slot) (t : Terms) (h : P s) : P (s.declineAndAsk i t) := by
  unfold State.declineAndAsk
  split
  · exact h
  · dsimp only
    split
    · exact K.arbitrate _ (K.answer _ _ _ (K.giveUp _ _ h))
    · exact K.deferIfQueued _ _ (K.arbitrate _ (K.queueAt _ _ _ _ _ (K.setRequest _ _ _ (K.giveUp _ _ h))))

theorem settleExpiry (K : Keeps P) (i : Slot) (f : FeederId) (n : Nat) (h : P s) : P (s.settleExpiry i f n) := by
  unfold State.settleExpiry
  split
  · exact K.ctx _ (fun _ => ⟨rfl, rfl⟩) h
  · exact h

theorem renewGrant (K : Keeps P) (i : Slot) (g : Holding) (u : Terms) (hg : (s.ctx i).hold = some g) (h : P s) :
    P (s.renewGrant i g u) := by
  unfold State.renewGrant
  dsimp only
  have h1 := K.setRequest i u (s.effectiveLevel i) h
  have hg1 : ((s.setRequest i u (s.effectiveLevel i)).ctx i).hold = some g := by
    unfold State.setRequest
    rw [State.modCtx_ctx_self]
    exact hg
  have ht := K.sendGrt i u.tag (K.settleExpiry i g.feeder u.hold (K.setHold i _ (spares_renewed u.requested hg1) h1))
  split
  · exact K.arbitrate _ ht
  · exact ht

theorem renew (K : Keeps P) (i : Slot) (t : Terms) (h : P s) : P (s.renew i t) := by
  unfold State.renew
  split
  · exact h
  · next hg =>
    split
    · exact K.answer _ _ _ h
    · split
      · exact K.answer _ _ _ h
      · exact K.renewGrant _ _ _ hg h

theorem takeDrq (K : Keeps P) (i : Slot) (t : Terms) (h : P s) : P (s.takeDrq i t) := by
  unfold State.takeDrq
  dsimp only
  have h1 : P (s.modCtx i (fun c => { c with cls := s.resolveClass c.address })) := K.ctx _ (fun _ => ⟨rfl, rfl⟩) h
  split
  · split
    · exact K.requestFromTracked _ _ h1
    · split
      · exact K.sendDfr _ _ h1
      · exact K.updateRequest _ _ h1
    · split
      · exact K.sendOfr _ _ h1
      · exact K.declineAndAsk _ _ h1
    · split
      · exact K.sendGrt _ _ h1
      · exact K.renew _ _ h1
    · exact K.answer _ _ _ h1
    · exact K.answer _ _ _ h1
    · exact K.answer _ _ _ h1
    · exact h1
  · exact K.answer _ _ _ h1

theorem takeAcc (K : Keeps P) (i : Slot) (g : Byte) (h : P s) : P (s.takeAcc i g) := by
  unfold State.takeAcc
  dsimp only
  split
  · split
    · exact K.sendGrt _ _ (K.ctx _ (fun _ => ⟨rfl, rfl⟩) (K.joinOrder _ _ h))
    · exact K.sendGrt _ _ h
    · exact K.answer _ _ _ h
  · exact K.answer _ _ _ h

theorem endHolding (K : Keeps P) (i : Slot) (st : CtxState) (h : P s) : P (s.endHolding i st) :=
  K.arbitrateOn _ (K.giveUp _ _ h)

theorem endGapDrop (K : Keeps P) (i : Slot) (h : P s) : P (s.endGapDrop i) := K.arbitrateOn _ (K.enterCrossing _ h)

theorem endShedDrop (K : Keeps P) (i : Slot) (h : P s) : P (s.endShedDrop i) := by
  unfold State.endShedDrop
  split
  · exact K.endHolding _ _ h
  · dsimp only
    have ht : P ((s.askForHeld i).giveUp i .tracked) := K.giveUp _ _ (K.ctx _ (fun _ => ⟨rfl, rfl⟩) h)
    split
    · exact K.arbitrateOn _ (K.refuse _ _ ht)
    · exact K.deferIfQueued _ _ (K.arbitrateOn _ (K.wake _ (K.queueAt _ _ _ _ _ ht)))

theorem endDrop (K : Keeps P) (i : Slot) (h : P s) : P (s.endDrop i) := by
  unfold State.endDrop
  split
  · exact K.endGapDrop _ h
  · exact K.endShedDrop _ h
  · exact K.endHolding _ _ h
  · exact K.endHolding _ _ h

theorem takeRel (K : Keeps P) (i : Slot) (g : Byte) (h : P s) : P (s.takeRel i g) := by
  unfold State.takeRel
  split
  · split
    · exact K.endHolding _ _ (K.ctx _ (fun _ => ⟨rfl, rfl⟩) h)
    · exact K.endHolding _ _ h
    · exact K.endHolding _ _ h
    · exact K.endDrop _ h
    · exact K.endHolding _ _ h
    · exact K.answer _ _ _ h
    · exact K.answer _ _ _ h
    · exact h
  · exact K.answer _ _ _ h

theorem rehome (K : Keeps P) (i : Slot) (h : P s) : P (s.rehome i) := by
  unfold State.rehome
  split
  · exact h
  · split
    · exact K.refuse _ _ (K.giveUp _ _ h)
    · split
      · exact K.wake _ (K.moveEntry _ _ h)
      · exact K.wake _ (K.queueAt _ _ _ _ _ h)

theorem reportQueued (K : Keeps P) (i : Slot) (h : P s) : P (s.reportQueued i) := by
  unfold State.reportQueued
  split
  · exact h
  · split
    · exact h
    · dsimp only
      split
      · exact K.deferIfQueued _ _ (K.arbitrateOn _ (K.rehome _ h))
      · exact K.arbitrateOn _ (K.rehome _ h)

theorem reportOffered (K : Keeps P) (i : Slot) (h : P s) : P (s.reportOffered i) := by
  unfold State.reportOffered
  split
  · exact h
  · split
    · exact h
    · dsimp only
      split
      · exact K.arbitrate _ (K.refuse _ _ (K.giveUp _ _ h))
      · exact K.deferIfQueued _ _ (K.arbitrateOn _ (K.wake _ (K.queueAt _ _ _ _ _ (K.giveUp _ _ h))))

theorem moveGrant (K : Keeps P) (i : Slot) (g : Holding) (x : SectionId) (hg : (s.ctx i).hold = some g) (h : P s) :
    P (s.moveGrant i g x) := by
  unfold State.moveGrant
  dsimp only
  have ht := K.sendGrt i (s.ctx i).tagByte (K.setHold i _ (spares_less (a := min g.amount (s.sectionRoom x)) (x := x) hg (Nat.min_le_left _ _) (Nat.min_le_right _ _)) h)
  split
  · exact K.arbitrate _ ht
  · exact ht

theorem reportDrawing (K : Keeps P) (i : Slot) (h : P s) : P (s.reportDrawing i) := by
  unfold State.reportDrawing
  split
  · exact h
  · next hg =>
    split
    · split
      · exact h
      · split
        · exact K.moveGrant _ _ _ hg h
        · exact K.startDrop _ _ _ h
    · exact K.startDrop _ _ _ h
    · exact h

theorem reportDropping (K : Keeps P) (i : Slot) (h : P s) : P (s.reportDropping i) := by
  unfold State.reportDropping
  split
  · split
    · exact K.setWithdraw _ _ _ h
    · exact h
  · exact K.endDrop _ h

theorem admissionReport (K : Keeps P) (i : Slot) (h : P s) : P (s.admissionReport i) := by
  unfold State.admissionReport
  split
  · exact K.reportQueued _ h
  · exact K.reportOffered _ h
  · exact K.reportDrawing _ h
  · exact K.reportDropping _ h
  all_goals exact h

/-! ### Gaps -/

/-- The placement of a section is that section. -/
theorem placed_sect {s : State} {x y : SectionId} {f : FeederId} (h : s.place (.sect x) = .placed y f) : y = x := by
  simp only [State.place] at h
  split at h
  · cases h
  · split at h
    · cases h
    · split at h
      · cases h; rfl
      · cases h

theorem tryReserve (K : Keeps P) (i : Slot) (h : P s) : P (s.tryReserve i) := by
  unfold State.tryReserve
  split
  · exact h
  · next x ht =>
    split
    · exact h
    · next y f hp =>
      split
      · next hc =>
        unfold State.canReserve at hc
        rw [Bool.and_eq_true] at hc
        refine K.makeReservation _ _ hc.2 (fun z hz => ?_) h
        rw [placed_sect hp]
        exact Option.some.inj (hz.symm.trans ht)
      · exact K.addEntry _ _ _ _ _ h

theorem approachGap (K : Keeps P) (i : Slot) (g : GapId) (hd : Holding) (h : P s) : P (s.approachGap i g hd) :=
  K.arbitrateOn _ (K.tryReserve _ (K.wake _ (K.startDrop _ _ _ (K.setGap _ _ (spares_unreserved _ _ rfl) h))))

theorem reportArc (K : Keeps P) (i : Slot) (h : P s) : P (s.reportArc i) :=
  K.setGap _ _ (spares_sameGap _ _ rfl) (K.report _ _ _ h)

theorem arcTest (K : Keeps P) (i : Slot) (h : P s) : P (s.arcTest i) := by
  unfold State.arcTest
  split
  · exact K.strike _ (K.reportArc _ h)
  · exact h

theorem beginJump (K : Keeps P) (i : Slot) (g : GapId) (hd : Holding) (h : P s) : P (s.beginJump i g hd) :=
  K.tryReserve _ (K.wake _ (K.setWithdraw _ _ _ (K.enterCrossing _ (K.setGap _ _ (spares_unreserved _ _ rfl) h))))

theorem jumpGap (K : Keeps P) (i : Slot) (g : GapId) (hd : Holding) (h : P s) : P (s.jumpGap i g hd) := by
  unfold State.jumpGap
  dsimp only
  split
  · exact K.arbitrateOn _ (K.strikeQuiet _ (K.reportArc _ (K.beginJump _ _ _ h)))
  · exact K.arbitrateOn _ (K.beginJump _ _ _ h)

theorem askForCrossing (K : Keeps P) (i : Slot) (h : P s) : P (s.askForCrossing i) := K.ctx _ (fun _ => ⟨rfl, rfl⟩) h

theorem exitHeld (K : Keeps P) (i : Slot) (h : P s) : P (s.exitHeld i) := K.refuse _ _ (K.giveUp _ _ h)

theorem exitQueued (K : Keeps P) (i : Slot) (f : FeederId) (x : SectionId) (h : P s) : P (s.exitQueued i f x) := by
  unfold State.exitQueued
  dsimp only
  exact K.wake _ (K.queueAt _ _ _ _ _ (K.giveUp _ _ h))

theorem exitGranted (K : Keeps P) (i : Slot) (r : Holding) (hr : (s.ctx i).gap.reserved = some r) (h : P s) :
    P (s.exitGranted i r) :=
  K.sendGrt _ _ (K.ctx _ (fun _ => ⟨rfl, rfl⟩) (K.joinOrder _ _ (K.turnGrant _ _ hr h)))

theorem exitReserved (K : Keeps P) (i : Slot) (r : Holding) (hr : (s.ctx i).gap.reserved = some r) (h : P s) :
    P (s.exitReserved i r) := by
  unfold State.exitReserved
  split
  · exact K.exitGranted _ _ hr h
  · split
    · exact K.arbitrate _ (K.exitHeld _ h)
    · exact K.deferIfQueued _ _ (K.arbitrate _ (K.exitQueued _ _ _ (K.askForCrossing _ h)))

theorem exitEntry (K : Keeps P) (i : Slot) (m : Membership) (h : P s) : P (s.exitEntry i m) := by
  unfold State.exitEntry
  split
  · exact K.arbitrate _ (K.exitHeld _ h)
  · exact K.deferIfQueued _ _ (K.arbitrate _ (K.wake _ (K.modCtxTold _ (fun _ => ⟨rfl, rfl⟩) (K.setGap _ _ (spares_unreserved _ _ rfl) (K.askForCrossing _ h)))))

theorem exitEmpty (K : Keeps P) (i : Slot) (x : SectionId) (h : P s) : P (s.exitEmpty i x) := by
  unfold State.exitEmpty
  split
  · exact K.refuse _ _ (K.giveUp _ _ h)
  · split
    · exact K.exitHeld _ h
    · exact K.deferIfQueued _ _ (K.arbitrate _ (K.exitQueued _ _ _ (K.askForCrossing _ h)))

theorem exitTarget (K : Keeps P) (i : Slot) (x : SectionId) (h : P s) : P (s.exitTarget i x) := by
  unfold State.exitTarget
  split
  · next hr => exact K.exitReserved _ _ hr h
  · exact K.exitEntry _ _ h
  · exact K.exitEmpty _ _ h

theorem decideOrigin (K : Keeps P) (i : Slot) (x : SectionId) (h : P s) : P (s.decideOrigin i x) := by
  unfold State.decideOrigin
  split
  · exact K.refuse _ _ (K.giveUp _ _ h)
  · split
    · exact K.sendGrt _ _ (K.grantDirect _ _ _ _ (K.setGap _ _ (spares_unreserved _ _ rfl) h))
    · split
      · exact K.exitHeld _ h
      · exact K.deferIfQueued _ _ (K.arbitrate _ (K.exitQueued _ _ _ h))

theorem reversal (K : Keeps P) (i : Slot) (x : SectionId) (h : P s) : P (s.reversal i x) :=
  K.decideOrigin _ _ (K.askForCrossing _ (K.arbitrateOn _ (K.setGap _ _ (spares_unreserved _ _ rfl) (K.dropEntry _ h))))

theorem exitInto (K : Keeps P) (i : Slot) (e : GapEntry) (t x : SectionId) (h : P s) : P (s.exitInto i e t x) := by
  unfold State.exitInto
  split
  · exact K.exitTarget _ _ h
  · split
    · exact K.reversal _ _ h
    · exact K.endHolding _ _ h

theorem reportCrossing (K : Keeps P) (i : Slot) (h : P s) : P (s.reportCrossing i) := by
  unfold State.reportCrossing
  dsimp only
  split
  · exact K.arcTest _ h
  · split
    · exact h
    · exact K.exitInto _ _ _ _ h
  · exact K.endHolding _ _ h

theorem gapDrawing (K : Keeps P) (i : Slot) (h : P s) : P (s.gapDrawing i) := by
  unfold State.gapDrawing
  dsimp only
  split
  · split
    · exact h
    · exact K.jumpGap _ _ _ h
  · exact K.approachGap _ _ _ h
  · exact h

theorem gapReport (K : Keeps P) (i : Slot) (h : P s) : P (s.gapReport i) := by
  unfold State.gapReport
  split
  · exact K.gapDrawing _ h
  · exact K.arcTest _ h
  · exact K.reportCrossing _ h
  all_goals exact h

theorem stall (K : Keeps P) (i : Slot) (h : P s) : P (s.stall i) := K.arbitrateOn _ (K.report _ _ _ (K.giveUp _ _ h))

/-! ### The swap -/

theorem reconfig (K : Keeps P) (i : Slot) (h : P s) : P (s.reconfig i) := by
  unfold State.reconfig
  split
  · exact K.startDrop _ _ _ h
  · exact K.refuse _ _ (K.giveUp _ _ h)
  · split
    · exact K.redirectDrop _ _ h
    · exact h
  · exact K.withdrawNow _ _ _ h
  all_goals exact h

theorem reconfigReport (K : Keeps P) (i : Slot) (h : P s) : P (s.reconfigReport i) := by
  unfold State.reconfigReport
  split
  · exact K.arbitrateOn _ (K.reconfig _ h)
  · exact h

theorem reconfigAll (K : Keeps P) (h : P s) : P s.reconfigAll := by
  unfold State.reconfigAll
  refine K.arbitrateOn _ (K.eachSlot (fun t i ht => ?_) h)
  split
  · exact K.reconfig _ ht
  · exact ht

theorem resettle (K : Keeps P) (i : Slot) (h : P s) : P (s.resettle i) := by
  unfold State.resettle
  dsimp only
  split
  · exact h
  · exact K.ctx _ (fun _ => ⟨rfl, rfl⟩) h

theorem completeSwap (K : Keeps P) (h : P s) : P s.completeSwap := by
  unfold State.completeSwap
  dsimp only
  refine K.eachSlot (fun t i ht => ?_) (K.arbitrateAll (K.report _ _ _ (K.eachSlot (fun t i ht => ?_)
    (K.eachSection (fun t x ht => K.sectionAfterSwap x ht) (K.eachSlot (fun t i ht => K.resettle i ht)
      (K.flip h))))))
  · unfold State.tellRehomed
    split
    · exact K.deferIfQueued _ _ ht
    · exact ht
  · unfold State.rehomeQueued
    split
    · exact K.rehome _ ht
    · exact ht

theorem evalSwap (K : Keeps P) (h : P s) : P s.evalSwap := by
  unfold State.evalSwap
  split
  · exact K.completeSwap h
  · exact h

theorem abandonSwap (K : Keeps P) (h : P s) : P s.abandonSwap :=
  K.arbitrateAll (K.setSwap _ _ h)

theorem timeoutSwap (K : Keeps P) (h : P s) : P s.timeoutSwap :=
  K.arbitrateAll (K.report _ _ _ (K.setSwap _ _ h))

theorem beginSwap (K : Keeps P) (h : P s) : P s.beginSwap := K.evalSwap (K.setSwap _ _ h)

theorem beginForcedSwap (K : Keeps P) (h : P s) : P s.beginForcedSwap :=
  K.evalSwap (K.reconfigAll (K.setSwap _ s.swapTimer h))

/-! ### Trucks -/

theorem freeCtx (K : Keeps P) (i : Slot) (h : P s) : P (s.freeCtx i) := K.arbitrateOn _ (K.freeQuiet _ h)

theorem psaWithout (K : Keeps P) (t : Byte) (p : Report) (r : Resolution) (h : P s) : P (s.psaWithout t p r) := by
  unfold State.psaWithout
  split
  · exact K.offerC _ (Nat.le_of_ble_eq_true rfl) h
  · exact h

theorem psaFor (K : Keeps P) (i : Slot) (p : Report) (r : Resolution) (h : P s) : P (s.psaFor i p r) := by
  unfold State.psaFor
  dsimp only
  split
  · exact K.offerC _ (Nat.le_of_ble_eq_true rfl) h
  · exact h

theorem copyDat (K : Keeps P) (t g : Byte) (p : List Byte) (h : P s) : P (s.copyDat t g p) := by
  unfold State.copyDat
  split
  · exact K.offerC _ (Nat.le_of_ble_eq_true rfl) h
  · exact h

theorem heard (K : Keeps P) (i : Slot) (h : P s) : P (s.heard i) := K.ctx _ (fun _ => ⟨rfl, rfl⟩) h

theorem settle (K : Keeps P) (i : Slot) (p : Report) (r : Resolution) (h : P s) : P (s.settle i p r) :=
  K.ctx _ (fun _ => ⟨rfl, rfl⟩) h

theorem countOverdraw (K : Keeps P) (i : Slot) (h : P s) : P (s.countOverdraw i) := by
  unfold State.countOverdraw
  dsimp only
  split
  · split
    · split
      · exact K.strike _ (K.ctx _ (fun _ => ⟨rfl, rfl⟩) (K.report _ _ _ h))
      · exact K.ctx _ (fun _ => ⟨rfl, rfl⟩) h
    · exact K.ctx _ (fun _ => ⟨rfl, rfl⟩) h
  · exact h

theorem actOnReport (K : Keeps P) (i : Slot) (p : Report) (r : Resolution) (h : P s) : P (s.actOnReport i p r) :=
  K.evalSwap (K.psaFor _ _ _ (K.approachWake _ (K.reconfigReport _ (K.gapReport _ (K.admissionReport _ (K.countOverdraw _ h))))))

theorem takeReport (K : Keeps P) (i : Slot) (p : Report) (h : P s) : P (s.takeReport i p) := by
  unfold State.takeReport
  dsimp only
  split
  · exact K.evalSwap (K.psaWithout _ _ _ (K.freeCtx _ (K.settle _ _ _ (K.heard _ h))))
  · exact K.actOnReport _ _ _ (K.settle _ _ _ (K.heard _ h))

theorem admitTruck (K : Keeps P) (i : Slot) (t : Byte) (p : Report) (r : Resolution) (h : P s) : P (s.admitTruck i t p r) :=
  K.actOnReport _ _ _ (K.settle _ _ _ (K.heard _ (K.newcomer _ _ _ h)))

theorem takeStranger (K : Keeps P) (t : Byte) (p : Report) (h : P s) : P (s.takeStranger t p) := by
  unfold State.takeStranger
  dsimp only
  split
  · exact K.evalSwap (K.psaWithout _ _ _ h)
  · split
    · exact K.admitTruck _ _ _ _ h
    · exact K.admitTruck _ _ _ _ (K.freeCtx _ h)
    · exact K.evalSwap (K.psaWithout _ _ _ (K.report _ _ _ (K.refuseTruck _ _ _ h)))

theorem dispatchPsn (K : Keeps P) (t : Byte) (p : Report) (h : P s) : P (s.dispatchPsn t p) := by
  unfold State.dispatchPsn
  split
  · exact K.takeReport _ _ h
  · exact K.takeStranger _ _ h

theorem dispatchDrq (K : Keeps P) (t : Byte) (u : Terms) (h : P s) : P (s.dispatchDrq t u) := by
  unfold State.dispatchDrq
  split
  · exact K.evalSwap (K.takeDrq _ _ (K.heard _ h))
  · exact K.refuseTruck _ _ _ h

theorem dispatchAcc (K : Keeps P) (t g : Byte) (h : P s) : P (s.dispatchAcc t g) := by
  unfold State.dispatchAcc
  split
  · exact K.evalSwap (K.takeAcc _ _ (K.heard _ h))
  · exact K.refuseTruck _ _ _ h

theorem dispatchRel (K : Keeps P) (t g : Byte) (h : P s) : P (s.dispatchRel t g) := by
  unfold State.dispatchRel
  split
  · exact K.evalSwap (K.takeRel _ _ (K.heard _ h))
  · exact K.refuseTruck _ _ _ h

theorem dispatchDat (K : Keeps P) (t g : Byte) (p : List Byte) (h : P s) : P (s.dispatchDat t g p) := by
  unfold State.dispatchDat
  split
  · exact K.copyDat _ _ _ (K.heard _ h)
  · exact K.copyDat _ _ _ h

theorem actOnSilence (K : Keeps P) (i : Slot) (h : P s) : P (s.actOnSilence i) := by
  unfold State.actOnSilence
  split
  · exact K.strike _ (K.arbitrateOn _ (K.withdrawNow _ _ _ h))
  · exact K.endHolding _ _ h
  · exact K.endHolding _ _ h
  · exact h
  · exact h
  · split
    · exact K.freeCtx _ h
    · exact h
  · split
    · exact K.freeCtx _ h
    · exact h
  · exact h

theorem silence (K : Keeps P) (i : Slot) (h : P s) : P (s.silence i) :=
  K.evalSwap (K.actOnSilence _ (K.ctx _ (fun _ => ⟨rfl, rfl⟩) h))

theorem orderLower (K : Keeps P) (i : Slot) (h : P s) : P (s.orderLower i) := by
  unfold State.orderLower
  split
  · exact K.startDrop _ _ _ h
  · split
    · exact K.setWithdraw _ _ _ h
    · exact K.arbitrateOn _ (K.redirectDrop _ _ h)
  · exact K.arbitrateOn _ (K.withdrawNow _ _ _ h)
  · exact K.arbitrateOn _ (K.withdrawNow _ _ _ h)
  · exact K.arbitrateOn _ (K.withdrawNow _ _ _ h)
  · exact K.setWithdraw _ _ _ h
  · exact K.setWithdraw _ _ _ h
  · exact h

theorem setHoldFlag (K : Keeps P) (i : Slot) (b : Bool) (h : P s) : P (s.setHoldFlag i b) := K.ctx _ (fun _ => ⟨rfl, rfl⟩) h

theorem endHeld (K : Keeps P) (i : Slot) (h : P s) : P (s.endHeld i) := K.arbitrateOn _ (K.refuse _ _ (K.giveUp _ _ h))

theorem orderHold (K : Keeps P) (i : Slot) (h : P s) : P (s.orderHold i) := by
  unfold State.orderHold
  split
  · exact h
  · split
    · exact K.endHeld _ (K.setHoldFlag _ _ h)
    · exact K.endHeld _ (K.setHoldFlag _ _ h)
    · exact K.setHoldFlag _ _ h

theorem unfaulted_keeps (c : Context) : c.unfaulted.hold = c.hold ∧ c.unfaulted.gap = c.gap := by
  unfold Context.unfaulted
  split <;> exact ⟨rfl, rfl⟩

theorem orderClearFault (K : Keeps P) (i : Slot) (h : P s) : P (s.orderClearFault i) :=
  K.ctx _ (fun c => ⟨(unfaulted_keeps c).1, by rw [← (unfaulted_keeps c).2]⟩) h

theorem clearExclusion (K : Keeps P) (i : Slot) (h : P s) : P (s.clearExclusion i) := by
  unfold State.clearExclusion
  split
  · exact h
  · exact K.ctx _ (fun c => ⟨(unfaulted_keeps c).1, by rw [← (unfaulted_keeps c).2]⟩) h

/-! ### Feeders -/

theorem stripFeeder (K : Keeps P) (i : Slot) (f : FeederId) (h : P s) : P (s.stripFeeder i f) := by
  unfold State.stripFeeder
  dsimp only
  split <;> split
  · exact K.dropEntry _ (K.setGap _ _ (spares_unreserved _ _ rfl) h)
  · exact K.setGap _ _ (spares_unreserved _ _ rfl) h
  · exact K.dropEntry _ h
  · exact h

theorem tripDrop (K : Keeps P) (i : Slot) (r : Reason) (h : P s) : P (s.tripDrop i r) := by
  unfold State.tripDrop
  split
  · exact K.setWithdraw _ _ _ (K.enterCrossing _ h)
  · exact K.withdrawNow _ _ _ h
  · exact K.withdrawNow _ _ _ h

theorem tripContext (K : Keeps P) (f : FeederId) (r : Reason) (i : Slot) (h : P s) : P (State.tripContext f r s i) := by
  unfold State.tripContext
  split
  · split
    · exact K.withdrawNow _ _ _ h
    · exact h
  · refine K.stripFeeder _ _ ?_
    split
    · exact K.tripDrop _ _ h
    · exact h
  · split
    · exact K.refuse _ _ (K.giveUp _ _ h)
    · exact h
  · split
    · exact K.refuse _ _ (K.giveUp _ _ h)
    · exact h
  · exact K.stripFeeder _ _ h
  all_goals exact h

theorem tripConsequences (K : Keeps P) (f : FeederId) (r : Reason) (h : P s) : P (s.tripConsequences f r) :=
  K.arbitrateOn _ (K.fdr _ (fun _ => ⟨rfl, rfl⟩) (K.eachSlot (fun _ i => K.tripContext f r i) h))

theorem stopFeeder (K : Keeps P) (f : FeederId) (st : FeederState) (h : P s) : P (s.stopFeeder f st) := K.fdr _ (fun _ => ⟨rfl, rfl⟩) h

theorem feederOffline (K : Keeps P) (f : FeederId) (h : P s) : P (s.feederOffline f) := by
  unfold State.feederOffline
  split
  · exact h
  · exact K.evalSwap (K.sectionsDown _ (K.tripConsequences _ _ (K.stopFeeder _ _ h)))

theorem feederLost (K : Keeps P) (f : FeederId) (h : P s) : P (s.feederLost f) :=
  K.evalSwap (K.sectionsDown _ (K.tripConsequences _ _ (K.report _ _ _ (K.stopFeeder _ _ h))))

theorem feederTrip (K : Keeps P) (f : FeederId) (h : P s) : P (s.feederTrip f) :=
  K.sectionsDown _ (K.tripConsequences _ _ (K.report _ _ _ (K.stopFeeder _ _ h)))

theorem feederSilent (K : Keeps P) (f : FeederId) (h : P s) : P (s.feederSilent f) := by
  unfold State.feederSilent
  split
  · exact K.sectionsSuspect _ (K.report _ _ _ (K.fdr _ (fun _ => ⟨rfl, rfl⟩) h))
  · exact h

theorem feederOnline (K : Keeps P) (f : FeederId) (h : P s) : P (s.feederOnline f) :=
  K.arbitrate _ (K.sectionsBack _ (K.fdr _ (fun _ => ⟨rfl, rfl⟩) h))

theorem compareOverload (K : Keeps P) (f : FeederId) (n : Nat) (h : P s) : P (s.compareOverload f n) :=
  K.fdr _ (fun _ => ⟨rfl, rfl⟩) h

theorem restartOverload (K : Keeps P) (f : FeederId) (h : P s) : P (s.restartOverload f) := K.fdr _ (fun _ => ⟨rfl, rfl⟩) h

theorem countShed (K : Keeps P) (h : P s) : P s.countShed := K.frame (by constructor <;> simp [State.countShed]) h

theorem shed (K : Keeps P) (f : FeederId) (h : P s) : P (s.shed f) := by
  unfold State.shed
  split
  · exact K.restartOverload _ (K.countShed (K.report _ _ _ (K.startDrop _ _ _ h)))
  · exact K.restartOverload _ (K.report _ _ _ h)

/-! ### Samples -/

theorem countMissed (K : Keeps P) (f : FeederId) (p : Option Sample) (q : Byte) (h : P s) : P (s.countMissed f p q) := by
  unfold State.countMissed
  split
  · exact h
  · exact K.missed _ _ h

theorem writeRing (K : Keeps P) (f : FeederId) (m : Sample) (h : P s) : P (s.writeRing f m) := by
  unfold State.writeRing
  dsimp only
  split
  · split
    · exact K.report _ _ _ (K.stored _ _ h)
    · exact K.stored _ _ h
  · exact h

theorem freezeRing (K : Keeps P) (f : FeederId) (h : P s) : P (s.freezeRing f) :=
  K.report _ _ _ (K.ring _ (fun _ => ⟨rfl, rfl, rfl⟩) h)

theorem actOnStep (K : Keeps P) (f : FeederId) (n : Option Nat) (h : P s) : P (s.actOnStep f n) := by
  unfold State.actOnStep
  split
  · exact h
  · dsimp only
    split
    · exact K.ring _ (fun _ => ⟨rfl, rfl, rfl⟩) (K.report _ _ _ h)
    · exact K.report _ _ _ h

theorem lowerCountdown (K : Keeps P) (f : FeederId) (h : P s) : P (s.lowerCountdown f) := by
  unfold State.lowerCountdown
  split
  · split
    · exact K.freezeRing _ h
    · exact K.ring _ (fun _ => ⟨rfl, rfl, rfl⟩) h
  · exact h

theorem startPostTrip (K : Keeps P) (f : FeederId) (h : P s) : P (s.startPostTrip f) := by
  unfold State.startPostTrip
  dsimp only
  split
  · split
    · exact K.freezeRing _ h
    · exact K.ring _ (fun _ => ⟨rfl, rfl, rfl⟩) h
  · exact h

theorem feederSample (K : Keeps P) (f : FeederId) (m : Sample) (h : P s) : P (s.feederSample f m) := by
  unfold State.feederSample
  split
  · exact K.compareOverload _ _ h
  · exact K.compareOverload _ _ (K.feederOnline _ h)
  · exact K.evalSwap (K.startPostTrip _ (K.feederTrip _ h))
  · exact K.evalSwap (K.startPostTrip _ (K.feederTrip _ h))
  · exact h
  · exact h

theorem takeSample (K : Keeps P) (f : FeederId) (m : Sample) (h : P s) : P (s.takeSample f m) :=
  K.feederSample _ _ (K.lowerCountdown _ (K.actOnStep _ _ (K.writeRing _ _ (K.countMissed _ _ _ (K.meter _ _ h)))))

theorem meterSilent (K : Keeps P) (f : FeederId) (h : P s) : P (s.meterSilent f) := K.feederSilent _ (K.meter _ _ h)

end Keeps

end Sys2Proof.Machine
end

