-- ==== Sys2Proof/Laws/KeepsExec.lean ====
section
/-! SUPPORT. What every command and every step keeps, from the primitive changes that keep it. -/

namespace Sys2Proof.Machine
open Sys2Proof

/-- The primitive changes keep a property, and so do the changes of the whole part. -/
structure KeepsAll (P : State → Prop) : Prop extends Keeps P where
  sendReply : ∀ {s : State} (f : Frame), P s → P (s.sendReply f)
  offerRequest : ∀ {s : State} (f : Frame), P s → P (s.offerRequest f)
  popRequest : ∀ {s : State} {f : Frame} {fs : List Frame}, s.requestBuffer = f :: fs → P s → P { s with requestBuffer := fs }
  popNormal : ∀ {s : State} {f : Frame} {fs : List Frame}, s.normalQueue = f :: fs → P s → P { s with normalQueue := fs }
  popC : ∀ {s : State} {f : Frame} {fs : List Frame}, s.cQueue = f :: fs → P s → P { s with cQueue := fs }
  stopped : ∀ {s : State} (n : Nat), P s → P (s.takeRampStop n)
  resumed : ∀ {s : State}, P s → P s.takeRampResume
  enabled : ∀ {s : State} (x : SectionId), P s → P (s.commandEnable x)
  poweredOn : ∀ {s : State} (a : Byte), P s → P (State.powerOn a s.stopLine s.samples s.fresh s.pending)
  restarted : ∀ {s : State}, P s → P s.restarted
  ticked : ∀ {s : State}, P s → P s.tick
  setGlobals : ∀ {s : State} (g : Globals), P s → P { s with globals := g }
  setBank : ∀ {s : State} (k : BankId) (b : Bank), P s → P (s.setBank k b)
  setClasses : ∀ {s : State} (v : Vector ClassEntry 8), P s → P { s with classes := v }
  setLine : ∀ {s : State} (b : Bool), P s → P { s with stopLine := b }
  setPin : ∀ {s : State}, P s → P { s with resetPin := true }
  descriptor : ∀ {s : State} (f : FeederId) (d : RingDesc),
    (16 ≤ d.length ∧ d.length ≤ 2048 ∧ d.length % 16 = 0 ∧ d.start + d.length ≤ 8192) → (s.ring f).moved d = false →
    P s → P (s.modRing f (fun r => r.rewritten d))

/-- A property that changes of holders alone keep needs little more. -/
theorem Keeps.ofHolders {P : State → Prop} (frame : ∀ {s t : State}, SameCore s t → P s → P t)
    (sendNormal : ∀ {s : State} (f : Frame), P s → P (s.sendNormal f)) (offerC : ∀ {s : State} (f : Frame), 0x80 ≤ f.kind.toNat → P s → P (s.offerC f))
    (holders : ∀ {s t : State}, HoldersOnly s t → P s → P t)
    (sec : ∀ {s : State} (x : SectionId) {g : SectionRec → SectionRec},
      ((s.sec x).state ≠ .isolated ∨ ∀ r, r.state = .isolated → (g r).state = .isolated) → Locks g → P s → P (s.modSec x g))
    (ring : ∀ {s : State} (f : FeederId) {g : Ring → Ring},
      (∀ r, (g r).desc = r.desc ∧ (g r).writePos = r.writePos ∧ (g r).fill = r.fill) → P s → P (s.modRing f g))
    (stored : ∀ {s : State} (f : FeederId) (e : SampleEntry), P s →
      P (({ s with samples := s.samples.store (s.ring f).writePos e } : State).modRing f Ring.advanced))
    (meter : ∀ {s : State} (f : FeederId) (g : Meter → Meter), P s → P (s.modMeter f g))
    (missed : ∀ {s : State} (f : FeederId) (n : Nat),
      P s → P { s with counters := { s.counters with missed := s.counters.missed.set f n } })
    (flip : ∀ {s : State}, P s → P s.flip)
    (setSwap : ∀ {s : State} (w : SwapState) (t : Timer), P s → P { s with swap := w, swapTimer := t }) : Keeps P where
  frame := frame
  sendNormal := sendNormal
  offerC := offerC
  ctx := fun _ _ _ h => holders (HoldersOnly.modCtx _ _ _) h
  setHold := fun _ _ _ h => holders (HoldersOnly.setHold _ _ _) h
  setGap := fun _ _ _ h => holders (HoldersOnly.setGap _ _ _) h
  turnGrant := fun _ _ _ h => holders ((HoldersOnly.setHold _ _ _).trans (HoldersOnly.setGap _ _ _)) h
  freeQuiet := fun _ h => holders (HoldersOnly.freeQuiet _ _) h
  newcomer := fun _ _ _ h => holders ((HoldersOnly.freeQuiet _ _).trans (HoldersOnly.setCtx _ _ _)) h
  fdr := fun _ _ _ h => holders (HoldersOnly.modFdr _ _ _) h
  sec := sec
  ring := ring
  stored := stored
  meter := meter
  missed := missed
  flip := flip
  setSwap := setSwap

/-- A written descriptor is one a sound ring may have (R131). -/
theorem ringDescOf_ranges {e : RingWire} {d : RingDesc} (h : ringDescOf e = some d) :
    16 ≤ d.length ∧ d.length ≤ 2048 ∧ d.length % 16 = 0 ∧ d.start + d.length ≤ 8192 := by
  unfold ringDescOf at h
  split at h
  · split at h
    · simp only [Option.some.injEq] at h
      subst h
      dsimp only
      omega
    · simp at h
  · simp at h

/-- A descriptor that neither moves nor resizes an enabled ring, or that begins it anew, keeps it sound (R131). -/
theorem rewritten_sound {r : Ring} {d : RingDesc} (hd : 16 ≤ d.length ∧ d.length ≤ 2048 ∧ d.length % 16 = 0 ∧ d.start + d.length ≤ 8192)
    (hm : r.moved d = false) (h : r.sound) : (r.rewritten d).sound := by
  unfold Ring.rewritten
  unfold Ring.moved at hm
  unfold Ring.sound at *
  split
  · next he =>
    have hs : d.start = r.desc.start ∧ d.length = r.desc.length := by
      simp only [he, Bool.true_and, Bool.or_eq_false_iff, bne_eq_false_iff_eq] at hm
      exact hm
    dsimp only
    omega
  · dsimp only
    omega

namespace KeepsAll
variable {P : State → Prop} {s : State}

/-! ### Replies -/

theorem reply (K : KeepsAll P) (c : Caller) (k : Nat) (p : List Byte) (h : P s) : P (s.reply c k p) := K.sendReply _ h

theorem ack (K : KeepsAll P) (c : Caller) (h : P s) : P (s.ack c) := K.sendReply _ h

theorem nak (K : KeepsAll P) (c : Caller) (k : NakCode) (a b : Byte) (h : P s) : P (s.nak c k a b) := K.sendReply _ h

/-! ### Reception -/

theorem setAsm (K : KeepsAll P) (l : Link) (a : Assembler) (h : P s) : P (s.setAsm l a) :=
  K.frame (by cases l <;> constructor <;> simp [State.setAsm]) h

theorem endRunt (K : KeepsAll P) (l : Link) (h : P s) : P (s.endRunt l) := by
  unfold State.endRunt
  split
  · exact h
  · exact K.modLink _ _ (K.setAsm _ _ h)

theorem endLate (K : KeepsAll P) (l : Link) (h : P s) : P (s.endLate l) := by
  unfold State.endLate
  split
  · exact K.endRunt _ h
  · exact h

theorem dispatchW (K : KeepsAll P) (w : WFrame) (h : P s) : P (s.dispatchW w) := by
  cases w with
  | psn t p => exact K.dispatchPsn _ _ h
  | drq t u => exact K.dispatchDrq _ _ h
  | acc t g => exact K.dispatchAcc _ _ h
  | rel t g => exact K.dispatchRel _ _ h
  | dat t g p => exact K.dispatchDat _ _ _ h
  | sst x u => exact K.evalSwap (K.takeStatus _ _ h)

theorem receiveFrame (K : KeepsAll P) (l : Link) (f : Frame) (h : P s) : P (s.receiveFrame l f) := by
  cases l with
  | w =>
    show P (s.receiveW f)
    unfold State.receiveW
    split
    · exact K.dispatchW _ (K.modLink _ _ h)
    · exact K.modLink _ _ h
  | c =>
    show P (s.receiveC f)
    unfold State.receiveC
    split
    · exact h
    · split
      · exact K.modLink _ _ h
      · exact K.offerRequest _ (K.modLink _ _ h)
  | m =>
    show P (s.receiveM f)
    unfold State.receiveM
    split
    · exact K.takeSample _ _ (K.modLink _ _ h)
    · exact K.modLink _ _ h

theorem fromTruck (K : KeepsAll P) (t : Byte) (w : WFrame) (h : P s) : P (s.fromTruck t w) := by
  unfold State.fromTruck
  split
  · exact K.dispatchW _ (K.modLink _ _ (K.endRunt _ h))
  · exact K.modLink _ _ (K.endRunt _ h)

theorem feedFor (K : KeepsAll P) (l : Link) (n : Nat) : ∀ {s : State} (bytes : List Byte), P s → P (State.feedFor l n s bytes) := by
  induction n with
  | zero => exact fun _ h => h
  | succ n ih =>
    intro s bytes h
    cases bytes with
    | nil => exact h
    | cons b rest =>
      unfold State.feedFor
      split
      · exact ih _ (K.setAsm _ _ h)
      · exact ih _ (K.receiveFrame _ _ (K.setAsm _ _ h))
      · exact ih _ (K.modLink _ _ (K.setAsm _ _ h))

theorem feed (K : KeepsAll P) (l : Link) (bytes : List Byte) (h : P s) : P (s.feed l bytes) := K.feedFor _ _ _ h

theorem feedFrame (K : KeepsAll P) (l : Link) (bytes : List Byte) (h : P s) : P (s.feedFrame l bytes) := by
  unfold State.feedFrame
  split
  · exact K.feed _ _ h
  · exact K.feed _ _ h

/-! ### Transmission -/

theorem startW (K : KeepsAll P) (f : Frame) (h : P s) : P (s.startW f) := by
  have h1 : P { s.settleW with wSending := some { frame := f, left := frameTime f } } :=
    K.frame (by constructor <;> simp [State.settleW]) h
  unfold State.startW State.mirror
  split
  · exact K.offerC _ (Nat.le_of_ble_eq_true rfl) h1
  · exact h1

theorem sendBroadcast (K : KeepsAll P) (h : P s) : P s.sendBroadcast := by
  unfold State.sendBroadcast
  split
  · exact K.startW _ (K.frame (by constructor <;> simp) h)
  · exact h

theorem sendWdr (K : KeepsAll P) (h : P s) : P s.sendWdr := by
  unfold State.sendWdr
  split
  · split
    · exact h
    · split
      · exact h
      · exact K.startW _ (K.ctx _ (fun _ => ⟨rfl, rfl⟩) h)
  · exact h

theorem sendScm (K : KeepsAll P) (h : P s) : P s.sendScm := by
  unfold State.sendScm
  split
  · split
    · exact h
    · split
      · exact h
      · exact K.startW _ (K.sec _ (.inr fun _ hr => hr) (fun _ hr => .inr ⟨hr, rfl⟩) h)
  · exact h

theorem sendQueued (K : KeepsAll P) (h : P s) : P s.sendQueued := by
  unfold State.sendQueued
  split
  · split
    · exact h
    · exact K.startW _ (K.popNormal (by assumption) h)
  · exact h

theorem sendC (K : KeepsAll P) (h : P s) : P s.sendC := by
  unfold State.sendC
  split
  · split
    · exact h
    · next f fs hq =>
      exact K.frame (s := { s with cQueue := fs }) (by constructor <;> simp [State.settleC]) (K.popC hq h)
  · exact h

theorem settleW (K : KeepsAll P) (h : P s) : P s.settleW := K.frame (by constructor <;> simp [State.settleW]) h

theorem settleC (K : KeepsAll P) (h : P s) : P s.settleC := K.frame (by constructor <;> simp [State.settleC]) h

theorem changeWRate (K : KeepsAll P) (h : P s) : P s.changeWRate := by
  unfold State.changeWRate
  split
  · exact K.settleW h
  · exact h

theorem changeCRate (K : KeepsAll P) (h : P s) : P s.changeCRate := by
  unfold State.changeCRate
  split
  · exact K.settleC h
  · exact h

/-! ### Requests -/

theorem putSection (K : KeepsAll P) (k : BankId) (x : SectionId) (e : SectionEntry) (h : P s) : P (s.putSection k x e) :=
  K.setBank _ _ h

theorem putGap (K : KeepsAll P) (k : BankId) (g : GapId) (e : GapEntry) (h : P s) : P (s.putGap k g e) :=
  K.setBank _ _ h

theorem writeSection (K : KeepsAll P) (c : Caller) (b i : Byte) (e : SectionWire) (h : P s) : P (s.writeSection c b i e) := by
  unfold State.writeSection
  split
  · split
    · exact K.nak _ _ _ _ h
    · split
      · exact K.nak _ _ _ _ h
      · split
        · exact K.nak _ _ _ _ h
        · exact K.ack _ (K.putSection _ _ _ h)
  · exact K.nak _ _ _ _ h

theorem writeGap (K : KeepsAll P) (c : Caller) (b i : Byte) (e : GapWire) (h : P s) : P (s.writeGap c b i e) := by
  unfold State.writeGap
  split
  · split
    · exact K.nak _ _ _ _ h
    · split
      · exact K.nak _ _ _ _ h
      · split
        · exact K.nak _ _ _ _ h
        · exact K.ack _ (K.putGap _ _ _ h)
  · exact K.nak _ _ _ _ h

theorem applyFeeder (K : KeepsAll P) (f : FeederId) (k : FeederConfig) (h : P (s.modFdr f (fun d => d.reconfigured k))) :
    P (s.applyFeeder f k) := by
  unfold State.applyFeeder
  dsimp only
  have h2 : P ((s.modFdr f (fun d => d.reconfigured k)).reportOver f) := by
    unfold State.reportOver
    split
    · exact K.report _ _ _ h
    · exact h
  split
  · exact K.arbitrate _ h2
  · exact h2

theorem writeFeeder (K : KeepsAll P) (c : Caller) (i : Byte) (e : FeederWire)
    (hr : ∀ f k, P (s.modFdr f (fun d => d.reconfigured k))) (h : P s) : P (s.writeFeeder c i e) := by
  unfold State.writeFeeder
  split
  · exact K.nak _ _ _ _ h
  · split
    · exact K.nak _ _ _ _ h
    · exact K.ack _ (K.applyFeeder _ _ (hr _ _))

theorem writeClass (K : KeepsAll P) (c : Caller) (i : Byte) (e : ClassWire) (h : P s) : P (s.writeClass c i e) := by
  unfold State.writeClass
  split
  · exact K.nak _ _ _ _ h
  · split
    · exact K.nak _ _ _ _ h
    · exact K.ack _ (K.setClasses _ h)

theorem writeDescriptor (K : KeepsAll P) (c : Caller) (i : Byte) (e : RingWire) (h : P s) : P (s.writeDescriptor c i e) := by
  unfold State.writeDescriptor
  split
  · exact K.nak _ _ _ _ h
  · split
    · exact K.nak _ _ _ _ h
    · next hd =>
      split
      · exact K.nak _ _ _ _ h
      · next hm =>
        split
        · exact K.nak _ _ _ _ h
        · exact K.ack _ (K.descriptor _ _ (ringDescOf_ranges hd) (by simpa using hm) h)

theorem changeExclusion (K : KeepsAll P) (v : Nat) (h : P s) : P (s.changeExclusion v) := by
  unfold State.changeExclusion
  split
  · exact h
  · exact K.eachSlot (fun _ i => K.clearExclusion i) h

theorem awaitRate (K : KeepsAll P) (v : Nat) (h : P s) : P (s.awaitRate v) :=
  K.frame (by constructor <;> simp [State.awaitRate]) h

theorem applyGlobal (K : KeepsAll P) (i v : Nat) (h : P s) : P (s.applyGlobal i v) := by
  unfold State.applyGlobal
  dsimp only
  split
  · exact K.awaitRate _ (K.setGlobals _ h)
  · split
    · exact K.setGlobals _ (K.changeExclusion _ h)
    · split
      · exact K.evalAlert (K.setGlobals _ h)
      · exact K.setGlobals _ h

theorem writeGlobal (K : KeepsAll P) (c : Caller) (i : Byte) (v : Word) (h : P s) : P (s.writeGlobal c i v) := by
  unfold State.writeGlobal
  split
  · exact K.nak _ _ _ _ h
  · split
    · exact K.ack _ (K.applyGlobal _ _ h)
    · exact K.nak _ _ _ _ h

theorem drawn (K : KeepsAll P) (n : Nat) (h : P s) : P (s.drawn n) := K.frame (by constructor <;> simp [State.drawn]) h

theorem readSection (K : KeepsAll P) (c : Caller) (b i : Byte) (h : P s) : P (s.readSection c b i) := by
  unfold State.readSection
  split
  · exact K.reply _ _ _ h
  · exact K.nak _ _ _ _ h

theorem readGap (K : KeepsAll P) (c : Caller) (b i : Byte) (h : P s) : P (s.readGap c b i) := by
  unfold State.readGap
  split
  · exact K.reply _ _ _ h
  · exact K.nak _ _ _ _ h

theorem readFeeder (K : KeepsAll P) (c : Caller) (b i : Byte) (h : P s) : P (s.readFeeder c b i) := by
  unfold State.readFeeder
  split
  · exact K.reply _ _ _ h
  · exact K.nak _ _ _ _ h

theorem readClass (K : KeepsAll P) (c : Caller) (b i : Byte) (h : P s) : P (s.readClass c b i) := by
  unfold State.readClass
  split
  · exact K.reply _ _ _ h
  · exact K.nak _ _ _ _ h

theorem readRing (K : KeepsAll P) (c : Caller) (b i : Byte) (h : P s) : P (s.readRing c b i) := by
  unfold State.readRing
  split
  · dsimp only
    split
    · exact K.drawn _ (K.reply _ _ _ h)
    · exact K.reply _ _ _ h
  · exact K.nak _ _ _ _ h

theorem readGlobal (K : KeepsAll P) (c : Caller) (b i : Byte) (h : P s) : P (s.readGlobal c b i) := by
  unfold State.readGlobal
  split
  · exact K.reply _ _ _ h
  · exact K.nak _ _ _ _ h

theorem requestSwap (K : KeepsAll P) (c : Caller) {g : State → State} (hg : P s → P (g s)) (h : P s) : P (s.requestSwap c g) := by
  unfold State.requestSwap
  split
  · exact K.nak _ _ _ _ h
  · split
    · exact K.nak _ _ _ _ h
    · exact K.ack _ (hg h)

theorem swapUnforced (K : KeepsAll P) (c : Caller) (b : Byte) (h : P s) : P (s.swapUnforced c b) := by
  unfold State.swapUnforced
  split
  · exact K.requestSwap _ K.beginSwap h
  · split
    · exact K.requestSwap _ K.beginForcedSwap h
    · exact K.nak _ _ _ _ h

theorem cancelSwap (K : KeepsAll P) (c : Caller) (h : P s) : P (s.cancelSwap c) := by
  unfold State.cancelSwap
  split
  · exact K.ack _ (K.abandonSwap h)
  · exact K.nak _ _ _ _ h

theorem forSection (K : KeepsAll P) (c : Caller) (x : Byte) {g : SectionId → State} (hg : ∀ y, P (g y)) (h : P s) :
    P (s.forSection c x g) := by
  unfold State.forSection
  split
  · exact hg _
  · exact K.nak _ _ _ _ h

theorem commandIsolate (K : KeepsAll P) (x : SectionId) (h : P s) : P (s.commandIsolate x) := by
  unfold State.commandIsolate
  split
  · exact K.sec _ (.inr fun _ hr => hr) (fun _ _ => .inl rfl) h
  · exact K.evalSwap (K.isolate _ h)

theorem commandWake (K : KeepsAll P) (c : Caller) (b : Byte) (x : SectionId) (h : P s) : P (s.commandWake c b x) := by
  unfold State.commandWake
  split
  · exact K.nak _ _ _ _ h
  · exact K.ack _ (K.wake _ h)

theorem commandRestIdle (K : KeepsAll P) (c : Caller) (b : Byte) (x : SectionId) (h : P s) : P (s.commandRestIdle c b x) := by
  unfold State.commandRestIdle
  split
  · exact K.nak _ _ _ _ h
  · split
    · exact K.ack _ (K.restIdle _ (by simp_all) h)
    · exact K.ack _ h
    all_goals exact K.nak _ _ _ _ h

theorem commandRestStandby (K : KeepsAll P) (c : Caller) (b : Byte) (x : SectionId) (h : P s) : P (s.commandRestStandby c b x) := by
  unfold State.commandRestStandby
  split
  · exact K.nak _ _ _ _ h
  · split
    · exact K.ack _ (K.openToStandby _ (by simp_all) h)
    · exact K.ack _ (K.openToStandby _ (by simp_all) h)
    · exact K.ack _ h
    · exact K.ack _ (K.openToStandby _ (by simp_all) h)
    · exact K.nak _ _ _ _ h

theorem forFeeder (K : KeepsAll P) (c : Caller) (b : Byte) {g : FeederId → State} (hg : ∀ f, P (g f)) (h : P s) :
    P (s.forFeeder c b g) := by
  unfold State.forFeeder
  split
  · exact hg _
  · exact K.nak _ _ _ _ h

theorem released_same (r : Ring) : r.released.desc = r.desc ∧ r.released.writePos = r.writePos ∧ r.released.fill = r.fill := by
  unfold Ring.released
  split <;> exact ⟨rfl, rfl, rfl⟩

theorem resumeFeeder (K : KeepsAll P) (f : FeederId) (h : P s) : P (s.resumeFeeder f) :=
  K.feederOnline _ (K.ring _ released_same h)

theorem commandResume (K : KeepsAll P) (c : Caller) (b : Byte) (f : FeederId) (h : P s) : P (s.commandResume c b f) := by
  unfold State.commandResume
  split
  · exact K.nak _ _ _ _ h
  · exact K.nak _ _ _ _ h
  · split
    · exact K.ack _ (K.resumeFeeder _ h)
    · exact K.nak _ _ _ _ h
  · split
    · exact K.ack _ (K.resumeFeeder _ h)
    · exact K.nak _ _ _ _ h

theorem forTruck (K : KeepsAll P) (c : Caller) (b : Byte) {g : Slot → State} (hg : ∀ i, P (g i)) (h : P s) :
    P (s.forTruck c b g) := by
  unfold State.forTruck
  split
  · exact hg _
  · exact K.nak _ _ _ _ h

theorem orderEvict (K : KeepsAll P) (c : Caller) (b : Byte) (i : Slot) (h : P s) : P (s.orderEvict c b i) := by
  unfold State.orderEvict
  split
  · exact K.ack _ (K.evalSwap (K.freeCtx _ h))
  · exact K.ack _ (K.evalSwap (K.freeCtx _ h))
  · exact K.nak _ _ _ _ h

theorem pass (K : KeepsAll P) (c : Caller) (b : Byte) (p : List Byte) (h : P s) : P (s.pass c b p) := by
  unfold State.pass
  split
  · exact K.nak _ _ _ _ h
  · split
    · exact K.ack _ (K.sendNormal _ h)
    · exact K.nak _ _ _ _ h

theorem history (K : KeepsAll P) (c : Caller) (b : Byte) (o : Word) (n : Byte) (h : P s) : P (s.history c b o n) := by
  unfold State.history
  split
  · exact K.nak _ _ _ _ h
  · split
    · exact K.nak _ _ _ _ h
    · split
      · exact K.nak _ _ _ _ h
      · exact K.reply _ _ _ h

theorem releaseRing (K : KeepsAll P) (c : Caller) (b : Byte) (f : FeederId) (h : P s) : P (s.releaseRing c b f) := by
  unfold State.releaseRing
  split
  · exact K.nak _ _ _ _ h
  · exact K.ack _ (K.ring _ released_same h)

theorem readStatus (K : KeepsAll P) (c : Caller) (h : P s) : P (s.readStatus c) :=
  K.evalAlert (K.frame (s := (s.reply c 0x74 s.statusBytes).drawn 96) (by constructor <;> simp)
    (K.drawn _ (K.reply _ _ _ h)))

theorem readContext (K : KeepsAll P) (c : Caller) (a b : Byte) (h : P s) : P (s.readContext c a b) := by
  unfold State.readContext
  split
  · split
    · exact K.reply _ _ _ h
    · exact K.nak _ _ _ _ h
  · split
    · split
      · exact K.reply _ _ _ h
      · exact K.nak _ _ _ _ h
    · exact K.nak _ _ _ _ h

theorem resumeRamp (K : KeepsAll P) (c : Caller) (h : P s) : P (s.resumeRamp c) := by
  unfold State.resumeRamp
  split
  · exact K.nak _ _ _ _ h
  · exact K.ack _ (K.resumed h)

/-! ### Timers and resets -/

theorem expire (_ : KeepsAll P) (b : Bool) {g : State → State} (hg : P s → P (g s)) (h : P s) : P (s.expire b g) := by
  unfold State.expire
  split
  · exact hg h
  · exact h

theorem expireGrant (K : KeepsAll P) (i : Slot) (h : P s) : P (s.expireGrant i) := by
  unfold State.expireGrant
  split
  · exact K.startDrop _ _ _ h
  · exact K.ctx _ (fun _ => ⟨rfl, rfl⟩) h

theorem countLapsed (K : KeepsAll P) (h : P s) : P s.countLapsed := K.frame (by constructor <;> simp [State.countLapsed]) h

theorem lapse (K : KeepsAll P) (i : Slot) (h : P s) : P (s.lapse i) := by
  unfold State.lapse
  dsimp only
  split
  · exact K.evalSwap (K.arbitrateOn _ (K.countLapsed (K.report _ _ _ (K.giveUp _ _ h))))
  · exact K.ctx _ (fun _ => ⟨rfl, rfl⟩) h

theorem repeatOffer (K : KeepsAll P) (i : Slot) (h : P s) : P (s.repeatOffer i) := by
  unfold State.repeatOffer
  split
  · exact K.lapse _ h
  · split
    · exact K.sendOfr _ _ (K.ctx _ (fun _ => ⟨rfl, rfl⟩) h)
    · exact K.ctx _ (fun _ => ⟨rfl, rfl⟩) h

theorem dropLate (K : KeepsAll P) (i : Slot) (h : P s) : P (s.dropLate i) := by
  unfold State.dropLate
  split
  · exact K.evalSwap (K.strikeLate _ (K.endDrop _ (K.report _ _ _ h)))
  · exact K.ctx _ (fun _ => ⟨rfl, rfl⟩) h

theorem crossingOut (K : KeepsAll P) (i : Slot) (h : P s) : P (s.crossingOut i) := by
  unfold State.crossingOut
  split
  · exact K.evalSwap (K.stall _ h)
  · exact K.setGap _ _ (spares_sameGap _ _ rfl) h

theorem meterLostOut (K : KeepsAll P) (f : FeederId) (h : P s) : P (s.meterLostOut f) := by
  unfold State.meterLostOut
  split
  · exact K.feederLost _ h
  · exact K.fdr _ (fun _ => ⟨rfl, rfl⟩) h

theorem idleOut (K : KeepsAll P) (x : SectionId) (h : P s) : P (s.idleOut x) := by
  unfold State.idleOut
  split
  · exact K.restIdle _ (by simp_all) h
  · exact K.sec _ (.inr fun _ hr => hr) (fun _ hr => .inr ⟨hr, rfl⟩) h

theorem standbyOut (K : KeepsAll P) (x : SectionId) (h : P s) : P (s.standbyOut x) := by
  unfold State.standbyOut
  split
  · exact K.openToStandby _ (by simp_all) h
  · exact K.sec _ (.inr fun _ hr => hr) (fun _ hr => .inr ⟨hr, rfl⟩) h

theorem raiseOut (K : KeepsAll P) (x : SectionId) (h : P s) : P (s.raiseOut x) := by
  unfold State.raiseOut
  split
  · exact K.evalSwap (K.failRaise _ _ h)
  · exact K.sec _ (.inr fun _ hr => hr) (fun _ hr => .inr ⟨hr, rfl⟩) h

theorem lineStop (K : KeepsAll P) (h : P s) : P s.lineStop := K.evalSwap (K.stopped _ h)

theorem stopIfAsserted (K : KeepsAll P) (h : P s) : P s.stopIfAsserted := by
  unfold State.stopIfAsserted
  split
  · exact K.lineStop h
  · exact h

/-! ### Every command -/

/-- An outcome is a next state with a property. -/
def Lands (P : State → Prop) (o : Host.Outcome State Fault Refusal) : Prop := ∃ t, o = .next t ∧ P t

theorem outOfReset (_ : KeepsAll P) {g : State → State} (hg : ∀ t, P t → P (g t)) (h : P s) : Lands P (whileOutOfReset s g) := by
  refine ⟨_, rfl, ?_⟩
  split
  · exact h
  · exact hg _ h

theorem listening (K : KeepsAll P) (l : Link) {g : State → State} (hg : ∀ t, P t → P (g t)) (h : P s) :
    Lands P (whileListening l s g) :=
  K.outOfReset (fun _ ht => by
    split
    · exact ht
    · exact hg _ ht) h

theorem arriveRequest (K : KeepsAll P) (i : Instr) (h : P s) : P (s.arriveRequest i) := by
  unfold State.arriveRequest
  split
  · exact K.receiveFrame .c _ (K.endRunt _ h)
  · exact h

theorem serveOldest (K : KeepsAll P) {g : State → State} (hg : ∀ t, P t → P (g t)) (h : P s) : P (s.serveOldest g) := by
  unfold State.serveOldest
  split
  · split
    · exact hg _ (K.popRequest (by assumption) h)
    · exact h
  · exact h

theorem request (K : KeepsAll P) (i : Instr) {g : State → State} (hg : ∀ t, P t → P (g t)) (h : P s) : Lands P (takeRequest i s g) := by
  refine K.outOfReset (fun t ht => ?_) h
  split
  · exact K.serveOldest hg ht
  · split
    · exact ht
    · split
      · exact K.serveOldest hg (K.arriveRequest _ ht)
      · exact K.arriveRequest _ ht

/-- Every command but a write of a feeder record ends in a next state and keeps the property. -/
theorem exec_lands_but (K : KeepsAll P) (i : Instr)
    (hw : ∀ c b j e, i = .tableWriteFeeder c b j e → Lands P (exec i s)) (h : P s) : Lands P (exec i s) := by
  cases i with
  | hardReset a => unfold exec execHardReset; exact ⟨_, rfl, K.stopIfAsserted (K.report _ _ _ (K.poweredOn _ h))⟩
  | rampStopLineAssert =>
    unfold exec execRampStopLineAssert
    refine ⟨_, rfl, ?_⟩
    split
    · exact h
    · split
      · exact K.setLine _ h
      · exact K.lineStop (K.setLine _ h)
  | rampStopLineRelease => unfold exec execRampStopLineRelease; exact ⟨_, rfl, K.setLine _ h⟩
  | psn => unfold exec execPsn; exact K.listening _ (fun _ ht => K.fromTruck _ _ ht) h
  | drq => unfold exec execDrq; exact K.listening _ (fun _ ht => K.fromTruck _ _ ht) h
  | acc => unfold exec execAcc; exact K.listening _ (fun _ ht => K.fromTruck _ _ ht) h
  | rel => unfold exec execRel; exact K.listening _ (fun _ ht => K.fromTruck _ _ ht) h
  | dat =>
    unfold exec execDat
    refine K.listening _ (fun _ ht => ?_) h
    split
    · exact K.fromTruck _ _ ht
    · exact K.modLink _ _ (K.endRunt _ ht)
  | sst =>
    unfold exec execSst
    refine K.listening _ (fun _ ht => ?_) h
    split
    · exact K.dispatchW _ (K.modLink _ _ (K.endRunt _ ht))
    · exact K.modLink _ _ (K.endRunt _ ht)
  | smp =>
    unfold exec execSmp
    refine K.listening _ (fun _ ht => ?_) h
    split
    · exact K.takeSample _ _ (K.modLink _ _ (K.endRunt _ ht))
    · exact K.modLink _ _ (K.endRunt _ ht)
  | checkError => unfold exec execCheckError; exact K.listening _ (fun _ ht => K.feedFrame _ _ (K.endLate _ ht)) h
  | runt => unfold exec execRunt; exact K.outOfReset (fun _ ht => K.endRunt _ ht) h
  | foreignFrame => unfold exec execForeignFrame; exact K.listening _ (fun _ ht => K.receiveFrame _ _ (K.endRunt _ ht)) h
  | requestFrame => unfold exec execRequestFrame; exact K.listening _ (fun _ ht => K.receiveFrame .c _ (K.endRunt _ ht)) h
  | unknownRequestKind => unfold exec execUnknownRequestKind; exact K.request _ (fun _ ht => K.nak _ _ _ _ ht) h
  | tableWriteSection => unfold exec execTableWriteSection; exact K.request _ (fun _ ht => K.writeSection _ _ _ _ ht) h
  | tableWriteGap => unfold exec execTableWriteGap; exact K.request _ (fun _ ht => K.writeGap _ _ _ _ ht) h
  | tableWriteFeeder c b j e => exact hw c b j e rfl
  | tableWriteClass => unfold exec execTableWriteClass; exact K.request _ (fun _ ht => K.writeClass _ _ _ ht) h
  | tableWriteRing => unfold exec execTableWriteRing; exact K.request _ (fun _ ht => K.writeDescriptor _ _ _ ht) h
  | tableWriteGlobal => unfold exec execTableWriteGlobal; exact K.request _ (fun _ ht => K.writeGlobal _ _ _ ht) h
  | tableReadSection => unfold exec execTableReadSection; exact K.request _ (fun _ ht => K.readSection _ _ _ ht) h
  | tableReadGap => unfold exec execTableReadGap; exact K.request _ (fun _ ht => K.readGap _ _ _ ht) h
  | tableReadFeeder => unfold exec execTableReadFeeder; exact K.request _ (fun _ ht => K.readFeeder _ _ _ ht) h
  | tableReadClass => unfold exec execTableReadClass; exact K.request _ (fun _ ht => K.readClass _ _ _ ht) h
  | tableReadRing => unfold exec execTableReadRing; exact K.request _ (fun _ ht => K.readRing _ _ _ ht) h
  | tableReadGlobal => unfold exec execTableReadGlobal; exact K.request _ (fun _ ht => K.readGlobal _ _ _ ht) h
  | bankSwap => unfold exec execBankSwap; exact K.request _ (fun _ ht => K.swapUnforced _ _ ht) h
  | bankSwapForced => unfold exec execBankSwapForced; exact K.request _ (fun _ ht => K.requestSwap _ K.beginForcedSwap ht) h
  | swapCancel => unfold exec execSwapCancel; exact K.request _ (fun _ ht => K.cancelSwap _ ht) h
  | sectionCmdIsolate => unfold exec execSectionCmdIsolate; exact K.request _ (fun _ ht => K.forSection _ _ (fun _ => K.ack _ (K.commandIsolate _ ht)) ht) h
  | sectionCmdEnable => unfold exec execSectionCmdEnable; exact K.request _ (fun _ ht => K.forSection _ _ (fun _ => K.ack _ (K.enabled _ ht)) ht) h
  | sectionCmdWake => unfold exec execSectionCmdWake; exact K.request _ (fun _ ht => K.forSection _ _ (fun _ => K.commandWake _ _ _ ht) ht) h
  | sectionCmdRestIdle => unfold exec execSectionCmdRestIdle; exact K.request _ (fun _ ht => K.forSection _ _ (fun _ => K.commandRestIdle _ _ _ ht) ht) h
  | sectionCmdRestStandby => unfold exec execSectionCmdRestStandby; exact K.request _ (fun _ ht => K.forSection _ _ (fun _ => K.commandRestStandby _ _ _ ht) ht) h
  | feederCmdResume => unfold exec execFeederCmdResume; exact K.request _ (fun _ ht => K.forFeeder _ _ (fun _ => K.commandResume _ _ _ ht) ht) h
  | feederCmdOffline => unfold exec execFeederCmdOffline; exact K.request _ (fun _ ht => K.forFeeder _ _ (fun _ => K.ack _ (K.feederOffline _ ht)) ht) h
  | truckOrderLower => unfold exec execTruckOrderLower; exact K.request _ (fun _ ht => K.forTruck _ _ (fun _ => K.ack _ (K.evalSwap (K.orderLower _ ht))) ht) h
  | truckOrderHold => unfold exec execTruckOrderHold; exact K.request _ (fun _ ht => K.forTruck _ _ (fun _ => K.ack _ (K.evalSwap (K.orderHold _ ht))) ht) h
  | truckOrderUnhold => unfold exec execTruckOrderUnhold; exact K.request _ (fun _ ht => K.forTruck _ _ (fun _ => K.ack _ (K.setHoldFlag _ _ ht)) ht) h
  | truckOrderClearFault => unfold exec execTruckOrderClearFault; exact K.request _ (fun _ ht => K.forTruck _ _ (fun _ => K.ack _ (K.orderClearFault _ ht)) ht) h
  | truckOrderEvict => unfold exec execTruckOrderEvict; exact K.request _ (fun _ ht => K.forTruck _ _ (fun _ => K.orderEvict _ _ _ ht) ht) h
  | passData => unfold exec execPassData; exact K.request _ (fun _ ht => K.pass _ _ _ ht) h
  | historyRead => unfold exec execHistoryRead; exact K.request _ (fun _ ht => K.history _ _ _ _ ht) h
  | historyRelease => unfold exec execHistoryRelease; exact K.request _ (fun _ ht => K.forFeeder _ _ (fun _ => K.releaseRing _ _ _ ht) ht) h
  | statusRead => unfold exec execStatusRead; exact K.request _ (fun _ ht => K.readStatus _ ht) h
  | counterRead => unfold exec execCounterRead; exact K.request _ (fun _ ht => K.reply _ _ _ ht) h
  | contextRead => unfold exec execContextRead; exact K.request _ (fun _ ht => K.readContext _ _ _ ht) h
  | queueRead => unfold exec execQueueRead; exact K.request _ (fun _ ht => K.forFeeder _ _ (fun _ => K.reply _ _ _ ht) ht) h
  | rampStop => unfold exec execRampStop; exact K.request _ (fun _ ht => K.ack _ (K.evalSwap (K.stopped _ ht))) h
  | rampResume => unfold exec execRampResume; exact K.request _ (fun _ ht => K.resumeRamp _ ht) h
  | restart => unfold exec execRestart; exact K.request _ (fun _ ht => K.stopIfAsserted (K.report _ _ _ (K.restarted (K.ack _ ht)))) h
  | broadcastWithdrawal => unfold exec execBroadcastWithdrawal; exact K.outOfReset (fun _ ht => K.sendBroadcast ht) h
  | wdrTransmit => unfold exec execWdrTransmit; exact K.outOfReset (fun _ ht => K.sendWdr ht) h
  | scmTransmit => unfold exec execScmTransmit; exact K.outOfReset (fun _ ht => K.sendScm ht) h
  | normalQueueTransmit => unfold exec execNormalQueueTransmit; exact K.outOfReset (fun _ ht => K.sendQueued ht) h
  | cLinkTransmit => unfold exec execCLinkTransmit; exact K.outOfReset (fun _ ht => K.sendC ht) h
  | wLinkRateChange => unfold exec execWLinkRateChange; exact K.outOfReset (fun _ ht => K.changeWRate ht) h
  | cLinkRateChange => unfold exec execCLinkRateChange; exact K.outOfReset (fun _ ht => K.changeCRate ht) h
  | silenceExpiry => unfold exec execSilenceExpiry; exact K.outOfReset (fun _ ht => K.expire _ (K.silence _) ht) h
  | grantExpiry => unfold exec execGrantExpiry; exact K.outOfReset (fun _ ht => K.expire _ (K.expireGrant _) ht) h
  | offerWindowExpiry => unfold exec execOfferWindowExpiry; exact K.outOfReset (fun _ ht => K.expire _ (K.lapse _) ht) h
  | offerRepeatExpiry => unfold exec execOfferRepeatExpiry; exact K.outOfReset (fun _ ht => K.expire _ (K.repeatOffer _) ht) h
  | dropDeadlineExpiry => unfold exec execDropDeadlineExpiry; exact K.outOfReset (fun _ ht => K.expire _ (K.dropLate _) ht) h
  | crossingTimerExpiry => unfold exec execCrossingTimerExpiry; exact K.outOfReset (fun _ ht => K.expire _ (K.crossingOut _) ht) h
  | carriedHoldExpiry => unfold exec execCarriedHoldExpiry; exact K.outOfReset (fun _ ht => K.expire _ (K.setGap _ _ (spares_sameGap _ _ rfl)) ht) h
  | swapTimerExpiry => unfold exec execSwapTimerExpiry; exact K.outOfReset (fun _ ht => K.expire _ K.timeoutSwap ht) h
  | overloadTimerExpiry => unfold exec execOverloadTimerExpiry; exact K.outOfReset (fun _ ht => K.expire _ (K.shed _) ht) h
  | meterSilenceExpiry => unfold exec execMeterSilenceExpiry; exact K.outOfReset (fun _ ht => K.expire _ (K.meterSilent _) ht) h
  | meterLostTimerExpiry => unfold exec execMeterLostTimerExpiry; exact K.outOfReset (fun _ ht => K.expire _ (K.meterLostOut _) ht) h
  | idleTimerExpiry => unfold exec execIdleTimerExpiry; exact K.outOfReset (fun _ ht => K.expire _ (K.idleOut _) ht) h
  | standbyTimerExpiry => unfold exec execStandbyTimerExpiry; exact K.outOfReset (fun _ ht => K.expire _ (K.standbyOut _) ht) h
  | raiseLimitExpiry => unfold exec execRaiseLimitExpiry; exact K.outOfReset (fun _ ht => K.expire _ (K.raiseOut _) ht) h
  | postTripCountEnd => unfold exec execPostTripCountEnd; exact K.outOfReset (fun _ ht => K.expire _ (K.freezeRing _) ht) h
  | resetPinAssertion => unfold exec execResetPinAssertion; exact ⟨_, rfl, K.frame (s := { s with resetPin := true }) (by constructor <;> simp) (K.setPin h)⟩
  | marker => unfold exec execMarker; exact K.listening _ (fun _ ht => K.feed _ _ (K.endLate _ ht)) h

/-- Every command ends in a next state and keeps the property, if a write of a feeder record does. -/
theorem exec_lands (K : KeepsAll P) (hr : ∀ {s : State} f k, P s → P (s.modFdr f (fun d => d.reconfigured k))) (i : Instr) (h : P s) :
    Lands P (exec i s) := by
  refine K.exec_lands_but i (fun c b j e hi => ?_) h
  subst hi
  unfold exec execTableWriteFeeder
  exact K.request _ (fun _ ht => K.writeFeeder _ _ _ (fun f k => hr f k ht) ht) h

/-- The idle step ends in a next state and keeps the property. -/
theorem idle_lands (K : KeepsAll P) (hr : ∀ {s : State} f k, P s → P (s.modFdr f (fun d => d.reconfigured k))) (h : P s) : Lands P s.idle := by
  unfold State.idle
  split
  · exact ⟨_, rfl, h⟩
  · split
    · exact K.exec_lands hr _ h
    · exact ⟨_, rfl, K.ticked h⟩

/-- Every step ends in a next state and keeps a property that says nothing of the queue of commands. -/
theorem step_lands (K : KeepsAll P) (hr : ∀ {s : State} f k, P s → P (s.modFdr f (fun d => d.reconfigured k)))
    (hp : ∀ (t : State) (q : List Instr), P t → P { t with pending := q }) (h : P s) :
    Lands P (step s) := by
  unfold step
  split
  · exact K.idle_lands hr h
  · exact K.exec_lands hr _ (hp _ _ h)

end KeepsAll

end Sys2Proof.Machine
end

