-- ==== Sys2Proof/Laws/Memory.lean ====
section
/-! SUPPORT. The sample memory: a store keeps the canonical form and the addresses, and what is read after it. -/

namespace Sys2Proof.Machine
open Sys2Proof

namespace SampleMemory

theorem wfFrom_mono {m : SampleMemory} {a b : Nat} (hab : a ≤ b) (h : wfFrom b m = true) : wfFrom a m = true := by
  cases m with
  | nil => rfl
  | cons p m =>
    obtain ⟨c, e⟩ := p
    simp only [wfFrom, Bool.and_eq_true, decide_eq_true_eq] at h ⊢
    exact ⟨⟨by omega, h.1.2⟩, h.2⟩

theorem wfFrom_listed {m : SampleMemory} {n a : Nat} (e : SampleEntry) (hn : n ≤ a) (h : wfFrom (a + 1) m = true) :
    wfFrom n (listed a e m) = true := by
  unfold listed
  split
  · exact wfFrom_mono (by omega) h
  · next he => simp [wfFrom, he, hn, h]

/-- A store keeps the canonical form. -/
theorem wfFrom_store {m : SampleMemory} {n a : Nat} (e : SampleEntry) (hn : n ≤ a) (h : wfFrom n m = true) :
    wfFrom n (store m a e) = true := by
  induction m generalizing n with
  | nil => exact wfFrom_listed e hn rfl
  | cons p m ih =>
    obtain ⟨b, d⟩ := p
    simp only [wfFrom, Bool.and_eq_true, decide_eq_true_eq] at h
    obtain ⟨⟨hb, hd⟩, hm⟩ := h
    unfold store
    split
    · exact wfFrom_listed e hn (by simp only [wfFrom, Bool.and_eq_true, decide_eq_true_eq]; exact ⟨⟨by omega, hd⟩, hm⟩)
    · split
      · next hab => exact wfFrom_listed e hn (hab ▸ hm)
      · simp only [wfFrom, Bool.and_eq_true, decide_eq_true_eq]
        exact ⟨⟨hb, hd⟩, ih (by omega) hm⟩

/-- A store keeps the canonical form. -/
theorem wf_store {m : SampleMemory} (a : Nat) (e : SampleEntry) (h : m.wf = true) : (m.store a e).wf = true :=
  wfFrom_store e (Nat.zero_le a) h

theorem mem_listed {m : SampleMemory} {a : Nat} {e : SampleEntry} {p : Nat × SampleEntry} (h : p ∈ listed a e m) :
    p.1 = a ∨ p ∈ m := by
  unfold listed at h
  split at h
  · exact .inr h
  · rcases List.mem_cons.1 h with rfl | h
    · exact .inl rfl
    · exact .inr h

/-- A store lists no address but its own and those listed before. -/
theorem mem_store {m : SampleMemory} {a : Nat} {e : SampleEntry} {p : Nat × SampleEntry} (h : p ∈ store m a e) :
    p.1 = a ∨ p ∈ m := by
  induction m with
  | nil => exact mem_listed h
  | cons q m ih =>
    obtain ⟨b, d⟩ := q
    unfold store at h
    split at h
    · exact mem_listed h
    · split at h
      · rcases mem_listed h with h | h
        · exact .inl h
        · exact .inr (List.mem_cons_of_mem _ h)
      · rcases List.mem_cons.1 h with rfl | h
        · exact .inr (List.mem_cons_self ..)
        · rcases ih h with h | h
          · exact .inl h
          · exact .inr (List.mem_cons_of_mem _ h)

/-- Below the first address a canonical memory lists, it reads as the zero entry. -/
theorem read_below {m : SampleMemory} {n a : Nat} (h : wfFrom n m = true) (ha : a < n) : m.read a = SampleEntry.zero := by
  induction m generalizing n with
  | nil => rfl
  | cons q m ih =>
    obtain ⟨b, d⟩ := q
    simp only [wfFrom, Bool.and_eq_true, decide_eq_true_eq] at h
    simp only [read]
    rw [if_neg (by omega)]
    exact ih h.2 (by omega)

theorem read_listed {m : SampleMemory} {a : Nat} (e : SampleEntry) (b : Nat) (h : wfFrom (a + 1) m = true) :
    (listed a e m).read b = if b = a then e else m.read b := by
  unfold listed
  split
  · next he =>
    split
    · next hb => rw [hb, he]; exact read_below h (Nat.lt_succ_self a)
    · rfl
  · simp only [read]
    split
    · next hb => rw [if_pos hb.symm]
    · next hb => rw [if_neg (fun h => hb h.symm)]

theorem read_storeFrom {m : SampleMemory} {n a : Nat} (e : SampleEntry) (b : Nat) (h : wfFrom n m = true) :
    (m.store a e).read b = if b = a then e else m.read b := by
  induction m generalizing n with
  | nil => exact read_listed e b rfl
  | cons q m ih =>
    obtain ⟨c, d⟩ := q
    simp only [wfFrom, Bool.and_eq_true, decide_eq_true_eq] at h
    unfold store
    split
    · exact read_listed e b (by simp only [wfFrom, Bool.and_eq_true, decide_eq_true_eq]; exact ⟨⟨by omega, h.1.2⟩, h.2⟩)
    · split
      · next hac =>
        subst hac
        rw [read_listed e b h.2]
        split
        · rfl
        · next hb => simp only [read]; rw [if_neg (fun h => hb h.symm)]
      · next hac =>
        simp only [read]
        split
        · next hc => rw [if_neg (by omega)]
        · exact ih h.2

/-- What is read after a store: the stored entry at its address, every other address as before. -/
theorem read_store {m : SampleMemory} (a b : Nat) (e : SampleEntry) (h : m.wf = true) :
    (m.store a e).read b = if b = a then e else m.read b := read_storeFrom e b h

end SampleMemory

/-- A change of a ring's state and countdown keeps it sound. -/
theorem Ring.sound_of_same {r t : Ring} (h : t.desc = r.desc ∧ t.writePos = r.writePos ∧ t.fill = r.fill)
    (hr : r.sound) : t.sound := by
  unfold Ring.sound
  rw [h.1, h.2.1, h.2.2]
  exact hr

/-- In a sound ring the entry at an offset is the one so many places and one before the write position, wrapping from the
start to the end (R133). -/
theorem Ring.address_of_sound {r : Ring} (h : r.sound) {k : Nat} (hk : k < r.desc.length) :
    r.address k = if r.desc.start + k + 1 ≤ r.writePos then r.writePos - (k + 1) else r.writePos + r.desc.length - (k + 1) := by
  obtain ⟨_, _, _, _, _, _, _⟩ := h
  unfold Ring.address
  split
  · rw [show r.writePos - r.desc.start + r.desc.length - 1 - k = (r.writePos - r.desc.start - 1 - k) + r.desc.length by omega,
      Nat.add_mod_right, Nat.mod_eq_of_lt (by omega)]
    omega
  · rw [Nat.mod_eq_of_lt (by omega)]
    omega

/-- A write to a sound ring keeps it sound (R133). -/
theorem Ring.advanced_sound {r : Ring} (h : r.sound) : r.advanced.sound := by
  unfold Ring.sound at *
  unfold Ring.advanced Ring.wraps
  dsimp only
  split <;> split <;> simp_all <;> omega

end Sys2Proof.Machine
end

