-- ==== Sys2Proof/Laws/Requests.lean ====
section
/-! SUPPORT. What taking a request, answering it and reporting an event do, once for every request. -/

namespace Sys2Proof.Machine
open Sys2Proof

/-- The frame of a request command is addressed to the part. -/
theorem dest_of_frameOfRequest {a : Byte} {i : Instr} {f : Frame} (h : frameOfRequest a i = some f) : f.dest = a := by
  cases i <;> simp [frameOfRequest, requestFrameTo] at h <;> subst h <;> rfl

/-- The end of a runt leaves the buffer, the address and the C-link queue. -/
theorem State.endRunt_buffer (s : State) (l : Link) :
    (s.endRunt l).requestBuffer = s.requestBuffer ∧ (s.endRunt l).cAddress = s.cAddress ∧ (s.endRunt l).cQueue = s.cQueue := by
  unfold State.endRunt
  split
  · exact ⟨rfl, rfl, rfl⟩
  · cases l <;> exact ⟨rfl, rfl, rfl⟩

/-- A request frame of a kind that the part does not send is counted and, where fewer than 4 wait, joins the buffer (R153,
R154). -/
theorem State.arriveRequest_joins {s : State} {i : Instr} {f : Frame} (hf : frameOfRequest s.cAddress i = some f)
    (hk : sentByPart f.kind = false) (hb : s.requestBuffer.length < 4) :
    s.arriveRequest i = { (s.endRunt .c).countGood .c with requestBuffer := s.requestBuffer ++ [f] } := by
  obtain ⟨h1, h2, _⟩ := s.endRunt_buffer .c
  have h3 : ((s.endRunt .c).countGood .c).requestBuffer = s.requestBuffer := h1
  simp only [State.arriveRequest, hf, State.receiveC, h2, dest_of_frameOfRequest hf, ne_eq, not_true_eq_false, if_false, hk,
    Bool.false_eq_true, State.offerRequest, h3, if_pos hb]

/-- A request that MA takes runs on the state without it. -/
theorem takeRequest_taken {i : Instr} {s : State} (h : s.takes i) (run : State → State) :
    takeRequest i s run = .next (run s.taken) := by
  obtain ⟨hp, hq, ⟨hb, hc, f, hf, hk⟩ | ⟨f, fs, hb, hf⟩⟩ := h
  · obtain ⟨h1, _, h3⟩ := s.endRunt_buffer .c
    have ha := State.arriveRequest_joins hf hk (by simp [hb])
    have ht : s.taken = (s.endRunt .c).countGood .c := by simp only [State.taken, hb]
    have hr : ∀ u : State, u.requestBuffer = [] → { u with requestBuffer := [] } = u := fun u hu => by rw [← hu]
    have h4 : ((s.endRunt .c).countGood .c).requestBuffer = [] := h1.trans hb
    have h5 : (s.arriveRequest i).serveOldest run = run s.taken := by
      rw [ha, ht, hb]
      unfold State.serveOldest
      rw [if_pos (show ((s.endRunt .c).countGood .c).cQueue.length < 32 from (congrArg List.length h3).trans_lt hq)]
      exact congrArg run (hr _ h4)
    simp [takeRequest, whileOutOfReset, hp, State.oldestIs, hb, State.drives, hc, h5]
  · simp [takeRequest, whileOutOfReset, hp, State.oldestIs, hb, isRequest, hf, State.serveOldest, hq, State.taken]

theorem State.taken_room {i : Instr} {s : State} (h : s.takes i) : s.taken.cQueue.length < 32 := by
  unfold State.taken
  split
  · exact h.2.1
  · exact (congrArg List.length (s.endRunt_buffer .c).2.2).trans_lt h.2.1

/-- A reply finds its entry free while one is (R155). -/
theorem State.reply_room {s : State} (h : s.cQueue.length < 32) (c : Caller) (kind : Nat) (p : List Byte) :
    s.reply c kind p = s.withReply c (byte kind) p := by
  simp [State.reply, State.sendReply, State.replyFrame, State.withReply, h]

theorem State.ack_room {s : State} (h : s.cQueue.length < 32) (c : Caller) : s.ack c = s.withAck c :=
  State.reply_room h c 0x70 []

theorem State.nak_room {s : State} (h : s.cQueue.length < 32) (c : Caller) (k : NakCode) (table index : Byte) :
    s.nak c k table index = s.withNak c (byte k.code) table index :=
  State.reply_room h c 0x71 _

theorem State.offerC_room {s : State} (h : s.cQueue.length < 32) (f : Frame) : (s.offerC f).cQueue.length < 32 := by
  unfold State.offerC
  split
  · simp only [List.length_append, List.length_singleton]; omega
  · exact h

/-- An event leaves a queue with an entry free with one free still (R155, R161). -/
theorem State.report_room {s : State} (h : s.cQueue.length < 32) (k : EventKind) (a b : Nat) :
    (s.report k a b).cQueue.length < 32 := by
  show ((s.setLatch k.place).emitEvent k a b).cQueue.length < 32
  unfold State.emitEvent
  split
  · exact State.offerC_room (s := { s.setLatch k.place with eventSeq := (s.setLatch k.place).eventSeq + 1 }) h _
  · exact h

end Sys2Proof.Machine
end

