-- ==== Sys2Proof/Tests/Slice0.lean ====
section
/-! SUPPORT. Tests of the model on small states: ill-formed commands, one step of each family, and states that meet the hypotheses of each statement. -/

namespace Sys2Proof.Tests
open Sys2Proof Sys2Proof.Machine

set_option maxRecDepth 20000
set_option Elab.async false

/-! ### A small ramp -/

/-- A sender of requests. -/
def who : Caller := ⟨5, 9⟩

/-- A level 1 class with a cap of 800 A and a hold of 60 s. -/
def cls : TruckClass := ⟨some 0, .one, 800, 60, false⟩

/-- A section of 900 A with a wake distance of 10 m and a fast raise. -/
def mapped (low high : Nat) (f : FeederId) : SectionEntry := ⟨true, low, high, f, 900, 100, 1, 60, true⟩

/-- Sections 0, 1 and 2 on feeders 0, 1 and 1, with a gap between 0 and 1 and a bridgeable one between 1 and 2. -/
def map : Bank :=
  { sections := ((Bank.reset.sections.set 0 (mapped 0 99 0)).set 1 (mapped 110 209 1)).set 2 (mapped 220 319 1)
    gaps := (Bank.reset.gaps.set 0 ⟨true, 100, 109, 0, 1, 20, false, 30⟩).set 1 ⟨true, 210, 219, 1, 2, 0, true, 30⟩ }

/-- A map whose sections 0 and 3 overlap. -/
def crossed : Bank := { map with sections := map.sections.set 3 (mapped 90 95 0) }

/-- An ONLINE feeder of 2000 A with a reserve of 500 A. -/
def live (f : Feeder) : Feeder := { f with config := ⟨2000, 500, 3, 20, 5, 700⟩, state := .online }

/-- An ENERGISED section. -/
def energised (r : SectionRec) : SectionRec := { r with state := .energised }

/-- The part in RUNNING with the map in both banks, feeders 0 and 1 ONLINE and sections 0 to 2 ENERGISED. -/
def ramp : State :=
  ((((((({ State.reset with
    admission := .running, bankA := map, bankB := map, cQueue := [], latches := 0, broadcast := false
    classes := State.reset.classes.set 0 ⟨true, 0, 0, .one, 800, 60, false⟩ } : State).modFdr 0 live).modFdr 1 live).modSec 0
    energised).modSec 1 energised).modSec 2 energised).modMeter 0 (fun _ => ⟨some ⟨1, 100, 750, .closed⟩, some 200⟩))

/-- Truck 7, loaded, up at chainage 50 in section 0, with tag 3 and a request of 400 A, at least 100 A, for 30 s. -/
def truck (st : CtxState) : Context :=
  { Context.newcomer 7 cls with
    state := st
    pos := { chainage := 50, heading := .up, pantograph := .raised, loaded := true, drawn := 0, resolution := .sect 0, approach := none }
    silenceTimer := some 5000
    req := { tag := some 3, requested := 400, minimum := 100, hold := some 30, level := .one } }

/-- The ramp with truck 7 in slot 0. -/
def with0 (c : Context) : State := ramp.setCtx 0 c

/-- The ramp with truck 7 in slot 0 holding 400 A on feeder 0 and section 0. -/
def holding (c : Context) : State :=
  (((with0 { c with hold := some ⟨400, 0, 0⟩ }).modFdr 0 (fun d => { d with committed := 400, grantOrder := [0] })).modLoad 0 (fun _ => 400))

/-- The truck draws its grant. -/
def drawing0 : State := holding { truck .drawing with grantExpiry := some 20000, levelAtGrant := some .one }

/-- The truck has an offer. -/
def offered0 : State :=
  (holding { truck .offered with offerWindow := some 8000, offerRepeat := some 500 }).modFdr 0 (fun d => { d with grantOrder := [] })

/-- The truck waits on feeder 0 for section 0. -/
def queued0 : State := (with0 (truck .queued)).modFdr 0 (fun d => { d with wait1 := [⟨0, 0, .ordinary⟩] })

/-- The truck drops its grant for a reason. -/
def dropping0 (r : Reason) : State :=
  holding { truck .dropping with
    dropReason := some r, dropDeadline := some 1500, levelAtGrant := some .one
    gap := if r = .gap then ⟨some 0, some 1, 400, none, none, some 9000, false⟩ else GapFields.clear }

/-- The truck crosses gap 0 towards section 1. -/
def crossing0 : State :=
  with0 { truck .crossing with
    pos := { (truck .crossing).pos with chainage := 105, resolution := .gap 0 }
    gap := ⟨some 0, some 1, 400, none, some 9000, some 20000, false⟩ }

/-- The same crossing with a reservation on feeder 1. -/
def reserved0 : State :=
  ((crossing0.modCtx 0 (fun c => { c with gap := { c.gap with feeder := some 1 } })).modFdr 1 (fun d => { d with committed := 400 })).modLoad 1
    (fun _ => 400)

/-- The same crossing with a carry-over entry on feeder 1. -/
def entered0 : State := crossing0.modFdr 1 (fun d => { d with wait1 := [⟨0, 1, .carryOver⟩] })

/-- The truck waits on feeder 1 for section 1. -/
def queued1 : State := (with0 (truck .queued)).modFdr 1 (fun d => { d with wait1 := [⟨0, 1, .ordinary⟩] })

/-- Every slot holds a truck other than 7 that draws. -/
def crowded : State := { ramp with contexts := Vector.replicate 48 { truck .drawing with truck := some 99 } }

/-- The next state of a command, if it has one. -/
def next (c : Instr) (s : State) : Option State :=
  match exec c s with
  | .next t => some t
  | .fault _ => none
  | .refused _ => none

/-- A check on the next state of a command. -/
def leads (c : Instr) (s : State) (p : State → Bool) : Bool := ((next c s).map p).getD false

/-- MA can take a request at once: the part runs and does not send on the C-link, whose queue has a free entry, and no request
waits. -/
def ready (s : State) : Bool := !s.resetPin && decide (s.cQueue.length < 32) && s.requestBuffer.isEmpty && s.cSending.isNone

/-- A part that is ready takes every request of a kind that it does not send itself: the first hypothesis of every statement
about a request. -/
theorem takes_of_ready (s : State) (i : Instr) (f : Frame) (hf : frameOfRequest s.cAddress i = some f)
    (hk : sentByPart f.kind = false) (h : ready s = true) : s.takes i := by
  simp only [ready, Bool.and_eq_true, Bool.not_eq_true', decide_eq_true_eq, List.isEmpty_iff, Option.isNone_iff_eq_none] at h
  exact ⟨h.1.1.1, h.1.1.2, Or.inl ⟨h.1.2, h.2, f, hf, hk⟩⟩

/-- The last frame of the C-link queue answers a request. -/
def answers (kind : Byte) (payload : List Byte) (t : State) : Bool := t.cQueue.getLast? == some ⟨kind, 5, 224, 9, payload⟩

/-! ### Ill-formed commands -/

theorem test_truck_zero_sends_no_frame : (Instr.psn 0 3 0 .up .raised true 0).wellFormed = false := by decide
theorem test_truck_128_sends_no_request : (Instr.drq 128 3 0 0 0).wellFormed = false := by decide
theorem test_truck_255_sends_no_acceptance : (Instr.acc 255 3).wellFormed = false := by decide
theorem test_truck_zero_sends_no_release : (Instr.rel 0 3).wellFormed = false := by decide
theorem test_data_of_241_bytes : (Instr.dat 7 3 (List.replicate 241 0)).wellFormed = false := by decide
theorem test_data_of_truck_zero : (Instr.dat 0 3 []).wellFormed = false := by decide
theorem test_section_64_reports_nothing : (Instr.sst 64 true true false).wellFormed = false := by decide
theorem test_feeder_16_is_not_metered : (Instr.smp 16 0 0 0 .closed).wellFormed = false := by decide
theorem test_a_check_error_has_bytes : (Instr.checkError .w []).wellFormed = false := by decide
theorem test_foreign_payload_fits : (Instr.foreignFrame .w ⟨0x14, 0, 1, 0, List.replicate 241 0⟩).wellFormed = false := by decide
theorem test_request_payload_fits : (Instr.requestFrame ⟨0x5A, 224, 1, 0, List.replicate 241 0⟩).wellFormed = false := by decide
theorem test_a_known_request_is_not_malformed : (Instr.unknownRequestKind who 0x5A []).wellFormed = false := by decide
theorem test_force_one_is_the_forced_swap : (Instr.bankSwap who 1).wellFormed = false := by decide
theorem test_passed_data_fits : (Instr.passData who 7 (List.replicate 240 0)).wellFormed = false := by decide
theorem test_no_word_spells_a_command : decodeTableWord 32 0 = none := rfl

/-! ### Frames -/

/-- 8.2: the layout of a frame. -/
theorem test_a_release_on_the_line :
    (Frame.bytes ⟨0x13, 0, 7, 3, []⟩).take 6 = [0x7E, 0x13, 0, 7, 3, 0] ∧ (Frame.bytes ⟨0x13, 0, 7, 3, []⟩).length = 10 := by
  decide +kernel
theorem test_a_release_is_received : leads (.foreignFrame .w ⟨0x13, 0, 7, 3, []⟩) drawing0 (fun t => (t.ctx 0).state == .tracked) = true := by
  decide +kernel
theorem test_hypotheses_FrameBytesAreReceivedAsTheFrame :
    (List.replicate 240 (0x7E : Byte)).length ≤ 240 ∧ (ramp.asm .w).phase = .hunt ∧ (ramp.asm .c).phase = .hunt ∧ (ramp.asm .m).phase = .hunt := by
  decide +kernel
theorem test_hypotheses_RequestsSurviveTheWire :
    (Instr.passData who 7 (List.replicate 239 1)).wellFormed = true
      ∧ (frameOfRequest 224 (.passData who 7 (List.replicate 239 1))).isSome = true
      ∧ (Instr.unknownRequestKind who 0x61 []).wellFormed = true ∧ (frameOfRequest 224 (.unknownRequestKind who 0x61 [])).isSome = true := by
  decide +kernel
theorem test_hypotheses_StationFramesAreTheirCommands :
    ∀ i ∈ [Instr.psn 1 3 0 .up .raised true 0, .psn 127 3 65535 .down .lowered false 0, .drq 7 3 1 0 0, .acc 7 3, .rel 7 3,
        .dat 7 3 (List.replicate 240 0), .sst 0 true true false, .sst 63 false false true, .smp 15 0 0 0 .closed],
      i.wellFormed = true ∧ (linkFrame i).isSome = true := by
  decide +kernel
theorem test_hypotheses_AssemblersHuntForTheMarker :
    ramp.resetPin = false ∧ (ramp.asm .w).phase = .hunt
      ∧ (({ ramp with asmW := ⟨.header, [1, 2, 3], 0⟩ } : State).asm .w).phase = .header
      ∧ (({ ramp with asmW := ⟨.header, [1, 2, 3], 0⟩ } : State).asm .w).held.length < 4
      ∧ (({ ramp with asmW := ⟨.payload, [], 0⟩ } : State).asm .w).phase ≠ .hunt
      ∧ (({ ramp with asmW := ⟨.header, [1, 2, 3], 400⟩ } : State).asm .w).watch ≤ 400
      ∧ 400 < (({ ramp with asmW := ⟨.header, [1, 2, 3], 401⟩ } : State).asm .w).watch
      ∧ ramp.wSending = none ∧ ramp.cSending = none ∧ ({ ramp with wSending := some ⟨⟨0x14, 7, 0, 0, []⟩, 1⟩ } : State).wSending ≠ none
      ∧ ({ ramp with cSending := some ⟨⟨0x70, 5, 224, 9, []⟩, 1⟩ } : State).cSending ≠ none
      ∧ linkFrame (.rel 7 3) = some (.w, ⟨0x13, 0, 7, 3, []⟩) := by
  decide +kernel
theorem test_a_driven_line_is_not_received :
    leads (.rel 7 3) { drawing0 with wSending := some ⟨⟨0x14, 7, 0, 0, []⟩, 1⟩ } (fun t => (t.ctx 0).state == .drawing && t.wSending.isSome) = true := by
  decide +kernel
theorem test_a_late_marker_begins_anew :
    leads (.marker .w) { ramp with asmW := ⟨.header, [1], 401⟩ } (fun t => t.counters.w.runts == 1 && t.asmW == ⟨.header, [], 0⟩) = true := by
  decide +kernel
theorem test_a_gap_ends_a_frame : leads (.runt .w) { ramp with asmW := ⟨.payload, [1], 0⟩ } (fun t => t.counters.w.runts == 1) = true := by
  decide +kernel
theorem test_a_marker_begins_a_frame : leads (.marker .c) ramp (fun t => t.asmC.phase == .header) = true := by decide +kernel
theorem test_hypotheses_FramesThatFailTheirCheckAreCounted :
    markerByte ∉ [(0x13 : Byte), 0, 7, 3, 0] ++ [1, 2, 3, 4] ∧ [(1 : Byte), 2, 3, 4].length = (0 : Byte).toNat + 4
      ∧ [(1 : Byte), 2, 3, 4].drop 0 ≠ checkBytes ([(0x13 : Byte), 0, 7, 3, 0] ++ [])
      ∧ markerByte ∉ [(0x13 : Byte), 0, 7, 3, 241] ++ [] ∧ 240 < (241 : Byte).toNat ∧ (ramp.asm .w).phase = .hunt ∧ ramp.wSending = none := by
  decide +kernel
theorem test_a_bad_check_is_counted :
    leads (.checkError .w [0x13, 0, 7, 3, 0, 1, 2, 3, 4]) drawing0 (fun t => t.counters.w.checkErrors == 1 && (t.ctx 0).state == .drawing) = true := by
  decide +kernel
theorem test_hypotheses_ForeignFramesAreCountedAndDropped :
    (1 : Byte) ≠ 0 ∧ 192 ≤ (192 : Byte).toNat ∧ ((127 : Byte).toNat ≤ 127 ∧ (0x31 : Byte) ∉ [(0x10 : Byte), 0x11, 0x12, 0x13, 0x14])
      ∧ (128 ≤ (128 : Byte).toNat ∧ (0x10 : Byte) ≠ 0x31) ∧ [(0 : Byte)].length ≠ 7 ∧ [(0 : Byte)] ≠ [] ∧ 15 < (16 : Byte).toNat
      ∧ 2 < (3 : Byte).toNat ∧ ramp.resetPin = false ∧ ramp.wSending = none
      ∧ 2 < (([0, 0, 3, 0, 0, 0, 0] : List Byte).getD 2 0).toNat ∧ 3 < (([0, 0, 0, 4, 0, 0, 0] : List Byte).getD 3 0).toNat
      ∧ 1 < (([0, 0, 0, 0, 2, 0, 0] : List Byte).getD 4 0).toNat
      ∧ (([1, 0, 0, 0] : List Byte).getD 0 0).toNat + 128 ≠ (128 : Byte).toNat ∧ 1 < (([0, 2, 0, 0] : List Byte).getD 1 0).toNat
      ∧ 1 < (([0, 0, 2, 0] : List Byte).getD 2 0).toNat ∧ 1 < (([0, 0, 0, 2] : List Byte).getD 3 0).toNat := by
  decide +kernel
theorem test_a_foreign_section_is_counted :
    leads (.foreignFrame .w ⟨0x31, 0, 128, 0, [1, 1, 1, 0]⟩) ramp (fun t => t.counters.w.foreign == 1 && (t.sec 1).ssu == none) = true := by
  decide +kernel
theorem test_a_foreign_frame_is_counted : leads (.foreignFrame .w ⟨0x13, 0, 192, 3, []⟩) ramp (fun t => t.counters.w.foreign == 1) = true := by
  decide +kernel
theorem test_hypotheses_RequestFramesEnterTheBuffer :
    ramp.resetPin = false ∧ ramp.cSending = none ∧ (225 : Byte) ≠ ramp.cAddress ∧ (224 : Byte) = ramp.cAddress
      ∧ ¬(0x70 ≤ (0x78 : Byte).toNat ∧ (0x78 : Byte).toNat ≤ 0x77 ∨ 0x80 ≤ (0x78 : Byte).toNat ∧ (0x78 : Byte).toNat ≤ 0x83)
      ∧ (0x80 ≤ (0x83 : Byte).toNat ∧ (0x83 : Byte).toNat ≤ 0x83) ∧ ramp.requestBuffer.length < 4
      ∧ 4 ≤ ({ ramp with requestBuffer := List.replicate 4 ⟨0x5A, 224, 1, 0, []⟩ } : State).requestBuffer.length := by
  decide +kernel
theorem test_a_request_frame_waits : leads (.requestFrame ⟨0x5A, 224, 5, 9, []⟩) ramp (fun t => t.requestBuffer.length == 1) = true := by
  decide +kernel

/-! ### Requests -/

/-- The part sends a frame on the C-link. -/
def sending : State := { ramp with cSending := some { frame := ⟨0x80, 0, 224, 1, []⟩, left := 1000 } }

theorem test_hypotheses_RequestsWaitWhileTheQueueIsFull :
    (frameOfRequest 224 (.statusRead who)).isSome = true
      ∧ 32 ≤ ({ ramp with cQueue := List.replicate 32 ⟨0x80, 0, 224, 1, []⟩ } : State).cQueue.length
      ∧ requestOfFrame ⟨0x5A, 224, 5, 9, []⟩ = .statusRead who ∧ requestOfFrame ⟨0x5B, 224, 5, 9, []⟩ ≠ .statusRead who
      ∧ 4 ≤ (List.replicate 4 (⟨0x5B, 224, 5, 9, []⟩ : Frame)).length := by
  decide +kernel
theorem test_a_full_queue_holds_a_request :
    leads (.statusRead who) { ramp with cQueue := List.replicate 32 ⟨0x80, 0, 224, 1, []⟩ }
      (fun t => t.requestBuffer == [⟨0x5A, 224, 5, 9, []⟩]) = true := by
  decide +kernel
theorem test_hypotheses_RequestsWaitWhileTheQueueIsFull_arrival :
    ramp.takes (.statusRead who) ∧ ramp.cSending = none ∧ sending.cSending ≠ none ∧ ramp.requestBuffer = [] ∧ ramp.cQueue.length < 32
      ∧ frameOfRequest 224 (.unknownRequestKind who 0x83 []) = some ⟨0x83, 224, 5, 9, []⟩
      ∧ frameOfRequest 224 (.unknownRequestKind who 0x84 []) = some ⟨0x84, 224, 5, 9, []⟩
      ∧ (Instr.unknownRequestKind who 0x84 []).wellFormed = true :=
  ⟨takes_of_ready _ _ ⟨0x5A, 224, 5, 9, []⟩ (by decide +kernel) (by decide +kernel) (by decide +kernel), by decide +kernel⟩
theorem test_a_request_is_a_good_frame :
    leads (.statusRead who) ramp (fun t => t.counters.c.good == ramp.counters.c.good + 1 && t.requestBuffer.isEmpty) = true := by
  decide +kernel
theorem test_a_request_behind_another_is_a_good_frame :
    leads (.statusRead who) { ramp with requestBuffer := [⟨0x5B, 224, 5, 9, []⟩] }
      (fun t => t.counters.c.good == ramp.counters.c.good + 1 && t.requestBuffer == [⟨0x5B, 224, 5, 9, []⟩, ⟨0x5A, 224, 5, 9, []⟩]) = true := by
  decide +kernel
theorem test_an_echo_is_foreign :
    leads (.unknownRequestKind who 0x83 []) ramp
      (fun t => t.counters.c.foreign == ramp.counters.c.foreign + 1 && t.cQueue == ramp.cQueue && t.requestBuffer.isEmpty) = true := by
  decide +kernel
theorem test_a_request_is_lost_while_the_part_sends : leads (.statusRead who) sending (fun t => decide (t = sending)) = true := by decide +kernel
theorem test_hypotheses_EveryTakenRequestIsAnsweredOnce :
    callerOf (.statusRead who) = some who ∧ callerOf (.restart who) = some who ∧ callerOf (.unknownRequestKind who 0x61 []) = some who
      ∧ ready ramp = true := by
  decide +kernel
theorem test_hypotheses_MalformedRequestsAreRefused :
    (0x4F : Byte).toNat < 0x50 ∧ 0x60 < (0x61 : Byte).toNat ∧ 6 < (7 : Byte).toNat ∧ (0 : Byte).toNat = 0
      ∧ catalogueOf who 0x50 [6, 0, 1] = none ∧ 1 ≤ (6 : Byte).toNat ∧ (6 : Byte).toNat ≤ 6 ∧ ready ramp = true
      ∧ ([0] : List Byte).length ≠ 2 ∧ ([0, 0] : List Byte).length = 2 ∧ 4 < (5 : Byte).toNat ∧ 63 < (64 : Byte).toNat ∧ (63 : Byte).toNat ≤ 63
      ∧ 1 < (2 : Byte).toNat ∧ 15 < (16 : Byte).toNat ∧ (15 : Byte).toNat ≤ 15 ∧ ramp.slotOf 7 = none ∧ drawing0.slotOf 7 ≠ none
      ∧ ready drawing0 = true ∧ catalogueOf who 0x52 [] = none ∧ catalogueOf who 0x60 [0] = none := by
  decide +kernel
theorem test_unknown_kind : leads (.unknownRequestKind who 0x61 []) ramp (answers 0x71 [1, 0, 255]) = true := by decide +kernel
theorem test_unknown_table : leads (.unknownRequestKind who 0x50 [7, 0, 0]) ramp (answers 0x71 [2, 7, 255]) = true := by decide +kernel
theorem test_a_short_read_names_its_table : leads (.unknownRequestKind who 0x51 [6, 0]) ramp (answers 0x71 [1, 6, 255]) = true := by decide +kernel
theorem test_an_unknown_order : leads (.unknownRequestKind who 0x56 [7, 5]) drawing0 (answers 0x71 [4, 0, 7]) = true := by decide +kernel

/-! ### Tables -/

/-- A SECTION entry of feeder 15. -/
def sectionWire : SectionWire := ⟨1, 0, 99, 15, 900, 2000, 123, 123, 1⟩

/-- A GAP entry. -/
def gapWire : GapWire := ⟨1, 100, 109, 63, 0, 1000, 1, 120⟩

/-- A FEEDER entry of 3000 A with a reserve of 100 A. -/
def feederWire : FeederWire := ⟨3000, 100, 8, 50, 10, 700⟩

/-- A CLASS entry. -/
def classWire : ClassWire := ⟨1, 0, 0, 2, 700, 255, 1⟩

/-- A RING entry of 32 samples at 16. -/
def ringWire : RingWire := ⟨1, 16, 32, 63, 500, 255, 1, 1⟩

/-- The ring of feeder 0 records 32 samples at 0. -/
def recording : State :=
  ramp.modRing 0 (fun _ => { desc := ⟨true, 0, 32, 1, 500, 2, true, true⟩, state := .recording, writePos := 31, fill := 2, countdown := none })

theorem test_hypotheses_MapWritesAreCheckedInOrder :
    ready ramp = true ∧ 1 < (2 : Byte).toNat ∧ 63 < (64 : Byte).toNat ∧ (63 : SectionId).val = (63 : Byte).toNat
      ∧ (0 : Byte).toNat = ramp.active.code ∧ (1 : Byte).toNat ≠ ramp.active.code ∧ ramp.swap = .none
      ∧ ({ ramp with swap := .pending } : State).swap ≠ .none ∧ sectionWire.feeder.toNat ≤ 15 ∧ sectionWire.wake.toNat ≤ 2000
      ∧ 15 < ({ sectionWire with feeder := 16 } : SectionWire).feeder.toNat ∧ 31 < (32 : Byte).toNat
      ∧ gapWire.crossing.toNat ≤ 120 ∧ 120 < ({ gapWire with crossing := 121 } : GapWire).crossing.toNat := by
  decide +kernel
theorem test_a_section_is_written :
    leads (.tableWriteSection who 1 63 sectionWire) ramp (fun t => answers 0x70 [] t && (t.bankB.sections[63].feeder == 15) && t.bankA == map) = true := by
  decide +kernel
theorem test_the_active_bank_is_refused : leads (.tableWriteSection who 0 63 sectionWire) ramp (answers 0x71 [5, 1, 63]) = true := by
  decide +kernel
theorem test_a_gap_is_written :
    leads (.tableWriteGap who 1 31 gapWire) ramp (fun t => answers 0x70 [] t && (t.bankB.gaps[31].lower == 63)) = true := by decide +kernel
theorem test_a_gap_of_no_crossing_time : leads (.tableWriteGap who 1 31 { gapWire with crossing := 0 }) ramp (answers 0x71 [4, 2, 31]) = true := by
  decide +kernel
theorem test_hypotheses_FeederWritesReplaceTheConfiguration :
    ready ramp = true ∧ 15 < (16 : Byte).toNat ∧ 8 < ({ feederWire with share := 9 } : FeederWire).share.toNat ∧ feederWire.share.toNat ≤ 8
      ∧ (ramp.fdr 0).config.capacity - (ramp.fdr 0).config.reserve < feederWire.capacity.toNat - feederWire.reserve.toNat
      ∧ (1600 : Nat) - 100 ≤ (ramp.fdr 0).config.capacity - (ramp.fdr 0).config.reserve := by
  decide +kernel
theorem test_a_lowered_limit_is_reported :
    leads (.tableWriteFeeder who 0 0 { feederWire with capacity := 400 }) drawing0
      (fun t => answers 0x70 [] t && (t.fdr 0).committed == 400 && t.cQueue.length == 2) = true := by
  decide +kernel
theorem test_hypotheses_ClassWritesReplaceTheEntry :
    (7 &&& ramp.classes[0].mask = ramp.classes[0].matchBits &&& ramp.classes[0].mask ∧ ramp.classes[0].valid = true)
      ∧ (∀ k : Fin 8, State.reset.classes[k].valid = false) ∧ ready ramp = true ∧ 7 < (8 : Byte).toNat ∧ (classWire.base = 1 ∨ classWire.base = 2) ∧ ({ classWire with base := 3 } : ClassWire).base ≠ 2 := by
  decide +kernel
theorem test_a_class_is_written :
    leads (.tableWriteClass who 0 7 classWire) ramp (fun t => answers 0x70 [] t && (t.classes[7].base == .two) && t.classes[7].holdThrough) = true := by
  decide +kernel
theorem test_hypotheses_RingWritesActOnTheRing :
    ready recording = true ∧ 15 < (16 : Byte).toNat ∧ ringWire.length.toNat % 16 = 0 ∧ ({ ringWire with length := 40 } : RingWire).length.toNat % 16 ≠ 0
      ∧ (∀ f, 16 ≤ (recording.ring f).desc.length ∧ (recording.ring f).desc.start + (recording.ring f).desc.length ≤ 8192)
      ∧ (recording.ring 0).desc.enabled = true ∧ (recording.ring 1).desc.enabled = false
      ∧ ringWire.start.toNat ≤ 16 ∧ 16 < (recording.ring 0).desc.start + (recording.ring 0).desc.length
      ∧ (32 : Nat) = (recording.ring 0).desc.start + (recording.ring 0).desc.length := by
  decide +kernel
theorem test_an_overlap_is_refused : leads (.tableWriteRing who 0 1 ringWire) recording (answers 0x71 [10, 5, 1]) = true := by decide +kernel
theorem test_a_ring_beside_another :
    leads (.tableWriteRing who 0 1 { ringWire with start := 32 }) recording
      (fun t => answers 0x70 [] t && (t.ring 1).state == .recording && (t.ring 1).writePos == 32) = true := by
  decide +kernel
theorem test_hypotheses_GlobalWritesTakeEffect :
    ready ramp = true ∧ globalRange 21 = some (0, 1) ∧ globalRange 53 = some (0, 3) ∧ globalRange 22 = none ∧ globalRange 54 = none
      ∧ globalRange 9 = some (0, 1) ∧ ramp.globals.exclusion ≠ 0 ∧ ramp.globals.exclusion = 1 := by
  decide +kernel
theorem test_exclusion_off_clears_a_fault :
    leads (.tableWriteGlobal who 0 9 0) (with0 { truck .faulted with strikes := 3 })
      (fun t => (t.ctx 0).state == .tracked && (t.ctx 0).strikes == 0 && answers 0x70 [] t) = true := by
  decide +kernel
theorem test_a_global_out_of_range : leads (.tableWriteGlobal who 0 53 4) ramp (answers 0x71 [4, 6, 53]) = true := by decide +kernel
theorem test_hypotheses_TableReadsReturnWhatIsStored :
    ready ramp = true ∧ bankOfByte 1 = some .b ∧ bankOfByte 2 = none ∧ 63 < (64 : Byte).toNat ∧ 31 < (32 : Byte).toNat ∧ 15 < (16 : Byte).toNat
      ∧ 7 < (8 : Byte).toNat ∧ ramp.globals.read 21 = some 0 ∧ ramp.globals.read 22 = none ∧ (ramp.meter 0).latest.isSome = true
      ∧ (sectionEntryOf sectionWire).isSome = true ∧ (gapEntryOf gapWire).isSome = true ∧ (feederConfigOf feederWire).isSome = true
      ∧ (classEntryOf classWire).isSome = true ∧ (ringDescOf ringWire).isSome = true := by
  decide +kernel
theorem test_a_section_is_read :
    leads (.tableReadSection who 0 0) ramp
      (answers 0x72 [1, 0, 0, 1, 0, 0, 0, 99, 0, 3, 132, 0, 100, 1, 60, 1, 4, 0, 255, 0, 0, 0, 0, 0, 0, 0, 0, 0, 0, 0, 0, 0, 255, 255, 255, 0]) = true := by
  decide +kernel
theorem test_a_gap_is_read : leads (.tableReadGap who 0 0) ramp (answers 0x72 [2, 0, 0, 1, 0, 100, 0, 109, 0, 1, 0, 20, 0, 30]) = true := by
  decide +kernel
theorem test_a_feeder_is_read :
    leads (.tableReadFeeder who 0 0) drawing0 (answers 0x72 [3, 0, 0, 7, 208, 1, 244, 3, 20, 5, 2, 188, 1, 1, 144, 0]) = true := by
  decide +kernel
theorem test_a_class_is_read : leads (.tableReadClass who 0 0) ramp (answers 0x72 [4, 0, 0, 1, 0, 0, 1, 3, 32, 60, 0]) = true := by decide +kernel
theorem test_a_ring_is_read :
    leads (.tableReadRing who 0 0) recording
      (answers 0x72 [5, 0, 0, 1, 0, 0, 0, 32, 1, 1, 244, 2, 1, 1, 1, 0, 31, 0, 2, 255, 3, 0, 1, 0, 100, 2, 238]) = true := by
  decide +kernel
theorem test_a_global_is_read : leads (.tableReadGlobal who 0 21) ramp (answers 0x72 [6, 0, 21, 0, 0]) = true := by decide +kernel

/-! ### Status, counters, contexts, queues, events, history -/

theorem test_status_clears_the_latches :
    leads (.statusRead who) { ramp with latches := 3, alert := true } (fun t => t.latches == 0 && !t.alert && t.cQueue.length == 1) = true := by
  decide +kernel
theorem test_counters_are_read :
    leads (.counterRead who) ramp (fun t => (t.cQueue.getLast?.map (fun f => (f.kind, f.payload.length))) == some (0x75, 68)) = true := by
  decide +kernel
theorem test_hypotheses_ContextsAndQueuesAreRead :
    ready drawing0 = true ∧ 1 < (2 : Byte).toNat ∧ 47 < (48 : Byte).toNat ∧ (47 : Slot).val = (47 : Byte).toNat ∧ drawing0.slotOf 7 = some 0
      ∧ drawing0.slotOf 8 = none ∧ 15 < (16 : Byte).toNat ∧ (15 : FeederId).val = (15 : Byte).toNat := by
  decide +kernel
theorem test_a_free_slot_is_read :
    leads (.contextRead who 0 47) ramp (fun t => (t.cQueue.getLast?.map (fun f => (f.kind, f.payload.take 3))) == some (0x76, [255, 255, 0])) = true := by
  decide +kernel
theorem test_a_queue_is_read :
    leads (.queueRead who 0 0) drawing0 (answers 0x77 [1, 1, 144, 5, 220, 0, 1, 0, 0, 0, 1, 0, 7, 4, 1, 144, 0]) = true := by decide +kernel
theorem test_hypotheses_EventsAreLatchedNumberedAndAlerted :
    ({ ramp with globals := { ramp.globals with eventControl := Vector.replicate 22 2 } } : State).globals.eventControl[EventKind.overdraw.place] % 2 = 0
      ∧ ramp.globals.eventControl[EventKind.overdraw.place] % 2 = 1 ∧ (List.replicate 28 (0 : Nat)).length ≤ 28
      ∧ 28 < (List.replicate 29 (0 : Nat)).length := by
  decide +kernel
theorem test_hypotheses_ChainagesResolve :
    (ramp.approachOf .up (.sect 0) 80 = some 0 ∧ ramp.approachOf .up (.sect 0) 79 = none ∧ ramp.approachOf .down (.sect 1) 129 = some 0
      ∧ ramp.approachOf .down (.sect 1) 130 = none ∧ ramp.approachOf .up (.sect 1) 209 = none) ∧
    (map.invalid = none ∧ crossed.invalid = some (1, 0)
      ∧ ({ map with gaps := map.gaps.set 1 ⟨true, 210, 219, 0, 2, 0, true, 30⟩ } : Bank).invalid = some (2, 1)) ∧
    map.resolve 99 = .sect 0 ∧ map.resolve 100 = .gap 0 ∧ map.resolve 109 = .gap 0 ∧ map.resolve 110 = .sect 1 ∧ map.resolve 319 = .sect 2
      ∧ map.resolve 320 = .offMap := by
  decide +kernel
theorem test_hypotheses_HistoryIsReadNewestFirst :
    ready recording = true ∧ 15 < (16 : Byte).toNat ∧ 32 < (33 : Byte).toNat ∧ (recording.ring 0).state ≠ .disabled ∧ (recording.ring 1).state = .disabled := by
  decide +kernel
theorem test_history_is_newest_first :
    leads (.historyRead who 0 0 3) { recording with samples := [(29, ⟨1, 2, 3⟩), (30, ⟨4, 5, 6⟩)] }
      (answers 0x73 [0, 1, 0, 2, 0, 0, 2, 1, 0, 4, 0, 5, 6, 0, 1, 0, 2, 3]) = true := by
  decide +kernel
theorem test_hypotheses_HistoryIsReadNewestFirst_ring :
    (recording.ring 0).sound ∧ recording.samples.wf = true ∧ (recording.ring 0).writePos + 1 = 32
      ∧ ((recording.modRing 0 (fun r => { r with writePos := 0 })).ring 0).sound := by
  unfold Ring.sound
  decide +kernel
theorem test_a_ring_is_read_across_its_start : (recording.modRing 0 (fun r => { r with writePos := 0 })).ringEntry 0 0
    = recording.samples.read 31 ∧ ((recording.modRing 0 (fun r => { r with writePos := 0 })).ring 0).address 0 = 31 := by
  decide +kernel
theorem test_hypotheses_RingsAreFrozenAndReleased :
    ready recording = true ∧ (recording.ring 0).state = .recording ∧ (recording.ring 1).state = .disabled
      ∧ ((recording.modRing 0 (fun r => { r with state := .frozen })).ring 0).state = .frozen
      ∧ ((recording.modRing 0 (fun r => { r with state := .postTrip, countdown := some 0 })).ring 0).state = .postTrip
      ∧ ((recording.modRing 0 (fun r => { r with state := .postTrip, countdown := some 0 })).ring 0).countdown = some 0
      ∧ ((recording.modRing 0 (fun r => { r with state := .postTrip, countdown := some 1 })).ring 0).countdown ≠ some 0 := by
  decide +kernel
theorem test_a_ring_is_released :
    leads (.historyRelease who 0) (recording.modRing 0 (fun r => { r with state := .frozen }))
      (fun t => (t.ring 0).state == .recording && (t.ring 0).fill == 2 && answers 0x70 [] t) = true := by
  decide +kernel
theorem test_a_ring_freezes :
    leads (.postTripCountEnd 0) (recording.modRing 0 (fun r => { r with state := .postTrip, countdown := some 0 }))
      (fun t => (t.ring 0).state == .frozen && t.cQueue.length == 1) = true := by
  decide +kernel

/-! ### The swap -/

theorem test_hypotheses_BanksAreSwapped :
    ready drawing0 = true ∧ 1 < (2 : Byte).toNat ∧ drawing0.swap = .none ∧ drawing0.shadowBank.invalid = none
      ∧ ({ drawing0 with bankB := crossed } : State).shadowBank.invalid = some (1, 0)
      ∧ (∀ i, ({ drawing0 with swap := .pending } : State).inConflict i = false)
      ∧ ({ drawing0 with swap := .pending, bankB := Bank.reset } : State).inConflict 0 = true
      ∧ ({ offered0 with swap := .pendingForced, bankB := Bank.reset } : State).inConflict 0 = true
      ∧ ({ crossing0 with swap := .pendingForced, bankB := Bank.reset } : State).inConflict 0 = true
      ∧ ({ dropping0 .gap with swap := .pendingForced, bankB := Bank.reset } : State).inConflict 0 = true
      ∧ ({ dropping0 .order with swap := .pendingForced, bankB := Bank.reset } : State).inConflict 0 = true := by
  decide +kernel
theorem test_a_swap_completes :
    leads (.bankSwap who 0) drawing0 (fun t => t.active == .b && t.swap == .none && (t.ctx 0).state == .drawing && answers 0x70 [] t) = true := by
  decide +kernel
theorem test_a_swap_waits :
    leads (.bankSwap who 0) { drawing0 with bankB := Bank.reset } (fun t => t.active == .a && t.swap == .pending && t.swapTimer == some 60000) = true := by
  decide +kernel
theorem test_a_forced_swap_withdraws :
    leads (.bankSwapForced who) { drawing0 with bankB := Bank.reset }
      (fun t => t.swap == .pendingForced && (t.ctx 0).dropReason == some .reconfig && (t.ctx 0).hold == some ⟨400, 0, 0⟩) = true := by
  decide +kernel
theorem test_an_invalid_map_is_refused : leads (.bankSwapForced who) { drawing0 with bankB := crossed } (answers 0x71 [7, 1, 0]) = true := by
  decide +kernel
theorem test_hypotheses_PendingSwapsEndWithoutAFlip :
    ready ramp = true ∧ ramp.swap = .none ∧ ({ ramp with swap := .pendingForced } : State).swap ≠ .none
      ∧ ({ ramp with swap := .pending, swapTimer := some 0 } : State).swapTimer ≠ none ∧ ramp.resetPin = false ∧ ramp.swapTimer = none := by
  decide +kernel
theorem test_a_swap_is_cancelled :
    leads (.swapCancel who) { drawing0 with swap := .pending, swapTimer := some 5, bankB := Bank.reset }
      (fun t => t.swap == .none && t.swapTimer == none && t.active == .a && answers 0x70 [] t) = true := by
  decide +kernel
theorem test_a_swap_times_out :
    leads .swapTimerExpiry { drawing0 with swap := .pending, swapTimer := some 0, bankB := Bank.reset }
      (fun t => t.swap == .none && t.cQueue == [⟨0x80, 0, 224, 2, [3, 1, 0, 1]⟩]) = true := by
  decide +kernel

/-! ### Sections -/

/-- Section 0 in a state. -/
def section0 (st : SecState) (s : State) : State := s.modSec 0 (fun r => { r with state := st })

theorem test_hypotheses_SectionsAreIsolatedAndEnabled :
    ready drawing0 = true ∧ 63 < (64 : Byte).toNat ∧ (63 : SectionId).val = (63 : Byte).toNat ∧ (drawing0.sec 63).state = .isolated
      ∧ (drawing0.sec 0).state ≠ .isolated ∧ ((drawing0.ctx 0).hold.map (·.sect)) = some 0 ∧ ((offered0.ctx 0).hold.map (·.sect)) = some 0
      ∧ ((queued0.memberOf 0).map (·.entry.sect)) = some 0
      ∧ ((((dropping0 .gap).modCtx 0 (fun c => { c with gap := { c.gap with feeder := some 1 } })).ctx 0).gap.reserved.map (·.sect)) = some 1
      ∧ ((drawing0.ctx 0).hold.map (·.sect)) ≠ some 1 := by
  decide +kernel
theorem test_hypotheses_SectionsAreIsolatedAndEnabled_crossing :
    reserved0.contextFits 0 ∧ entered0.contextFits 0 ∧ ((reserved0.ctx 0).gap.reserved.map (·.sect)) = some 1
      ∧ ((entered0.memberOf 0).map (·.entry.sect)) = some 1 ∧ (reserved0.sec 1).state ≠ .isolated := by
  unfold State.contextFits
  dsimp only
  repeat' apply And.intro
  all_goals decide +kernel
theorem test_a_reservation_is_isolated :
    leads (.sectionCmdIsolate who 1) reserved0
      (fun t => (t.ctx 0).state == .crossing && (t.ctx 0).gap.feeder == none && (t.fdr 1).committed == 0 && t.load 1 == 0) = true := by
  decide +kernel
theorem test_a_section_is_isolated :
    leads (.sectionCmdIsolate who 0) drawing0
      (fun t => (t.sec 0).state == .isolated && (t.sec 0).lockout && (t.ctx 0).dropReason == some .isolated && answers 0x70 [] t) = true := by
  decide +kernel
theorem test_a_section_is_enabled :
    leads (.sectionCmdEnable who 63) (ramp.modSec 63 (fun r => { r with lockout := true }))
      (fun t => (t.sec 63).state == .standby && !(t.sec 63).lockout && answers 0x70 [] t) = true := by
  decide +kernel
theorem test_hypotheses_SectionsAreWokenAndRested :
    ready ramp = true ∧ ramp.feederOf 0 = some 0 ∧ (ramp.fdr 0).state = .online ∧ (ramp.entry 0).fastRaise = true
      ∧ (ramp.fdr 0).config.fastVolts ≤ 750 ∧ (ramp.meter 1).latest = none ∧ ramp.feederOf 1 = some 1
      ∧ (∀ f, ramp.feederOf 63 = some f → (ramp.fdr f).state ≠ .online)
      ∧ 0 < drawing0.load 0 ∧ ramp.load 0 = 0 ∧ (∃ e ∈ (queued0.fdr 0).wait1, e.sect = 0)
      ∧ (∀ f, (ramp.fdr f).wait1 = [] ∧ (ramp.fdr f).wait2 = []) ∧ (ramp.sec 0).state = .energised ∧ (ramp.sec 63).state = .isolated
      ∧ ((section0 .idle ramp).sec 0).state = .idle ∧ ((section0 .standby ramp).sec 0).state = .standby ∧ ramp.resetPin = false
      ∧ ((ramp.modSec 0 (fun r => { r with idleTimer := some 0 })).sec 0).idleTimer ≠ none := by
  decide +kernel
theorem test_a_section_is_woken_fast :
    leads (.sectionCmdWake who 0) (section0 .standby ramp)
      (fun t => (t.sec 0).state == .raising && (t.sec 0).command == some .closeFast && (t.sec 0).raiseTimer == some 1000) = true := by
  decide +kernel
theorem test_an_unmapped_section_is_not_woken :
    leads (.sectionCmdWake who 63) (ramp.modSec 63 (fun r => { r with state := .standby })) (answers 0x71 [12, 0, 63]) = true := by
  decide +kernel
theorem test_a_section_rests_in_idle :
    leads (.sectionCmdRestIdle who 0) ramp
      (fun t => (t.sec 0).state == .idle && (t.sec 0).command == some .keepalive && (t.sec 0).standbyTimer == some 300000) = true := by
  decide +kernel
theorem test_a_raise_is_abandoned :
    leads (.sectionCmdRestStandby who 0) (section0 .raising ramp) (fun t => (t.sec 0).state == .standby && (t.sec 0).command == some .opening) = true := by
  decide +kernel
theorem test_the_idle_timer_rests :
    leads (.idleTimerExpiry 0) (ramp.modSec 0 (fun r => { r with idleTimer := some 0 })) (fun t => (t.sec 0).state == .idle) = true := by
  decide +kernel
theorem test_the_standby_timer_opens :
    leads (.standbyTimerExpiry 0) (ramp.modSec 0 (fun r => { r with state := .idle, standbyTimer := some 0 }))
      (fun t => (t.sec 0).state == .standby && (t.sec 0).command == some .opening) = true := by
  decide +kernel
theorem test_hypotheses_StatusReportsMoveSections :
    ramp.resetPin = false ∧ 63 < (64 : Byte).toNat ∧ (0 : SectionId).val = (0 : Byte).toNat ∧ (ramp.sec 0).state = .energised
      ∧ ((section0 .raising ramp).sec 0).state = .raising ∧ (ramp.sec 63).lockout = false
      ∧ ((ramp.modSec 63 (fun r => { r with lockout := true })).sec 63).lockout = true ∧ ramp.swap = .none
      ∧ ((ramp.modSec 0 (fun r => { r with raiseTimer := some 0 })).sec 0).raiseTimer ≠ none ∧ (ramp.sec 0).raiseTimer = none := by
  decide +kernel
theorem test_hypotheses_StatusReportsMoveSections_idle :
    ((section0 .idle ramp).sec 0).state = .idle ∧ ramp.wSending = none
      ∧ leads (.sst 0 true true false) (section0 .idle ramp) (fun t => (t.sec 0).state == .idle) = true
      ∧ leads (.sst 0 true false false) (section0 .idle ramp) (fun t => (t.sec 0).state == .standby) = true
      ∧ leads (.sst 0 true true true) (section0 .idle ramp) (fun t => (t.sec 0).state == .isolated) = true := by
  decide +kernel
theorem test_hypotheses_StatusReportsMoveSections_standby :
    ((section0 .standby ramp).sec 0).state = .standby ∧ ramp.wSending = none
      ∧ leads (.sst 0 false true false) (section0 .standby ramp) (fun t => (t.sec 0).command == none) = true
      ∧ leads (.sst 0 true true false) (section0 .standby ramp) (fun t => (t.sec 0).command == some .opening) = true
      ∧ leads (.sst 0 false false true) (section0 .standby ramp) (fun t => (t.sec 0).state == .isolated) = true := by
  decide +kernel
theorem test_a_raise_completes : leads (.sst 0 true true false) (section0 .raising ramp) (fun t => (t.sec 0).state == .energised) = true := by
  decide +kernel
theorem test_a_fault_isolates :
    leads (.sst 0 true true true) drawing0 (fun t => (t.sec 0).state == .isolated && t.cQueue == [⟨0x80, 0, 224, 2, [19, 0, 1, 144]⟩]) = true := by
  decide +kernel
theorem test_a_raise_runs_out :
    leads (.raiseLimitExpiry 0) (ramp.modSec 0 (fun r => { r with state := .raising, raiseOrigin := some .standby, raiseTimer := some 0 }))
      (fun t => (t.sec 0).state == .isolated && (t.sec 0).lockout && t.cQueue == [⟨0x80, 0, 224, 2, [18, 0, 0, 1]⟩]) = true := by
  decide +kernel

/-! ### Feeders -/

/-- Feeder 0 OFFLINE, section 0 in IDLE with truck 7 waiting for nothing. -/
def offline0 : State := (section0 .idle ramp).modFdr 0 (fun d => { d with state := .offline })

theorem test_hypotheses_FeedersAreResumed :
    ready offline0 = true ∧ 15 < (16 : Byte).toNat ∧ (offline0.fdr 0).state = .offline ∧ (offline0.meter 0).silence ≠ none
      ∧ ((offline0.meter 0).latest.map (·.breaker)) = some .closed ∧ (offline0.meter 1).silence = none ∧ (ramp.fdr 0).state = .online
      ∧ offline0.feederOf 0 = some 0 ∧ offline0.hasHolder 0 = false ∧ (offline0.modLoad 0 (fun _ => 400)).hasHolder 0 = true := by
  decide +kernel
theorem test_a_feeder_is_resumed :
    leads (.feederCmdResume who 0) offline0 (fun t => (t.fdr 0).state == .online && answers 0x70 [] t) = true := by decide +kernel
theorem test_a_silent_feeder_is_not_resumed :
    leads (.feederCmdResume who 2) offline0 (answers 0x71 [12, 0, 2]) = true := by decide +kernel
theorem test_hypotheses_FeedersAreLost :
    ready drawing0 = true ∧ (drawing0.fdr 0).state ≠ .offline ∧ (drawing0.fdr 15).state = .offline ∧ drawing0.holdsOn 0 0 = true
      ∧ offered0.holdsOn 0 0 = true ∧ (dropping0 .gap).holdsOn 0 0 = true ∧ queued0.entryOn 0 0 = true ∧ drawing0.swap = .none
      ∧ drawing0.feederOf 0 = some 0 ∧ (drawing0.sec 0).state = .energised ∧ (drawing0.meter 0).silence ≠ none ∧ (drawing0.meter 1).silence = none
      ∧ ((drawing0.modFdr 0 (fun d => { d with state := .suspect, meterLost := some 0 })).fdr 0).meterLost ≠ none := by
  decide +kernel
theorem test_a_feeder_is_put_offline :
    leads (.feederCmdOffline who 0) drawing0
      (fun t => (t.fdr 0).state == .offline && (t.fdr 0).committed == 0 && (t.ctx 0).state == .tracked
        && (t.ctx 0).withdraw == some ⟨.feederDown, true⟩ && (t.sec 0).state == .standby) = true := by
  decide +kernel

/-- States in which the loss of a feeder reaches a grant, a gap drop, a reservation, the entry of a crossing and a wait. -/
def reached : List State := [drawing0, dropping0 .gap, reserved0, entered0, queued0]

theorem test_hypotheses_FeedersAreLost_sound : ∀ s ∈ reached, s.contextsFit ∧ s.listsFit ∧ s.budgetsAgree := by
  unfold State.contextsFit State.contextFits State.listsFit State.budgetsAgree
  dsimp only
  intro s hs
  simp only [reached, List.mem_cons, List.not_mem_nil, or_false] at hs
  refine ⟨⟨fun i => ?_, ?_⟩, fun f => ⟨?_, ?_, fun l => ⟨?_, ?_⟩⟩, ?_, ?_⟩
  · rcases hs with rfl | rfl | rfl | rfl | rfl <;> (refine ⟨?_, ?_, ?_, ?_, ?_, ?_⟩ <;> revert i <;> decide +kernel)
  all_goals rcases hs with rfl | rfl | rfl | rfl | rfl
  all_goals first | decide +kernel | (revert f; decide +kernel) | (cases l <;> revert f <;> decide +kernel)
theorem test_hypotheses_FeedersAreLost_crossing :
    ready reserved0 = true ∧ (reserved0.fdr 1).state ≠ .offline ∧ (reserved0.ctx 0).gap.feeder = some 1 ∧ (reserved0.ctx 0).gap.target ≠ none
      ∧ ready entered0 = true ∧ (entered0.fdr 1).wait1 = [⟨0, 1, .carryOver⟩] ∧ (entered0.ctx 0).state = .crossing
      ∧ (dropping0 .gap).holdsOn 0 0 = true ∧ (dropping0 .gap).holdsOn 0 1 = false ∧ ((dropping0 .gap).ctx 0).gap.gapId = some 0
      ∧ (((dropping0 .gap).modCtx 0 (fun c => { c with gap := { c.gap with feeder := some 1 } })).ctx 0).gap.feeder = some 1 := by
  decide +kernel
theorem test_a_lost_feeder_frees_a_reservation :
    leads (.feederCmdOffline who 1) reserved0
      (fun t => (t.fdr 1).committed == 0 && (t.ctx 0).state == .crossing && (t.ctx 0).gap.feeder == none && t.load 1 == 0) = true := by
  decide +kernel
theorem test_a_lost_feeder_frees_an_entry :
    leads (.feederCmdOffline who 1) entered0
      (fun t => (t.fdr 1).wait1.isEmpty && (t.ctx 0).state == .crossing && (t.memberOf 0).isNone) = true := by
  decide +kernel
theorem test_a_lost_meter_takes_the_feeder :
    leads (.meterLostTimerExpiry 0) (drawing0.modFdr 0 (fun d => { d with state := .suspect, meterLost := some 0 }))
      (fun t => (t.fdr 0).state == .offline && (t.ctx 0).withdraw == some ⟨.meterLost, true⟩) = true := by
  decide +kernel
theorem test_a_silent_meter_is_suspect :
    leads (.meterSilenceExpiry 0) drawing0
      (fun t => (t.fdr 0).state == .suspect && (t.fdr 0).meterLost == some 5000 && (t.ctx 0).state == .drawing) = true := by
  decide +kernel

/-- Feeder 0 above its capacity with its overload timer at its end. -/
def overloaded (s : State) : State :=
  (s.modFdr 0 (fun d => { d with overload := some 0 })).modMeter 0 (fun _ => ⟨some ⟨1, 2001, 750, .closed⟩, some 200⟩)

theorem test_hypotheses_OverloadsShedTheNewestGrant :
    (overloaded drawing0).resetPin = false ∧ ((overloaded drawing0).fdr 0).overload ≠ none ∧ (drawing0.fdr 0).overload = none
      ∧ ((overloaded drawing0).fdr 0).grantOrder.filter (fun i => ((overloaded drawing0).ctx i).state = .drawing) = [0]
      ∧ ((overloaded drawing0).ctx 0).levelAtGrant = some .one ∧ ((overloaded drawing0).ctx 0).cls.holdThrough = false
      ∧ ((overloaded (dropping0 .shed)).fdr 0).grantOrder.filter (fun i => ((overloaded (dropping0 .shed)).ctx i).state = .drawing) = [] := by
  decide +kernel
theorem test_a_grant_is_shed :
    leads (.overloadTimerExpiry 0) (overloaded drawing0)
      (fun t => (t.ctx 0).state == .dropping && (t.ctx 0).dropReason == some .shed && (t.fdr 0).overload == some 2000 && t.counters.sheds == 1) = true := by
  decide +kernel
theorem test_hypotheses_ArbitrationServesTheEarliestEligible :
    ((queued0.fdr 0).wait1.find? (queued0.eligible 0)) = some ⟨0, 0, .ordinary⟩ ∧ (queued0.fdr 0).wait2.find? (queued0.eligible 0) = none
      ∧ (queued0.ctx 0).state = .queued ∧ (queued0.ctx 0).req.minimum ≤ 400
      ∧ ((queued0.modCtx 0 (fun c => { c with req := { c.req with minimum := 1501, requested := 1501 } })).ctx 0).req.minimum > 1500
      ∧ ((crossing0.modFdr 1 (fun d => { d with wait1 := [⟨0, 1, .carryOver⟩] })).fdr 1).wait1.find?
          ((crossing0.modFdr 1 (fun d => { d with wait1 := [⟨0, 1, .carryOver⟩] })).eligible 1) = some ⟨0, 1, .carryOver⟩ := by
  decide +kernel
theorem test_an_entry_is_offered : ((queued0.arbitrate 0).ctx 0).hold = some ⟨400, 0, 0⟩ ∧ ((queued0.arbitrate 0).ctx 0).state = .offered := by
  decide +kernel
theorem test_hypotheses_ArbitrationServesTheEarliestEligible_turn :
    queued0.contextsFit ∧ entered0.contextsFit ∧ entered0.roundCandidate 1 = some (.one, ⟨0, 1, .carryOver⟩)
      ∧ (queued0.fdr 0).turn ≠ (queued0.fdr 0).config.share
      ∧ ((queued0.modFdr 0 (fun d => { d with turn := d.config.share, wait1 := [], wait2 := d.wait1 })).roundCandidate 0).map (·.1) = some .two :=
  ⟨(test_hypotheses_FeedersAreLost_sound queued0 (by simp [reached])).1,
    (test_hypotheses_FeedersAreLost_sound entered0 (by simp [reached])).1, by decide +kernel, by decide +kernel, by decide +kernel⟩
theorem test_the_turn_goes_up : ((queued0.arbitrate 0).fdr 0).turn = (queued0.fdr 0).turn + 1 := by decide +kernel
theorem test_the_turn_returns :
    (((queued0.modFdr 0 (fun d => { d with turn := d.config.share, wait1 := [], wait2 := d.wait1 })).arbitrate 0).fdr 0).turn = 0 := by
  decide +kernel
theorem test_a_crossing_is_reserved :
    (((crossing0.modFdr 1 (fun d => { d with wait1 := [⟨0, 1, .carryOver⟩] })).arbitrate 1).ctx 0).gap.feeder = some 1 := by
  decide +kernel

/-! ### Trucks -/

theorem test_hypotheses_TrucksAreLowered :
    ready drawing0 = true ∧ drawing0.slotOf 0 = none ∧ drawing0.slotOf 7 = some 0 ∧ (drawing0.ctx 0).state = .drawing
      ∧ ((dropping0 .fault).ctx 0).dropReason = some .fault ∧ ((dropping0 .gap).ctx 0).state = .dropping ∧ (crossing0.ctx 0).state = .crossing := by
  decide +kernel
theorem test_a_truck_is_lowered :
    leads (.truckOrderLower who 7) drawing0
      (fun t => (t.ctx 0).state == .dropping && (t.ctx 0).dropDeadline == some 3000 && (t.ctx 0).withdraw == some ⟨.order, false⟩) = true := by
  decide +kernel
theorem test_a_faulted_drop_stays_one :
    leads (.truckOrderLower who 7) (dropping0 .fault) (fun t => (t.ctx 0).dropReason == some .fault && answers 0x70 [] t) = true := by decide +kernel
theorem test_hypotheses_TrucksAreHeldClearedAndEvicted :
    ready queued0 = true ∧ queued0.slotOf 7 = some 0 ∧ (queued0.ctx 0).holdFlag = false ∧ queued0.swap = .none ∧ queued0.normalQueue.length < 32
      ∧ ((with0 { truck .tracked with holdFlag := true }).ctx 0).holdFlag = true ∧ (drawing0.ctx 0).state ≠ .tracked := by
  decide +kernel
theorem test_hypotheses_TrucksAreHeldClearedAndEvicted_evict :
    (with0 (truck .tracked)).contextFits 0 ∧ (with0 (truck .tracked)).swap = .none ∧ ready (with0 (truck .tracked)) = true := by
  unfold State.contextFits
  dsimp only
  repeat' apply And.intro
  all_goals decide +kernel
theorem test_a_waiting_truck_is_held :
    leads (.truckOrderHold who 7) queued0
      (fun t => (t.ctx 0).state == .tracked && (t.ctx 0).holdFlag && t.normalQueue == [⟨0x24, 7, 0, 3, [9]⟩]) = true := by
  decide +kernel
theorem test_a_truck_is_released : leads (.truckOrderUnhold who 7) (with0 { truck .tracked with holdFlag := true }) (fun t => !(t.ctx 0).holdFlag) = true := by
  decide +kernel
theorem test_a_fault_is_cleared :
    leads (.truckOrderClearFault who 7) (with0 { truck .faulted with strikes := 3 }) (fun t => (t.ctx 0).state == .tracked && (t.ctx 0).strikes == 0) = true := by
  decide +kernel
theorem test_a_drawing_truck_is_not_evicted : leads (.truckOrderEvict who 7) drawing0 (answers 0x71 [11, 0, 7]) = true := by decide +kernel
theorem test_a_tracked_truck_is_evicted : leads (.truckOrderEvict who 7) (with0 (truck .tracked)) (fun t => t.ctx 0 == Context.freed) = true := by
  decide +kernel

/-! ### Position reports -/

/-- A full table whose slot 5 can be given up. -/
def crowdedBut5 : State := crowded.setCtx 5 { truck .tracked with truck := some 9, pos := { (truck .tracked).pos with pantograph := .lowered }, silenceAge := 30 }

theorem test_hypotheses_ReportsAllocateAndFree :
    ramp.resetPin = false ∧ ramp.slotOf 7 = none ∧ ramp.resolve 320 = .offMap ∧ ramp.resolve 50 = .sect 0 ∧ ramp.swap = .none
      ∧ (ramp.freeSlot.or ramp.evictee) = some 0 ∧ crowdedBut5.slotOf 7 = none ∧ crowdedBut5.freeSlot = none ∧ crowdedBut5.evictee = some 5
      ∧ crowded.slotOf 7 = none ∧ crowded.freeSlot = none ∧ crowded.evictee = none ∧ (with0 (truck .tracked)).slotOf 7 = some 0
      ∧ ramp.normalQueue.length < 32 ∧ ramp.cQueue.length ≤ 28 ∧ ramp.globals.psaForward = 1 := by
  decide +kernel
theorem test_hypotheses_ReportsAllocateAndFree_wake :
    ramp.wSending = none ∧ (ramp.entry 1).low - 50 ≤ (ramp.entry 1).wake ∧ 50 < (ramp.entry 1).low ∧ (ramp.entry 1).fastRaise = true
      ∧ (ramp.gapEntry 0).lower = 0 ∧ (ramp.gapEntry 0).upper = 1 ∧ (ramp.meter 1).latest = none ∧ (ramp.fdr 1).state = .online
      ∧ 110 - 9 > (ramp.entry 1).wake ∧ 110 - 10 ≤ (ramp.entry 1).wake := by
  decide +kernel
theorem test_a_section_ahead_is_woken :
    leads (.psn 7 3 50 .up .raised true 0) ((with0 (truck .tracked)).modSec 1 (fun r => { r with state := .idle }))
        (fun t => (t.sec 1).state == .raising && (t.sec 2).state == .energised) = true
      ∧ leads (.psn 7 3 50 .up .raised true 0) ((with0 (truck .faulted)).modSec 1 (fun r => { r with state := .idle }))
        (fun t => (t.sec 1).state == .idle) = true := by
  decide +kernel
theorem test_hypotheses_ReportsAllocateAndFree_waiting :
    queued0.contextFits 0 ∧ queued1.contextFits 0 ∧ offered0.contextFits 0
      ∧ queued0.memberOf 0 = some ⟨0, .one, ⟨0, 0, .ordinary⟩, 1⟩ ∧ queued1.memberOf 0 = some ⟨1, .one, ⟨0, 1, .ordinary⟩, 1⟩
      ∧ ramp.resolve 105 = .gap 0 ∧ ramp.resolve 115 = .sect 1 ∧ ramp.resolve 250 = .sect 2 ∧ ramp.feederOf 1 = some 1 ∧ ramp.feederOf 2 = some 1
      ∧ (ramp.sec 1).state ≠ .isolated ∧ (offered0.ctx 0).hold = some ⟨400, 0, 0⟩ := by
  unfold State.contextFits
  dsimp only
  repeat' apply And.intro
  all_goals decide +kernel
theorem test_an_entry_moves_with_its_truck :
    leads (.psn 7 3 115 .stopped .raised true 0) ((section0 .idle queued0).modSec 1 (fun r => { r with state := .idle }))
      (fun t => (t.ctx 0).state == .queued && t.memberOf 0 == some ⟨1, .one, ⟨0, 1, .ordinary⟩, 1⟩
        && t.normalQueue == [⟨0x21, 7, 0, 3, [1, 1, 1]⟩]) = true := by
  decide +kernel
theorem test_a_new_truck_is_tracked :
    leads (.psn 7 3 50 .up .raised true 0) ramp (fun t => (t.ctx 0).state == .tracked && (t.ctx 0).truck == some 7 && (t.ctx 0).silenceTimer == some 10000) = true := by
  decide +kernel
theorem test_a_full_table_refuses :
    leads (.psn 7 3 50 .up .raised true 0) crowded (fun t => t.normalQueue == [⟨0x24, 7, 0, 3, [1]⟩] && t.latches.getLsbD 3) = true := by decide +kernel
theorem test_hypotheses_ReportsMoveGrants :
    drawing0.resetPin = false ∧ drawing0.slotOf 7 = some 0 ∧ drawing0.swap = .none ∧ (drawing0.ctx 0).hold = some ⟨400, 0, 0⟩
      ∧ (500 : Nat) ≤ 400 + drawing0.globals.overdrawMargin
      ∧ drawing0.resolve 79 = .sect 0 ∧ drawing0.approachOf .up (.sect 0) 79 = none ∧ drawing0.approachOf .up (.sect 0) 80 = some 0
      ∧ drawing0.resolve 320 = .offMap ∧ drawing0.resolve 115 = .sect 1 ∧ drawing0.feederOf 1 ≠ some 0
      ∧ drawing0.feederOf 1 = some 1 ∧ drawing0.feederOf 2 = some 1 ∧ (drawing0.sec 1).state = .energised ∧ 100 ≤ (drawing0.entry 1).limit
      ∧ drawing0.wSending = none ∧ 400 + drawing0.globals.overdrawMargin < 501 ∧ (drawing0.ctx 0).overdraw < 2
      ∧ ((dropping0 .gap).ctx 0).gap.target = some 1 ∧ ((dropping0 .gap).ctx 0).gap.arcReported = false
      ∧ drawing0.globals.strikeThreshold = 3 ∧ drawing0.globals.exclusion = 1 ∧ ((dropping0 .shed).ctx 0).holdFlag = false
      ∧ drawing0.resolve 105 = .gap 0 ∧ (drawing0.gapEntry 0).bridgeable = false ∧ drawing0.resolve 215 = .gap 1
      ∧ (drawing0.gapEntry 1).bridgeable = true ∧ drawing0.globals.zeroThreshold = 20 ∧ ((dropping0 .order).ctx 0).dropReason = some .order := by
  decide +kernel
theorem test_hypotheses_ReportsMoveGrants_crossing :
    crossing0.contextFits 0 ∧ reserved0.contextFits 0 ∧ entered0.contextFits 0 ∧ (dropping0 .shed).contextFits 0
      ∧ (crossing0.ctx 0).gap.gapId = some 0 ∧ (crossing0.ctx 0).gap.target = some 1 ∧ (crossing0.gapEntry 0).upper = 1
      ∧ (crossing0.gapEntry 0).lower = 0 ∧ (crossing0.gapEntry 0).low - (crossing0.gapEntry 0).approach = 80 ∧ crossing0.resolve 80 = .sect 0
      ∧ crossing0.resolve 79 = .sect 0 ∧ crossing0.resolve 105 = .gap 0 ∧ crossing0.resolve 115 = .sect 1 ∧ crossing0.resolve 250 = .sect 2
      ∧ (crossing0.ctx 0).gap.feeder = none ∧ (reserved0.ctx 0).gap.feeder = some 1 ∧ crossing0.memberOf 0 = none
      ∧ entered0.memberOf 0 = some ⟨1, .one, ⟨0, 1, .carryOver⟩, 1⟩ ∧ (reserved0.sec 1).state = .energised ∧ crossing0.feederOf 0 = some 0
      ∧ (crossing0.fdr 0).wait1 = [] ∧ (crossing0.fdr 0).wait2 = [] ∧ (crossing0.ctx 0).holdFlag = false := by
  unfold State.contextFits
  dsimp only
  repeat' apply And.intro
  all_goals decide +kernel
theorem test_a_crossing_is_granted :
    leads (.psn 7 3 115 .up .raised true 0) reserved0
      (fun t => (t.ctx 0).state == .drawing && (t.ctx 0).hold == some ⟨400, 1, 1⟩ && (t.ctx 0).grantExpiry == some 20000) = true := by
  decide +kernel
theorem test_a_crossing_reverses :
    leads (.psn 7 3 79 .down .raised true 0) entered0
      (fun t => (t.ctx 0).state == .drawing && (t.ctx 0).hold == some ⟨400, 0, 0⟩ && (t.fdr 1).wait1 == []) = true := by
  decide +kernel
theorem test_current_in_a_gap_is_an_arc_risk :
    leads (.psn 7 3 105 .up .raised true 21) crossing0
        (fun t => (t.ctx 0).state == .crossing && (t.ctx 0).strikes == 1 && t.latches.getLsbD 5) = true
      ∧ leads (.psn 7 3 105 .up .raised true 21) (crossing0.modCtx 0 (fun c => { c with strikes := 2 }))
        (fun t => (t.ctx 0).state == .faulted && (t.ctx 0).withdraw == some ⟨.fault, true⟩) = true := by
  decide +kernel
theorem test_a_third_overdraw_strikes :
    leads (.psn 7 3 50 .up .raised true 501) (drawing0.modCtx 0 (fun c => { c with overdraw := 2 }))
      (fun t => (t.ctx 0).strikes == 1 && (t.ctx 0).overdraw == 0 && t.latches.getLsbD 21 && (t.ctx 0).state == .drawing) = true := by
  decide +kernel
theorem test_a_gap_is_approached :
    leads (.psn 7 3 80 .up .raised true 300) drawing0
      (fun t => (t.ctx 0).dropReason == some .gap && (t.ctx 0).gap.target == some 1 && (t.ctx 0).gap.feeder == some 1) = true := by
  decide +kernel
theorem test_zero_current_ends_a_drop :
    leads (.psn 7 3 50 .up .raised true 20) (dropping0 .order) (fun t => (t.ctx 0).state == .tracked && (t.fdr 0).committed == 0) = true := by
  decide +kernel

/-! ### Draw requests -/

theorem test_hypotheses_DrawRequestsAreChecked :
    ramp.wSending = none ∧ ramp.resetPin = false ∧ ramp.slotOf 7 = none ∧ (with0 (truck .tracked)).slotOf 7 = some 0 ∧ State.reset.admission ≠ .running
      ∧ ramp.admission = .running ∧ (queued0.ctx 0).req.tag = some 3 ∧ (drawing0.ctx 0).req.tag ≠ some 4 ∧ (drawing0.ctx 0).hold ≠ none
      ∧ (ramp.resolveClass 7).cap = 800 ∧ ramp.feederOf 0 = some 0 ∧ ramp.feederOf 63 = none := by
  decide +kernel
theorem test_an_unknown_truck_is_refused :
    leads (.drq 7 4 500 100 0) ramp (fun t => t.normalQueue == [⟨0x24, 7, 0, 4, [2]⟩] && t.ctx 0 == Context.freed) = true := by decide +kernel
theorem test_hypotheses_DrawRequestsAreGrantedOrDeferred :
    (with0 (truck .tracked)).wSending = none ∧ (with0 (truck .tracked)).slotOf 7 = some 0 ∧ ((with0 (truck .tracked)).ctx 0).holdFlag = false
      ∧ ((with0 (truck .tracked)).ctx 0).pos.resolution = .sect 0 ∧ ((with0 (truck .tracked)).ctx 0).pos.approach = none
      ∧ ((with0 (truck .tracked)).sec 0).state = .energised ∧ ((with0 (truck .tracked)).fdr 0).wait1 = []
      ∧ ((with0 (truck .tracked)).fdr 0).wait2 = [] ∧ ((with0 (truck .tracked)).ctx 0).hold = none
      ∧ ((with0 (truck .tracked)).fdr 0).state = .online ∧ ((section0 .idle (with0 (truck .tracked))).sec 0).state ≠ .energised := by
  decide +kernel
theorem test_a_request_is_granted :
    leads (.drq 7 4 500 100 0) (with0 (truck .tracked))
      (fun t => (t.ctx 0).hold == some ⟨500, 0, 0⟩ && t.normalQueue == [⟨0x20, 7, 0, 4, [1, 244, 0, 60]⟩] && (t.fdr 0).grantOrder == [0]) = true := by
  decide +kernel
theorem test_hypotheses_RenewalsAreSettled :
    drawing0.wSending = none ∧ drawing0.slotOf 7 = some 0 ∧ drawing0.admission = .running ∧ drawing0.swap = .none ∧ (drawing0.ctx 0).req.tag ≠ some 4
      ∧ (drawing0.ctx 0).holdFlag = false ∧ (drawing0.ctx 0).hold = some ⟨400, 0, 0⟩ ∧ (queued0.memberOf 0).isSome = true
      ∧ (queued0.ctx 0).state = .queued ∧ (offered0.ctx 0).state = .offered ∧ (offered0.ctx 0).hold = some ⟨400, 0, 0⟩ := by
  decide +kernel
theorem test_a_grant_is_renewed :
    leads (.drq 7 4 700 100 20) drawing0
      (fun t => (t.ctx 0).hold == some ⟨700, 0, 0⟩ && (t.ctx 0).grantExpiry == some 20000 && (t.fdr 0).committed == 700) = true := by
  decide +kernel
theorem test_hypotheses_OffersAreAcceptedAndGrantsReleased :
    offered0.resetPin = false ∧ offered0.slotOf 7 = some 0 ∧ (offered0.ctx 0).req.tag = some 3 ∧ offered0.admission = .running
      ∧ (offered0.ctx 0).hold = some ⟨400, 0, 0⟩ ∧ (drawing0.ctx 0).hold ≠ none ∧ ((dropping0 .gap).ctx 0).dropReason ≠ some .shed
      ∧ ramp.slotOf 7 = none ∧ offered0.wSending = none := by
  decide +kernel
theorem test_hypotheses_OffersAreAcceptedAndGrantsReleased_shed :
    (dropping0 .shed).contextFits 0 ∧ ((dropping0 .shed).ctx 0).pos.resolution = .sect 0 ∧ (dropping0 .shed).feederOf 0 = some 0
      ∧ ((dropping0 .shed).ctx 0).req.tag = some 3 ∧ ((dropping0 .shed).ctx 0).holdFlag = false ∧ (dropping0 .shed).swap = .none := by
  unfold State.contextFits
  dsimp only
  repeat' apply And.intro
  all_goals decide +kernel
theorem test_a_shed_drop_waits_again :
    leads (.rel 7 3) (section0 .idle (dropping0 .shed))
      (fun t => (t.ctx 0).state == .queued && t.memberOf 0 == some ⟨0, .one, ⟨0, 0, .ordinary⟩, 1⟩ && (t.fdr 0).committed == 0) = true := by
  decide +kernel
theorem test_an_offer_is_accepted :
    leads (.acc 7 3) offered0 (fun t => (t.ctx 0).state == .drawing && (t.fdr 0).grantOrder == [0] && t.normalQueue == [⟨0x20, 7, 0, 3, [1, 144, 0, 30]⟩]) = true := by
  decide +kernel
theorem test_a_grant_is_released :
    leads (.rel 7 3) drawing0 (fun t => (t.ctx 0).state == .tracked && (t.fdr 0).committed == 0 && t.load 0 == 0 && t.normalQueue == []) = true := by
  decide +kernel
theorem test_hypotheses_TruckDataIsPassed :
    ramp.resetPin = false ∧ ramp.wSending = none ∧ ready drawing0 = true ∧ (List.replicate 240 (0 : Byte)).length ≤ 240 ∧ (List.replicate 239 (0 : Byte)).length ≤ 239
      ∧ drawing0.slotOf 7 = some 0 ∧ drawing0.slotOf 8 = none ∧ drawing0.globals.datForward = 1
      ∧ ({ drawing0.globals with datForward := 0 } : Globals).datForward ≠ 1 := by
  decide +kernel
theorem test_data_is_copied : leads (.dat 7 3 [1, 2]) ramp (fun t => t.cQueue == [⟨0x82, 0, 224, 3, [7, 1, 2]⟩]) = true := by decide +kernel
theorem test_data_is_passed_down :
    leads (.passData who 7 [1, 2]) drawing0 (fun t => t.normalQueue == [⟨0x14, 7, 0, 3, [1, 2]⟩] && answers 0x70 [] t) = true := by decide +kernel

/-! ### Samples -/

/-- The ring with entries at its two newest places, its feeder drawing. -/
def stepping : State :=
  { (drawing0.modRing 0 (fun _ => recording.ring 0)) with samples := [(29, ⟨10, 750, 1⟩), (30, ⟨10, 750, 2⟩)] }

theorem test_hypotheses_SamplesAreTaken :
    stepping.resetPin = false ∧ 15 < (16 : Byte).toNat ∧ (15 : FeederId).val = (15 : Byte).toNat ∧ (stepping.meter 0).latest.isSome = true
      ∧ (stepping.meter 15).latest = none ∧ (stepping.ring 0).state = .recording ∧ (stepping.ring 0).desc.distance < (stepping.ring 0).fill
      ∧ (stepping.ringEntry 0 1).current + (stepping.ring 0).desc.threshold < 511 ∧ ¬(stepping.ringEntry 0 1).current + (stepping.ring 0).desc.threshold < 510
      ∧ (stepping.ring 0).desc.freeze = true ∧ (stepping.fdr 0).state = .online ∧ (stepping.fdr 15).state = .offline
      ∧ (stepping.ring 0).desc.postTrip = 2 ∧ drawing0.holdsOn 0 0 = true
      ∧ ((stepping.modRing 0 (fun r => { r with state := .postTrip, countdown := some 1 })).ring 0).countdown = some 1 := by
  decide +kernel
theorem test_a_step_freezes_the_ring :
    leads (.smp 0 2 511 750 .closed) stepping
      (fun t => (t.ring 0).state == .frozen && t.latches.getLsbD 14 && (t.ring 0).fill == 3 && (t.ring 0).writePos == 0
        && t.samples == [(29, ⟨10, 750, 1⟩), (30, ⟨10, 750, 2⟩), (31, ⟨511, 750, 2⟩)]) = true := by
  decide +kernel
theorem test_a_trip_takes_the_feeder :
    leads (.smp 0 5 10 0 .tripped) stepping
      (fun t => (t.fdr 0).state == .tripped && (t.ctx 0).withdraw == some ⟨.trip, true⟩ && (t.ring 0).state == .postTrip && t.counters.missed[0] == 3) = true := by
  decide +kernel

/-! ### Timers -/

theorem test_hypotheses_GrantAndOfferTimersRunOut :
    drawing0.resetPin = false ∧ (drawing0.ctx 0).grantExpiry ≠ none ∧ (drawing0.ctx 0).state = .drawing ∧ (offered0.ctx 0).offerWindow ≠ none
      ∧ (offered0.ctx 0).offerRepeat ≠ none ∧ (offered0.ctx 0).repeatCount < offered0.globals.repeatLimit ∧ offered0.globals.repeatLimit = 3
      ∧ (crossing0.ctx 0).gap.carried ≠ none ∧ (drawing0.ctx 0).offerWindow = none ∧ (drawing0.ctx 0).offerRepeat = none
      ∧ (drawing0.ctx 0).gap.carried = none ∧ (offered0.ctx 0).grantExpiry = none ∧ (offered0.ctx 0).offerWindow ≠ some 0
      ∧ ((offered0.modCtx 0 (fun c => { c with offerWindow := some 0 })).ctx 0).offerWindow = some 0 := by
  decide +kernel
theorem test_an_offer_past_its_window_lapses :
    leads (.offerRepeatExpiry 0) (offered0.modCtx 0 (fun c => { c with offerWindow := some 0 }))
      (fun t => (t.ctx 0).state == .tracked && t.normalQueue == [] && t.counters.lapsed == 1) = true := by
  decide +kernel
theorem test_a_grant_expires :
    leads (.grantExpiry 0) drawing0 (fun t => (t.ctx 0).dropReason == some .expired && (t.ctx 0).hold == some ⟨400, 0, 0⟩) = true := by decide +kernel
theorem test_an_offer_lapses :
    leads (.offerWindowExpiry 0) offered0 (fun t => (t.ctx 0).state == .tracked && t.counters.lapsed == 1 && t.cQueue == [⟨0x80, 0, 224, 2, [9, 7, 1, 144]⟩]) = true := by
  decide +kernel
theorem test_an_offer_is_repeated :
    leads (.offerRepeatExpiry 0) offered0 (fun t => (t.ctx 0).repeatCount == 1 && t.normalQueue.length == 1) = true := by decide +kernel
theorem test_an_offer_is_repeated_no_more :
    leads (.offerRepeatExpiry 0) (offered0.modCtx 0 (fun c => { c with repeatCount := 3 })) (fun t => (t.ctx 0).offerRepeat == none && t.normalQueue == []) = true := by
  decide +kernel
theorem test_a_carried_hold_ends :
    leads (.carriedHoldExpiry 0) crossing0 (fun t => (t.ctx 0).gap.carried == none && (t.ctx 0).state == .crossing) = true := by decide +kernel
theorem test_hypotheses_DropCrossingAndSilenceTimersRunOut :
    ramp.resetPin = false ∧ ((dropping0 .gap).ctx 0).dropDeadline ≠ none ∧ (drawing0.ctx 0).dropDeadline = none
      ∧ ((dropping0 .gap).ctx 0).strikes < ramp.globals.strikeThreshold ∧ ramp.globals.strikeThreshold = 3 ∧ ramp.globals.exclusion = 1
      ∧ (crossing0.ctx 0).gap.crossing ≠ none ∧ (drawing0.ctx 0).gap.crossing = none ∧ (drawing0.ctx 0).silenceTimer ≠ none
      ∧ (ramp.ctx 0).silenceTimer = none ∧ (drawing0.ctx 0).silenceCount = 0 ∧ drawing0.swap = .none := by
  decide +kernel
theorem test_a_late_drop_strikes :
    leads (.dropDeadlineExpiry 0) ((dropping0 .order).modCtx 0 (fun c => { c with strikes := 1 }))
      (fun t => (t.ctx 0).state == .tracked && (t.ctx 0).strikes == 2 && t.latches.getLsbD 6) = true := by
  decide +kernel
theorem test_a_third_strike_excludes :
    leads (.dropDeadlineExpiry 0) ((dropping0 .order).modCtx 0 (fun c => { c with strikes := 2 })) (fun t => (t.ctx 0).state == .faulted && (t.fdr 0).committed == 0) = true := by
  decide +kernel
theorem test_a_late_gap_drop_excludes_without_a_withdrawal :
    leads (.dropDeadlineExpiry 0) ((dropping0 .gap).modCtx 0 (fun c => { c with strikes := 2 }))
      (fun t => (t.ctx 0).state == .faulted && (t.ctx 0).withdraw == none && (t.ctx 0).gap == GapFields.clear) = true := by
  decide +kernel
theorem test_a_crossing_stalls :
    leads (.crossingTimerExpiry 0) crossing0 (fun t => (t.ctx 0).state == .tracked && t.cQueue == [⟨0x80, 0, 224, 2, [8, 7, 0, 0]⟩]) = true := by decide +kernel
theorem test_a_silent_truck_loses_its_grant :
    leads (.silenceExpiry 0) drawing0 (fun t => (t.ctx 0).state == .tracked && (t.ctx 0).withdraw == some ⟨.silent, true⟩ && (t.ctx 0).strikes == 1) = true := by
  decide +kernel
theorem test_a_twice_silent_truck_is_freed :
    leads (.silenceExpiry 0) (with0 { truck .tracked with silenceCount := 1 }) (fun t => t.ctx 0 == Context.freed) = true := by decide +kernel

/-! ### The transmitters -/

/-- A withdrawal, a section command and a frame of the normal queue wait. -/
def waiting : State :=
  { ((drawing0.modCtx 0 (fun c => { c with withdraw := some ⟨.stop, true⟩ })).modSec 63 (fun r => { r with command := some .opening })) with
    normalQueue := [⟨0x14, 7, 0, 0, []⟩], cRatePending := [(0, 4)], cQueue := [⟨0x70, 5, 224, 9, []⟩] }

theorem test_hypotheses_FramesAreSentInOrder :
    waiting.resetPin = false ∧ waiting.asmW.phase = .hunt ∧ waiting.asmC.phase = .hunt ∧ waiting.broadcast = false ∧ State.reset.broadcast = true
      ∧ (waiting.ctx 0).withdraw = some ⟨.stop, true⟩ ∧ (∀ i, (ramp.ctx i).withdraw = none) ∧ (waiting.sec 63).command = some .opening
      ∧ (∀ x, (ramp.sec x).command = none) ∧ (∀ y, y < 63 → (waiting.sec y).command = none) ∧ waiting.normalQueue = [⟨0x14, 7, 0, 0, []⟩]
      ∧ waiting.cQueue = [⟨0x70, 5, 224, 9, []⟩] ∧ waiting.cRatePending = [(0, 4)] ∧ ramp.cRatePending = []
      ∧ ({ waiting with asmW := ⟨.header, [], 0⟩ } : State).asmW.phase ≠ .hunt ∧ waiting.wSending = none ∧ waiting.cSending = none := by
  decide +kernel
theorem test_a_frame_being_sent_goes_on :
    leads .wdrTransmit { waiting with wSending := some ⟨⟨0x14, 7, 0, 0, []⟩, 1⟩ }
        (fun t => t.wSending == some ⟨⟨0x14, 7, 0, 0, []⟩, 1⟩ && (t.ctx 0).withdraw == some ⟨.stop, true⟩) = true
      ∧ leads .cLinkTransmit { waiting with cSending := some ⟨⟨0x70, 5, 224, 9, []⟩, 1⟩ } (fun t => t.cQueue == waiting.cQueue) = true := by
  decide +kernel
theorem test_the_broadcast_goes_first :
    leads .broadcastWithdrawal State.reset (fun t => !t.broadcast && (t.wSending.map (·.frame)) == some ⟨0x23, 255, 0, 0, [14, 0]⟩) = true := by decide +kernel
theorem test_a_withdrawal_is_sent :
    leads .wdrTransmit waiting (fun t => (t.ctx 0).withdraw == none && (t.wSending.map (·.frame)) == some ⟨0x23, 7, 0, 3, [8, 0]⟩) = true := by decide +kernel
theorem test_a_section_command_waits_for_withdrawals : leads .scmTransmit waiting (fun t => t == waiting) = true := by decide +kernel
theorem test_a_section_command_is_sent :
    leads .scmTransmit (waiting.modCtx 0 (fun c => { c with withdraw := none }))
      (fun t => (t.sec 63).command == none && (t.wSending.map (·.frame)) == some ⟨0x30, 191, 0, 0, [63, 0]⟩) = true := by
  decide +kernel
theorem test_a_queued_frame_is_sent :
    leads .normalQueueTransmit { ramp with normalQueue := [⟨0x14, 7, 0, 0, []⟩] } (fun t => t.normalQueue == [] && t.wSending.isSome) = true := by decide +kernel
theorem test_a_reply_is_sent : leads .cLinkTransmit waiting (fun t => t.cQueue == [] && (t.cSending.map (·.frame)) == some ⟨0x70, 5, 224, 9, []⟩) = true := by
  decide +kernel
theorem test_a_wayside_rate_changes :
    leads .wLinkRateChange { ramp with globals := { ramp.globals with wRate := 4 } } (fun t => t.wRate == 4) = true := by decide +kernel
theorem test_a_control_rate_changes : leads .cLinkRateChange waiting (fun t => t.cRate == 4 && t.cRatePending == []) = true := by decide +kernel

/-! ### Resets, stops and steps -/

theorem test_a_hard_reset_brings_the_reset_state :
    next (.hardReset 0) { ramp with resetPin := true } = some State.reset := by decide +kernel
theorem test_hypotheses_HardResetSetsEveryBlock :
    ramp.stopLine = false ∧ ramp.samples = [] ∧ ramp.fresh = 0 ∧ ramp.pending = [] ∧ ({ ramp with stopLine := true } : State).stopLine = true := by
  decide +kernel
theorem test_a_reset_goes_on_to_a_stop :
    leads (.hardReset 7) { ramp with stopLine := true } (fun t => t.admission == .stopped && t.cAddress == 231 && t.alert && (t.sec 63).command == some .opening) = true := by
  decide +kernel
theorem test_hypotheses_ResetPinHoldsThePart :
    ({ ramp with resetPin := true } : State).resetPin = true ∧ (∀ straps, Instr.statusRead who ≠ .hardReset straps)
      ∧ Instr.statusRead who ≠ .rampStopLineAssert ∧ Instr.statusRead who ≠ .rampStopLineRelease ∧ Instr.statusRead who ≠ .resetPinAssertion := by
  decide +kernel
theorem test_the_pin_releases_alert : leads .resetPinAssertion { ramp with alert := true } (fun t => t.resetPin && !t.alert) = true := by decide +kernel
theorem test_hypotheses_RestartReturnsAdmissionToItsStart :
    ready drawing0 = true ∧ drawing0.stopLine = false ∧ ready { drawing0 with stopLine := true } = true := by decide +kernel
theorem test_a_restart_goes_on_to_a_stop :
    leads (.restart who) { drawing0 with stopLine := true } (fun t => t.admission == .stopped && t.latches == 0x80001 && (t.sec 0).command == some .opening) = true := by
  decide +kernel
theorem test_a_restart_answers_first :
    leads (.restart who) drawing0
      (fun t => t.cQueue == [⟨0x70, 5, 224, 9, []⟩, ⟨0x80, 0, 224, 1, [1, 1, 0, 224]⟩] && t.admission == .halted && (t.ctx 0) == Context.freed
        && t.broadcast && t.bankA == map) = true := by
  decide +kernel
theorem test_hypotheses_RampStopTakesEveryHolding :
    drawing0.resetPin = false ∧ drawing0.stopLine = false ∧ ready drawing0 = true ∧ (drawing0.ctx 0).toldOfStop = true
      ∧ ((dropping0 .fault).ctx 0).toldOfStop = true ∧ (queued0.ctx 0).toldOfStop = true ∧ ((with0 (truck .tracked)).ctx 0).toldOfStop = false
      ∧ drawing0.swap = .none ∧ ({ ramp with stopLine := true } : State).stopLine = true ∧ ({ ramp with resetPin := true } : State).resetPin = true := by
  decide +kernel
theorem test_the_line_stops_the_ramp :
    leads .rampStopLineAssert drawing0
      (fun t => t.admission == .stopped && (t.ctx 0).withdraw == some ⟨.stop, true⟩ && (t.fdr 0).committed == 0 && (t.sec 0).command == some .opening) = true := by
  decide +kernel
theorem test_a_request_stops_the_ramp : leads (.rampStop who) (dropping0 .fault) (fun t => (t.ctx 0).state == .faulted && answers 0x70 [] t) = true := by
  decide +kernel
theorem test_the_line_returns : leads .rampStopLineRelease { drawing0 with stopLine := true } (fun t => t == drawing0) = true := by decide +kernel
theorem test_hypotheses_RampResumeOpensAdmission :
    ready State.reset = true ∧ State.reset.stopLine = false ∧ State.reset.admission ≠ .running ∧ ramp.admission = .running := by
  decide +kernel
theorem test_a_resume_opens_the_sections :
    leads (.rampResume who) (State.reset.modSec 63 (fun r => { r with lockout := true }))
      (fun t => (t.sec 0).state == .standby && (t.sec 63).state == .isolated && t.cQueue[1]? == some ⟨0x80, 0, 224, 2, [21, 0, 0, 63]⟩) = true := by
  decide +kernel
theorem test_hypotheses_EmptyQueueIdles :
    ramp.pending = [] ∧ ({ ramp with resetPin := true } : State).resetPin = true ∧ ramp.resetPin = false ∧ ramp.ownStep = none
      ∧ State.reset.ownStep = some .broadcastWithdrawal := by
  decide +kernel

/-- A state that is not the reset state and has every invariant, with a command at the front of its queue. -/
def underWay : State := { stepping with pending := [.rel 7 3] }

theorem test_hypotheses_StepKeepsTheSampleMemory : underWay.memoryCanonical ∧ underWay.ringsSound ∧ step underWay = exec (.rel 7 3) stepping := by
  refine ⟨⟨by decide +kernel, by decide +kernel⟩, ?_, rfl⟩
  unfold State.ringsSound Ring.sound
  decide +kernel
theorem test_hypotheses_StepKeepsTheQueuesBounded : underWay.queuesBounded := by
  unfold State.queuesBounded
  decide +kernel
theorem test_hypotheses_StepKeepsTheBudgets : underWay.budgetsAgree := by
  unfold State.budgetsAgree
  decide +kernel
theorem test_hypotheses_StepKeepsTheBudgets_contexts : underWay.contextsFit ∧ underWay.listsFit := by
  unfold State.contextsFit State.contextFits State.listsFit
  dsimp only
  refine ⟨⟨?_, by decide +kernel⟩, fun f => ⟨by revert f; decide +kernel, by revert f; decide +kernel, fun l => ?_⟩⟩
  · intro i
    refine ⟨?_, ?_, ?_, ?_, ?_, ?_⟩ <;> revert i <;> decide +kernel
  · refine ⟨?_, ?_⟩ <;> cases l <;> revert f <;> decide +kernel
theorem test_hypotheses_StepKeepsSectionsIsolated :
    State.sectionsAgree { State.reset with pending := [.rampResume who] } := by
  unfold State.sectionsAgree
  decide +kernel
theorem test_hypotheses_StepKeepsSectionsIsolated_swap :
    State.swapSettled { drawing0 with swap := .pending, bankB := Bank.reset, pending := [.rel 7 3] } := by
  refine Or.inr ⟨0, ?_⟩
  decide +kernel
theorem test_hypotheses_NoStepOvercommitsAFeeder : ((next (.drq 7 4 700 100 20) drawing0).map (fun t => (t.fdr 0).committed)) = some 700 := by
  decide +kernel
theorem test_hypotheses_TablesAndSamplesStand :
    (next (.rel 7 3) drawing0).isSome = true ∧ (∀ straps, Instr.rel 7 3 ≠ .hardReset straps) ∧ Instr.rel 7 3 ≠ .marker .m := by
  decide +kernel

end Sys2Proof.Tests
end

section
/-! PROOFS. TABLE_WRITE of the FEEDER table: the checks of R69, and what a write that passes leaves. -/

namespace Sys2Proof
open Sys2Proof.Machine

/-- A field of the written FEEDER entry is outside its range (R69). -/
def FeederWire.outOfRange (e : FeederWire) : Prop :=
  e.share = 0 ∨ 8 < e.share.toNat ∨ e.overload = 0 ∨ 50 < e.overload.toNat ∨ e.meterLost = 0 ∨ 10 < e.meterLost.toNat

/-- The configuration that the bytes of a FEEDER entry stand for. -/
def FeederWire.config (e : FeederWire) : FeederConfig :=
  { capacity := e.capacity.toNat, reserve := e.reserve.toNat, share := e.share.toNat
    overloadCode := e.overload.toNat, meterLostTime := e.meterLost.toNat, fastVolts := e.fastVolts.toNat }

end Sys2Proof

namespace Sys2Proof.Machine
open Sys2Proof

/-! ### The bytes of a written configuration -/

/-- An index byte above 15 names no feeder. -/
theorem feederOfByte_none {b : Byte} (h : 15 < b.toNat) : feederOfByte b = none :=
  dif_neg (by omega)

/-- The byte of a feeder's number names that feeder. -/
theorem feederOfByte_val {b : Byte} {f : FeederId} (h : f.val = b.toNat) : feederOfByte b = some f := by
  unfold feederOfByte
  rw [dif_pos (h ▸ f.isLt)]
  exact congrArg some (Fin.ext h.symm)

theorem byte_eq_zero_iff (b : Byte) : b = 0 ↔ b.toNat = 0 := by
  rw [← BitVec.toNat_inj]
  rfl

theorem feederConfigOf_bad {e : FeederWire} (h : e.outOfRange) : feederConfigOf e = none := by
  simp only [FeederWire.outOfRange, byte_eq_zero_iff] at h
  exact if_neg (by omega)

theorem feederConfigOf_good {e : FeederWire} (h : ¬e.outOfRange) : feederConfigOf e = some e.config := by
  simp only [FeederWire.outOfRange, byte_eq_zero_iff] at h
  exact if_pos (by omega)

/-! ### The write on the state that took the request -/

/-- Taking a request leaves every feeder record. -/
@[simp] theorem State.taken_fdr (s : State) (f : FeederId) : s.taken.fdr f = s.fdr f := by
  unfold State.taken State.endRunt
  split
  · rfl
  · split <;> rfl

/-- Arbitration leaves the C-link queue. -/
@[simp] theorem State.arbitrate_cQueue (s : State) (f : FeederId) : (s.arbitrate f).cQueue = s.cQueue := by
  rw [(Served.arbitrate s f).rest]

/-- BUDGET_OVER leaves an entry of the C-link queue free where one was. -/
theorem State.reportOver_room {s : State} (h : s.cQueue.length < 32) (f : FeederId) : (s.reportOver f).cQueue.length < 32 := by
  unfold State.reportOver
  split
  · exact State.report_room h _ _ _
  · exact h

/-- The effects of a new configuration leave an entry of the C-link queue free where one was. -/
theorem State.applyFeeder_room {s : State} (h : s.cQueue.length < 32) (f : FeederId) (k : FeederConfig) :
    (s.applyFeeder f k).cQueue.length < 32 := by
  have hr : ((s.modFdr f (fun d => d.reconfigured k)).reportOver f).cQueue.length < 32 :=
    State.reportOver_room (s := s.modFdr f _) h f
  unfold State.applyFeeder
  dsimp only
  split
  · rw [State.arbitrate_cQueue]; exact hr
  · exact hr

/-- Every outcome of a TABLE_WRITE of the FEEDER table runs on the state that took the request. -/
theorem exec_tableWriteFeeder {c : Caller} {bank index : Byte} {e : FeederWire} {s : State}
    (h : s.takes (.tableWriteFeeder c bank index e)) :
    exec (.tableWriteFeeder c bank index e) s = .next (s.taken.writeFeeder c index e) :=
  takeRequest_taken h _

/-- A write that passes its checks has its effects and is answered with ACK (R69). -/
theorem State.writeFeeder_passes {s : State} (hq : s.cQueue.length < 32) (c : Caller) {index : Byte} {e : FeederWire}
    {f : FeederId} (hf : f.val = index.toNat) (he : ¬e.outOfRange) :
    s.writeFeeder c index e = (s.applyFeeder f e.config).withAck c := by
  simp only [State.writeFeeder, feederOfByte_val hf, feederConfigOf_good he]
  exact State.ack_room (State.applyFeeder_room hq f _) c

/-- The report of a reconfigured feeder compares its committed current with the new limit (R69). -/
theorem State.reportOver_reconfigured (s : State) (f : FeederId) (k : FeederConfig) :
    (s.modFdr f (fun d => d.reconfigured k)).reportOver f =
      if k.limit < (s.fdr f).committed then
        (s.modFdr f (fun d => d.reconfigured k)).report .budgetOver f.val ((s.fdr f).committed - k.limit)
      else s.modFdr f (fun d => d.reconfigured k) := by
  unfold State.reportOver
  rw [State.modFdr_fdr_self]
  rfl

/-- A configuration that does not raise the limit runs no arbitration (R69). -/
theorem State.applyFeeder_of_le {s : State} {f : FeederId} {k : FeederConfig} (h : k.limit ≤ (s.fdr f).config.limit) :
    s.applyFeeder f k = (s.modFdr f (fun d => d.reconfigured k)).reportOver f :=
  if_neg (Nat.not_lt.2 h)

/-- A configuration that raises the limit runs arbitration (R69). -/
theorem State.applyFeeder_of_lt {s : State} {f : FeederId} {k : FeederConfig} (h : (s.fdr f).config.limit < k.limit) :
    s.applyFeeder f k = ((s.modFdr f (fun d => d.reconfigured k)).reportOver f).arbitrate f :=
  if_pos h

end Sys2Proof.Machine

open Sys2Proof Sys2Proof.Machine

/-- Settles O27: each outcome is the one that `writeFeeder` gives on the state that took the request, whose reply finds its
entry of the C-link queue free. -/
theorem feederWritesReplaceTheConfiguration : Obligations.FeederWritesReplaceTheConfiguration := by
  intro c bank index e s ht
  have hq := State.taken_room ht
  simp only [exec_tableWriteFeeder ht]
  refine ⟨fun hi => ?_, fun f hf => ⟨fun hbad => ?_, fun hgood hle => ?_, fun hgood hlt => ?_⟩⟩
  · simp only [State.writeFeeder, feederOfByte_none hi, State.nak_room hq]
    rfl
  · simp only [State.writeFeeder, feederOfByte_val hf, feederConfigOf_bad hbad, State.nak_room hq]
    rfl
  · rw [State.writeFeeder_passes hq c hf hgood, State.applyFeeder_of_le (by rw [State.taken_fdr]; exact hle),
      State.reportOver_reconfigured, State.taken_fdr]
    rfl
  · rw [State.writeFeeder_passes hq c hf hgood, State.applyFeeder_of_lt (by rw [State.taken_fdr]; exact hlt),
      State.reportOver_reconfigured, State.taken_fdr]
    rfl
end

section
/-! PROOFS. The entries of a slot: how many there are, and the lists after the removal of the one there is (R72, R74). -/

namespace Sys2Proof.Machine
open Sys2Proof

/-! ### The entries of a slot on a feeder -/

/-- The number of entries of a slot in the two wait lists of a feeder. -/
def Feeder.entriesOf (r : Feeder) (i : Slot) : Nat := (r.wait1 ++ r.wait2).countP (fun e => e.slot == i)

/-- The record of a feeder without the entries of a slot. -/
def Feeder.without (r : Feeder) (i : Slot) : Feeder :=
  { r with wait1 := r.wait1.filter (fun d => d.slot ≠ i), wait2 := r.wait2.filter (fun d => d.slot ≠ i) }

/-- The entries of a slot in all lists are those on each feeder together. -/
theorem State.entryCount_eq_sum (s : State) (i : Slot) : s.entryCount i = ∑ f, (s.fdr f).entriesOf i :=
  (Fin.sum_univ_def _).symm

theorem State.entriesOf_le_entryCount (s : State) (i : Slot) (f : FeederId) : (s.fdr f).entriesOf i ≤ s.entryCount i := by
  rw [State.entryCount_eq_sum]
  exact Finset.single_le_sum (f := fun f => (s.fdr f).entriesOf i) (fun _ _ => Nat.zero_le _) (Finset.mem_univ f)

theorem State.entriesOf_add_le_entryCount (s : State) (i : Slot) {f g : FeederId} (h : f ≠ g) :
    (s.fdr f).entriesOf i + (s.fdr g).entriesOf i ≤ s.entryCount i := by
  rw [State.entryCount_eq_sum, ← Finset.sum_pair (f := fun f => (s.fdr f).entriesOf i) h]
  exact Finset.sum_le_sum_of_subset (Finset.subset_univ _)

/-- The entries are counted in the wait lists alone. -/
theorem State.entryCount_congr {s t : State} (h : ∀ f, (t.fdr f).wait1 = (s.fdr f).wait1 ∧ (t.fdr f).wait2 = (s.fdr f).wait2)
    (i : Slot) : t.entryCount i = s.entryCount i := by
  unfold State.entryCount
  simp only [h]

theorem Feeder.entriesOf_eq_zero_iff {r : Feeder} {i : Slot} :
    r.entriesOf i = 0 ↔ ∀ l, ∀ e ∈ r.wait l, e.slot ≠ i := by
  simp only [Feeder.entriesOf, List.countP_eq_zero, List.mem_append, beq_iff_eq]
  exact ⟨fun h l e he => h e (by cases l; exacts [.inl he, .inr he]), fun h e he => he.elim (h .one e) (h .two e)⟩

theorem Feeder.entriesOf_pos {r : Feeder} {l : Level} {e : Entry} (h : e ∈ r.wait l) : 0 < r.entriesOf e.slot :=
  Nat.pos_of_ne_zero fun h0 => Feeder.entriesOf_eq_zero_iff.1 h0 l e h rfl

/-! ### The record without the entries of a slot -/

/-- A list without an entry of a slot loses none. -/
theorem filter_slot_of_none {i : Slot} {es : List Entry} (h : ∀ e ∈ es, e.slot ≠ i) : es.filter (fun d => d.slot ≠ i) = es :=
  List.filter_eq_self.2 fun e he => decide_eq_true (h e he)

theorem Feeder.without_of_none {r : Feeder} {i : Slot} (h : r.entriesOf i = 0) : r.without i = r := by
  rw [Feeder.entriesOf_eq_zero_iff] at h
  have h1 := filter_slot_of_none (es := r.wait1) (h .one)
  have h2 := filter_slot_of_none (es := r.wait2) (h .two)
  unfold Feeder.without
  rw [h1, h2]

/-- The lists lose as many entries as the slot has there. -/
theorem Feeder.without_length (r : Feeder) (i : Slot) :
    (r.without i).wait1.length + (r.without i).wait2.length + r.entriesOf i = r.wait1.length + r.wait2.length := by
  have h := List.length_eq_countP_add_countP (fun e : Entry => e.slot == i) (l := r.wait1 ++ r.wait2)
  rw [List.length_append, List.countP_append (p := fun e => decide ¬_), List.countP_eq_length_filter, List.countP_eq_length_filter,
    List.countP_eq_length_filter] at h
  simp only [beq_iff_eq] at h
  unfold Feeder.without Feeder.entriesOf
  rw [List.countP_eq_length_filter]
  simp only [ne_eq]
  omega

/-- The removal of R74 tests slots as the record without a slot does. -/
theorem filter_slot_bne (i : Slot) (es : List Entry) : es.filter (fun d => d.slot != i) = es.filter (fun d => d.slot ≠ i) :=
  List.filter_congr fun d _ => by rw [Bool.eq_iff_iff]; simp

/-- Where the one entry of a slot stands in one list, the other list has none. -/
theorem Feeder.slot_ne_of_other {r : Feeder} {l k : Level} {e : Entry} (he : e ∈ r.wait l) (h1 : r.entriesOf e.slot ≤ 1)
    (hk : k ≠ l) : ∀ d ∈ r.wait k, d.slot ≠ e.slot := by
  intro d hd hs
  have hp : ∀ {es : List Entry} {a : Entry}, a ∈ es → a.slot = e.slot → 0 < es.countP (fun d => d.slot == e.slot) :=
    fun ha hs => List.countP_pos_iff.2 ⟨_, ha, beq_iff_eq.2 hs⟩
  have h2 := hp he rfl
  have h3 := hp hd hs
  unfold Feeder.entriesOf at h1
  rw [List.countP_append] at h1
  cases l <;> cases k
  case one.one | two.two => exact hk rfl
  all_goals
    simp only [Feeder.wait] at h2 h3
    omega

/-- Where a slot has one entry on a feeder, its list without it gives the record without the slot. -/
theorem Feeder.setWait_without {r : Feeder} {l : Level} {e : Entry} (he : e ∈ r.wait l) (h1 : r.entriesOf e.slot ≤ 1) :
    r.setWait l ((r.wait l).filter (fun d => d.slot != e.slot)) = r.without e.slot := by
  rw [filter_slot_bne]
  unfold Feeder.without
  cases l with
  | one => rw [filter_slot_of_none (es := r.wait2) (Feeder.slot_ne_of_other (k := .two) he h1 (by decide))]; rfl
  | two => rw [filter_slot_of_none (es := r.wait1) (Feeder.slot_ne_of_other (k := .one) he h1 (by decide))]; rfl

/-! ### The membership of a slot -/

theorem findEntry_mem {i : Slot} {p : Entry × Nat} :
    ∀ {es : List Entry} {n : Nat}, findEntry i es n = some p → p.1 ∈ es ∧ p.1.slot = i
  | [], _, h => by cases h
  | e :: es, n, h => by
    unfold findEntry at h
    split at h
    · next he =>
      cases h
      exact ⟨List.mem_cons_self .., by simpa using he⟩
    · obtain ⟨hm, hs⟩ := findEntry_mem h
      exact ⟨List.mem_cons_of_mem _ hm, hs⟩

theorem findEntry_none {i : Slot} : ∀ {es : List Entry} {n : Nat}, findEntry i es n = none → ∀ e ∈ es, e.slot ≠ i
  | [], _, _, _, he => by cases he
  | d :: es, n, h, e, he => by
    unfold findEntry at h
    split at h
    · cases h
    · next hd =>
      rcases List.mem_cons.1 he with rfl | he
      · simpa using hd
      · exact findEntry_none h e he

/-- A membership names an entry of the slot, on its feeder and level. -/
theorem State.memberOf_mem {s : State} {i : Slot} {m : Membership} (h : s.memberOf i = some m) :
    m.entry ∈ (s.fdr m.feeder).wait m.level ∧ m.entry.slot = i := by
  obtain ⟨f, _, hf⟩ := List.exists_of_findSome?_eq_some h
  unfold State.memberOn at hf
  split at hf
  · next h1 =>
    cases hf
    exact findEntry_mem h1
  · obtain ⟨p, hp, rfl⟩ := Option.map_eq_some_iff.1 hf
    exact findEntry_mem hp

/-- A slot without a membership has no entry. -/
theorem State.memberOf_none {s : State} {i : Slot} (h : s.memberOf i = none) (f : FeederId) : (s.fdr f).entriesOf i = 0 := by
  have hf : s.memberOn i f = none := List.findSome?_eq_none_iff.1 h f (List.mem_finRange f)
  unfold State.memberOn at hf
  split at hf
  · cases hf
  · next h1 =>
    have h2 := findEntry_none (Option.map_eq_none_iff.1 hf)
    exact Feeder.entriesOf_eq_zero_iff.2 fun l => by cases l; exacts [findEntry_none h1, h2]

/-- Removing the entry of a slot that has at most one leaves every record without the slot (R74). -/
theorem State.dropEntry_fdr {s : State} {i : Slot} (h : s.entryCount i ≤ 1) (g : FeederId) :
    (s.dropEntry i).fdr g = (s.fdr g).without i := by
  unfold State.dropEntry
  split
  · next hm => rw [Feeder.without_of_none (State.memberOf_none hm g)]
  · next m hm =>
    obtain ⟨he, rfl⟩ := State.memberOf_mem hm
    simp only [State.fdr, (State.tellHolder_same _ _ _).2.1]
    show State.fdr _ g = (s.fdr g).without _
    by_cases hg : m.feeder = g
    · subst hg
      rw [State.modFdr_fdr_self]
      exact Feeder.setWait_without he ((s.entriesOf_le_entryCount _ _).trans h)
    · have := s.entriesOf_add_le_entryCount m.entry.slot hg
      have := Feeder.entriesOf_pos he
      rw [State.modFdr_fdr_other _ _ hg, Feeder.without_of_none (by omega)]

end Sys2Proof.Machine
end

section
/-! PROOFS. A round of arbitration: who is eligible, which candidate it takes, and the state after it is served (R75, R77, R78). -/

namespace Sys2Proof.Machine
open Sys2Proof

/-! ### Eligibility (R13, R75) -/

theorem State.wouldConflict_eq_false_iff (s : State) (i : Slot) (x : SectionId) (f : FeederId) :
    s.wouldConflict i x f = false ↔ s.swap = .none ∨ s.shadowBank.resolve (s.ctx i).pos.chainage = .sect x
      ∧ s.shadowBank.sections[x].valid = true ∧ s.shadowBank.sections[x].feeder = f := by
  unfold State.wouldConflict State.swapPending State.shadowAgrees Bank.feederOf Bank.sect
  cases hv : s.shadowBank.sections[x].valid <;> simp [imp_iff_not_or]

theorem State.eligible_iff (s : State) (f : FeederId) (e : Entry) :
    s.eligible f e = true ↔ (s.fdr f).state = .online ∧
      ((s.ctx e.slot).state = .queued ∧ (s.sec e.sect).state = .energised
          ∧ (s.swap = .none ∨ s.shadowBank.resolve (s.ctx e.slot).pos.chainage = .sect e.sect
              ∧ s.shadowBank.sections[e.sect].valid = true ∧ s.shadowBank.sections[e.sect].feeder = f)
        ∨ (s.ctx e.slot).state = .crossing ∧ s.swap = .none) := by
  rw [← State.wouldConflict_eq_false_iff]
  unfold State.eligible
  cases (s.ctx e.slot).state <;> simp [State.swapPending]

/-! ### The candidate of a round (R77) -/

/-- The level of the list whose turn it is. -/
def Feeder.due (r : Feeder) : Level := if r.turn = r.config.share then .two else .one

/-- The level of the list taken where that one has no eligible entry. -/
def Feeder.notDue (r : Feeder) : Level := if r.turn = r.config.share then .one else .two

/-- The list whose turn it is. -/
def Feeder.dueList (r : Feeder) : List Entry := if r.turn = r.config.share then r.wait2 else r.wait1

/-- The other list. -/
def Feeder.otherList (r : Feeder) : List Entry := if r.turn = r.config.share then r.wait1 else r.wait2

theorem Feeder.wait_due (r : Feeder) : r.wait r.due = r.dueList := by
  unfold Feeder.due Feeder.dueList
  split <;> rfl

theorem Feeder.wait_notDue (r : Feeder) : r.wait r.notDue = r.otherList := by
  unfold Feeder.notDue Feeder.otherList
  split <;> rfl

/-- The earliest eligible entry of the list whose turn it is, else of the other. -/
def State.nextEntry (s : State) (f : FeederId) : Option Entry :=
  ((s.fdr f).dueList.find? (s.eligible f)).or ((s.fdr f).otherList.find? (s.eligible f))

/-- The list whose turn it is has an eligible entry. -/
def State.dueServes (s : State) (f : FeederId) : Bool := ((s.fdr f).dueList.find? (s.eligible f)).isSome

/-- The level of the list that a round takes its candidate from. -/
def State.roundLevel (s : State) (f : FeederId) : Level := if s.dueServes f then (s.fdr f).due else (s.fdr f).notDue

/-- A round takes the next entry, with the level of its list. -/
theorem State.roundCandidate_eq (s : State) (f : FeederId) :
    s.roundCandidate f = (s.nextEntry f).map (fun e => (s.roundLevel f, e)) := by
  have hd : s.roundCandidate f =
      (((s.fdr f).dueList.find? (s.eligible f)).map (fun e => ((s.fdr f).due, e))).or
        (((s.fdr f).otherList.find? (s.eligible f)).map (fun e => ((s.fdr f).notDue, e))) := by
    unfold State.roundCandidate Feeder.dueList Feeder.otherList Feeder.due Feeder.notDue
    dsimp only
    split <;> rfl
  rw [hd]
  unfold State.nextEntry State.roundLevel State.dueServes
  cases (s.fdr f).dueList.find? (s.eligible f) <;> simp

/-- The next entry stands in the list of its level. -/
theorem State.nextEntry_mem {s : State} {f : FeederId} {e : Entry} (h : s.nextEntry f = some e) :
    e ∈ (s.fdr f).wait (s.roundLevel f) := by
  unfold State.roundLevel State.dueServes
  rcases Option.or_eq_some_iff.1 h with h1 | ⟨h0, h1⟩
  · rw [h1, Option.isSome_some, if_pos rfl, Feeder.wait_due]
    exact List.mem_of_find?_eq_some h1
  · rw [h0, if_neg (by simp), Feeder.wait_notDue]
    exact List.mem_of_find?_eq_some h1

/-- The turn counter goes back to 0 where the candidate came from the level-2 list, and up by 1, held at K, otherwise. -/
theorem State.turnAfter_roundLevel (s : State) (f : FeederId) (turn share : Nat) :
    turnAfter (s.roundLevel f) turn share
      = if s.dueServes f = decide ((s.fdr f).turn = (s.fdr f).config.share) then 0 else min share (turn + 1) := by
  unfold State.roundLevel Feeder.due Feeder.notDue
  by_cases ht : (s.fdr f).turn = (s.fdr f).config.share <;> cases s.dueServes f <;> simp [ht, turnAfter]

/-! ### Fit (R44, R77) -/

/-- The section headroom, 0 for an unmapped section (R67). -/
theorem State.sectionRoom_eq (s : State) (x : SectionId) :
    s.sectionRoom x = if (s.entry x).valid then (s.entry x).limit - s.load x else 0 := by
  unfold State.sectionRoom State.sectionLimit
  split <;> simp

theorem State.candidateFits_queued {s : State} {e : Entry} (h : (s.ctx e.slot).state = .queued) (f : FeederId) :
    s.candidateFits f e = true ↔ (s.ctx e.slot).req.minimum ≤ s.candidate e.slot f e.sect ∧ 0 < s.candidate e.slot f e.sect := by
  simp [State.candidateFits, h, State.fits]

theorem State.candidateFits_crossing {s : State} {e : Entry} (h : (s.ctx e.slot).state = .crossing) (f : FeederId) :
    s.candidateFits f e = true ↔ (s.ctx e.slot).gap.amount ≤ s.feederRoom f
      ∧ (s.ctx e.slot).gap.amount ≤ s.sectionRoom ((s.ctx e.slot).gap.target.getD e.sect) := by
  simp [State.candidateFits, h, State.reserveFits]

/-! ### Whom a round serves (R78) -/

theorem State.serve_queued {s : State} {e : Entry} (h : (s.ctx e.slot).state = .queued) (f : FeederId) :
    s.serve f e = s.makeOffer e.slot f e.sect := by
  simp [State.serve, h]

theorem State.serve_crossing {s : State} {e : Entry} (h : (s.ctx e.slot).state = .crossing) (f : FeederId) :
    s.serve f e = s.serveCrossing e.slot f := by
  simp [State.serve, h]

/-- A round that serves changes one context. -/
theorem State.serve_ctx_other {s : State} {e : Entry} {j : Slot} (h : e.slot ≠ j) (f : FeederId) :
    (s.serve f e).ctx j = s.ctx j := by
  unfold State.serve
  split
  · rw [State.serveCrossing_ctx, if_neg h]
  · rw [State.makeOffer_ctx, if_neg h]

/-- A context is done with arbitration on a feeder: it does not wait, or it is CROSSING with its reservation there. -/
def Context.doneOn (c : Context) (f : FeederId) : Prop :=
  c.waits = false ∨ c.state = .crossing ∧ c.gap.feeder = some f

/-- A candidate that was served is done. -/
theorem State.serve_doneOn (s : State) (f : FeederId) (e : Entry) : ((s.serve f e).ctx e.slot).doneOn f := by
  unfold State.serve
  split
  · next hx =>
    rw [State.serveCrossing_ctx, if_pos rfl]
    exact .inr ⟨by simpa using hx, rfl⟩
  · rw [State.makeOffer_ctx, if_pos rfl]
    exact .inl rfl

/-- A reservation made a second time on its feeder changes no context. -/
theorem State.serve_ctx_of_doneOn {s : State} {f : FeederId} {e : Entry} (hw : (s.ctx e.slot).waits = true) {j : Slot}
    (h : (s.ctx j).doneOn f) : (s.serve f e).ctx j = s.ctx j := by
  by_cases hj : e.slot = j
  · subst hj
    obtain h | ⟨hx, hf⟩ := h
    · rw [hw] at h; cases h
    · rw [State.serve_crossing hx, State.serveCrossing_ctx, if_pos rfl, ← hf]
  · exact State.serve_ctx_other hj f

/-- The state that a round leaves: its candidate served and the turn moved (R77). -/
def State.afterRound (s : State) (f : FeederId) (e : Entry) : State :=
  (s.serve f e).modFdr f (fun r => { r with turn := turnAfter (s.roundLevel f) r.turn r.config.share })

theorem State.afterRound_ctx (s : State) (f : FeederId) (e : Entry) (j : Slot) :
    (s.afterRound f e).ctx j = (s.serve f e).ctx j := State.modFdr_ctx' _ _ _ _

/-- The next entry is one of a context that waits. -/
theorem State.nextEntry_waits {s : State} {f : FeederId} {e : Entry} (h : s.nextEntry f = some e) : (s.ctx e.slot).waits = true := by
  have hc : s.roundCandidate f = some (s.roundLevel f, e) := by rw [State.roundCandidate_eq, h]; rfl
  unfold Context.waits
  rcases Served.candidate_waits hc with h | h <;> rw [h] <;> rfl

/-! ### The rounds, one after another (R77) -/

theorem State.rounds_none {s : State} {f : FeederId} (h : s.nextEntry f = none) (n : Nat) : s.rounds f (n + 1) = s := by
  simp [State.rounds, State.roundCandidate_eq, h]

theorem State.rounds_stuck {s : State} {f : FeederId} {e : Entry} (h : s.nextEntry f = some e) (hf : ¬s.candidateFits f e = true)
    (n : Nat) : s.rounds f (n + 1) = s := by
  simp [State.rounds, State.roundCandidate_eq, h, hf]

theorem State.rounds_serves {s : State} {f : FeederId} {e : Entry} (h : s.nextEntry f = some e) (hf : s.candidateFits f e = true)
    (n : Nat) : s.rounds f (n + 1) = (s.afterRound f e).rounds f n := by
  simp [State.rounds, State.roundCandidate_eq, h, hf, State.afterRound]

/-- No round changes a context that is done. -/
theorem State.rounds_ctx_of_doneOn {f : FeederId} {j : Slot} (n : Nat) :
    ∀ {s : State}, (s.ctx j).doneOn f → (s.rounds f n).ctx j = s.ctx j := by
  induction n with
  | zero => exact fun _ => rfl
  | succ n ih =>
    intro s h
    cases hn : s.nextEntry f with
    | none => rw [State.rounds_none hn]
    | some e =>
      by_cases hf : s.candidateFits f e = true
      · have hj : (s.afterRound f e).ctx j = s.ctx j :=
          (s.afterRound_ctx f e j).trans (State.serve_ctx_of_doneOn (State.nextEntry_waits hn) h)
        rw [State.rounds_serves hn hf, ih (hj ▸ h), hj]
      · rw [State.rounds_stuck hn hf]

/-- The candidate that fits is left by arbitration as its round served it. -/
theorem State.arbitrate_ctx_served {s : State} {f : FeederId} {e : Entry} (h : s.nextEntry f = some e)
    (hf : s.candidateFits f e = true) : (s.arbitrate f).ctx e.slot = (s.serve f e).ctx e.slot := by
  have hd : ((s.afterRound f e).ctx e.slot).doneOn f := by
    rw [State.afterRound_ctx]
    exact State.serve_doneOn s f e
  unfold State.arbitrate
  rw [State.rounds_serves h hf, State.rounds_ctx_of_doneOn _ hd, State.afterRound_ctx]

/-! ### What a round commits (R66, R67) -/

/-- A grant or offer given to a context without one is committed on its feeder, and no other record changes. -/
theorem State.setHold_fdr_of_none {s : State} {i : Slot} (h : (s.ctx i).hold = none) (k : Option Holding) (g : FeederId) :
    (s.setHold i k).fdr g = (s.commitHold k).fdr g := by
  unfold State.setHold
  simp only [State.fdr, (State.tellHold_same _ _ _).2.1, h]
  rfl

/-- A reservation given to a context without one is committed on its feeder, and no other record changes. -/
theorem State.setGap_fdr_of_none {s : State} {i : Slot} (h : (s.ctx i).gap.reserved = none) (k : GapFields) (g : FeederId) :
    (s.setGap i k).fdr g = (s.commitHold k.reserved).fdr g := by
  unfold State.setGap
  simp only [State.fdr, (State.tellHold_same _ _ _).2.1, h]
  rfl

theorem State.commitHold_fdr (s : State) (k : Holding) (g : FeederId) :
    (s.commitHold (some k)).fdr g =
      if k.feeder = g then { s.fdr g with committed := (s.fdr g).committed + k.amount } else s.fdr g := by
  show ((s.modFdr k.feeder _).modLoad k.sect _).fdr g = _
  rw [State.modLoad_fdr', State.modFdr_fdr]
  split
  · next h => subst h; rfl
  · rfl

/-- The entries of a slot are removed from a state that differs in what a holding commits. -/
theorem State.dropEntry_fdr_of_commit {s u : State} {i : Slot} {k : Holding} (hn : s.entryCount i ≤ 1)
    (hu : ∀ g, u.fdr g = (s.commitHold (some k)).fdr g) (g : FeederId) :
    (u.dropEntry i).fdr g = ((s.commitHold (some k)).fdr g).without i := by
  have hw : ∀ g, (u.fdr g).wait1 = (s.fdr g).wait1 ∧ (u.fdr g).wait2 = (s.fdr g).wait2 := fun g => by
    rw [hu, State.commitHold_fdr]
    split <;> exact ⟨rfl, rfl⟩
  rw [State.dropEntry_fdr (by rw [State.entryCount_congr hw]; exact hn), hu]

/-- What a candidate that is served commits: an offer its candidate amount, a reservation its crossing amount. -/
structure State.Commits (s : State) (f : FeederId) (e : Entry) (x : SectionId) (n : Nat) : Prop where
  records : ∀ g, (s.serve f e).fdr g = ((s.commitHold (some ⟨n, f, x⟩)).fdr g).without e.slot
  loads : ∀ y, (s.serve f e).load y = s.load y + heldIn y (some ⟨n, f, x⟩)

theorem State.sendOfr_fdr (s : State) (i : Slot) (tag : Byte) (g : FeederId) : (s.sendOfr i tag).fdr g = s.fdr g := by
  unfold State.sendOfr
  dsimp only
  split
  · rfl
  · exact State.sendNormal_fdr' _ _ _

theorem State.sendOfr_load (s : State) (i : Slot) (tag : Byte) (y : SectionId) : (s.sendOfr i tag).load y = s.load y := by
  unfold State.sendOfr
  dsimp only
  split
  · rfl
  · exact State.sendNormal_load' _ _ _

/-- An offer commits its candidate amount on the entry's section (R50). -/
theorem State.commits_offer {s : State} {f : FeederId} {e : Entry} (hq : (s.ctx e.slot).state = .queued)
    (hh : (s.ctx e.slot).hold = none) (hn : s.entryCount e.slot ≤ 1) :
    s.Commits f e e.sect (s.candidate e.slot f e.sect) where
  records := fun g => by
    rw [State.serve_queued hq]
    unfold State.makeOffer
    dsimp only
    rw [State.sendOfr_fdr, State.modCtx_fdr']
    exact State.dropEntry_fdr_of_commit hn (State.setHold_fdr_of_none hh _) g
  loads := fun y => by
    rw [State.serve_queued hq]
    unfold State.makeOffer
    dsimp only
    rw [State.sendOfr_load, State.modCtx_load', State.dropEntry_load, State.setHold_load, hh]
    rfl

/-- A reservation commits the crossing amount on the target section (R92). -/
theorem State.commits_reservation {s : State} {f : FeederId} {e : Entry} {x : SectionId} (hc : (s.ctx e.slot).state = .crossing)
    (hg : (s.ctx e.slot).gap.feeder = none) (hx : (s.ctx e.slot).gap.target = some x) (hn : s.entryCount e.slot ≤ 1) :
    s.Commits f e x (s.ctx e.slot).gap.amount := by
  have hr : (s.ctx e.slot).gap.reserved = none := reserved_none hg
  have hk : GapFields.reserved { (s.ctx e.slot).gap with feeder := some f } = some ⟨(s.ctx e.slot).gap.amount, f, x⟩ := by
    simp only [GapFields.reserved, hx]
  constructor
  · intro g
    rw [State.serve_crossing hc]
    exact State.dropEntry_fdr_of_commit hn (fun g => (State.setGap_fdr_of_none hr _ g).trans (by rw [hk])) g
  · intro y
    rw [State.serve_crossing hc]
    unfold State.serveCrossing State.makeReservation
    rw [State.dropEntry_load, State.setGap_load, hr, hk]
    rfl

/-! ### The state that the next round finds -/

theorem State.Commits.afterRound_fdr_self {s : State} {f : FeederId} {e : Entry} {x : SectionId} {n : Nat} (h : s.Commits f e x n) :
    (s.afterRound f e).fdr f = { (s.fdr f).without e.slot with
      turn := turnAfter (s.roundLevel f) (s.fdr f).turn (s.fdr f).config.share, committed := (s.fdr f).committed + n } := by
  unfold State.afterRound
  rw [State.modFdr_fdr_self, h.records, State.commitHold_fdr, if_pos rfl]
  rfl

/-- The records of the other feeders stand. -/
theorem State.Commits.afterRound_fdr_other {s : State} {f g : FeederId} {e : Entry} {x : SectionId} {n : Nat} (h : s.Commits f e x n)
    (he : e ∈ (s.fdr f).wait (s.roundLevel f)) (hn : s.entryCount e.slot ≤ 1) (hg : g ≠ f) :
    (s.afterRound f e).fdr g = s.fdr g := by
  have := Feeder.entriesOf_pos he
  have := s.entriesOf_add_le_entryCount e.slot hg
  unfold State.afterRound
  rw [State.modFdr_fdr_other _ _ hg.symm, h.records, State.commitHold_fdr, if_neg hg.symm, Feeder.without_of_none (by omega)]

theorem State.Commits.afterRound_load {s : State} {f : FeederId} {e : Entry} {x : SectionId} {n : Nat} (h : s.Commits f e x n)
    (y : SectionId) : (s.afterRound f e).load y = s.load y + if y = x then n else 0 := by
  unfold State.afterRound
  rw [State.modFdr_load', h.loads]
  simp only [heldIn, eq_comm]

/-- Another round follows on what the first leaves: the one entry it served is gone, and one round fewer ends the run. -/
theorem State.Commits.arbitrate_eq {s : State} {f : FeederId} {e : Entry} {x : SectionId} {n : Nat} (h : s.Commits f e x n)
    (hc : s.nextEntry f = some e) (hf : s.candidateFits f e = true) (hn : s.entryCount e.slot ≤ 1) :
    s.arbitrate f = (s.afterRound f e).arbitrate f := by
  have h1 := Feeder.entriesOf_pos (State.nextEntry_mem hc)
  have h2 := s.entriesOf_le_entryCount e.slot f
  have h3 := Feeder.without_length (s.fdr f) e.slot
  unfold State.arbitrate
  rw [State.rounds_serves hc hf, h.afterRound_fdr_self]
  congr 1
  dsimp only
  omega

/-! ### The frame of an offer (R50) -/

theorem secondsLeft_seconds (n : Nat) : secondsLeft (seconds n) = n := by
  simp only [secondsLeft, seconds, Option.getD_some]
  omega

/-- OFR goes to a normal queue with room, under its context's tag, with the amount and section held and the window left. -/
theorem State.sendOfr_normalQueue {s : State} {i : Slot} {k : Holding} (hh : (s.ctx i).hold = some k) (hq : s.normalQueue.length < 32)
    (tag : Byte) : (s.sendOfr i tag).normalQueue
      = s.normalQueue ++ [ofrFrame (s.ctx i).address tag k.amount k.sect.val (max 1 (secondsLeft (s.ctx i).offerWindow))] := by
  simp only [State.sendOfr, hh, State.sendNormal, if_pos hq]

/-- An offer sends OFR with its candidate amount, its section and the whole window. -/
theorem State.makeOffer_normalQueue {s : State} (hq : s.normalQueue.length < 32) (hw : 0 < s.globals.offerWindow)
    (i : Slot) (f : FeederId) (x : SectionId) :
    (s.makeOffer i f x).normalQueue = s.normalQueue
      ++ [ofrFrame (s.ctx i).address (s.ctx i).tagByte (s.candidate i f x) x.val s.globals.offerWindow] := by
  have hc := s.makeOffer_ctx i i f x
  rw [if_pos rfl] at hc
  unfold State.makeOffer at hc ⊢
  dsimp only at hc ⊢
  rw [State.sendOfr_ctx] at hc
  have hn : HoldersOnly s ((s.setHold i (some ⟨s.candidate i f x, f, x⟩)).dropEntry i) :=
    (HoldersOnly.setHold s i _).trans (HoldersOnly.dropEntry _ i)
  have hr : ((s.setHold i (some ⟨s.candidate i f x, f, x⟩)).dropEntry i).normalQueue = s.normalQueue := by rw [hn.rest]
  rw [State.sendOfr_normalQueue (by rw [hc]) (by rw [State.modCtx_normalQueue, hr]; exact hq), hc, State.modCtx_normalQueue, hr,
    secondsLeft_seconds, max_eq_right hw]
  rfl

/-- A reservation sends nothing. -/
theorem State.serveCrossing_normalQueue (s : State) (i : Slot) (f : FeederId) : (s.serveCrossing i f).normalQueue = s.normalQueue := by
  have h : HoldersOnly s (s.serveCrossing i f) := (HoldersOnly.setGap s i _).trans (HoldersOnly.dropEntry _ i)
  rw [h.rest]

end Sys2Proof.Machine
end

section
/-! PROOFS. Arbitration serves the earliest eligible entry of the list whose turn it is (R75, R77). -/

namespace Sys2Proof.Machine
open Sys2Proof

/-! ### What a waiting context holds (R22) -/

theorem State.entryCount_le_one {s : State} {i : Slot} (h : s.contextFits i) (hw : (s.ctx i).waits = true) : s.entryCount i ≤ 1 := by
  obtain ⟨_, _, hq, hx, _, _⟩ := h
  unfold Context.waits at hw
  rw [Bool.or_eq_true, beq_iff_eq, beq_iff_eq] at hw
  exact hw.elim (fun h => (hq h).le) fun h => (hx (.inl h)).1

theorem State.hold_none_of_queued {s : State} {i : Slot} (h : s.contextFits i) (hq : (s.ctx i).state = .queued) :
    (s.ctx i).hold = none := by
  obtain ⟨hh, _⟩ := h
  simpa [hq] using hh

/-- A CROSSING context with an entry holds no reservation. -/
theorem State.gap_feeder_none_of_entry {s : State} {i : Slot} (h : s.contextFits i) (hc : (s.ctx i).state = .crossing)
    (he : 0 < s.entryCount i) : (s.ctx i).gap.feeder = none := by
  obtain ⟨_, _, _, hx, _, _⟩ := h
  by_contra hf
  exact he.ne' ((hx (.inl hc)).2 hf)

/-! ### The outcomes of a round -/

/-- A QUEUED candidate that fits is OFFERED the candidate amount, both offer timers running (R50, R78). -/
theorem State.arbitrate_ctx_offered {s : State} {f : FeederId} {e : Entry} (he : s.nextEntry f = some e)
    (hf : s.candidateFits f e = true) (hq : (s.ctx e.slot).state = .queued) :
    (s.arbitrate f).ctx e.slot = { (s.ctx e.slot).settled .offered with
      hold := some ⟨s.candidate e.slot f e.sect, f, e.sect⟩
      offerWindow := seconds s.globals.offerWindow
      offerRepeat := quarters s.globals.offerRepeat } := by
  rw [State.arbitrate_ctx_served he hf, State.serve_queued hq, State.makeOffer_ctx, if_pos rfl]

/-- A CROSSING candidate that fits has its reservation on the feeder (R78). -/
theorem State.arbitrate_ctx_reserved {s : State} {f : FeederId} {e : Entry} (he : s.nextEntry f = some e)
    (hf : s.candidateFits f e = true) (hc : (s.ctx e.slot).state = .crossing) :
    (s.arbitrate f).ctx e.slot = { s.ctx e.slot with gap := { (s.ctx e.slot).gap with feeder := some f } } := by
  rw [State.arbitrate_ctx_served he hf, State.serve_crossing hc, State.serveCrossing_ctx, if_pos rfl]

/-- What the round leaves that serves the one entry of its candidate: arbitration goes on from it, the amount is committed, the
turn moved, the entry gone, and the other records and contexts stand (R77). -/
theorem State.Commits.served {s : State} {f : FeederId} {e : Entry} {x : SectionId} {n : Nat} (h : s.Commits f e x n)
    (he : s.nextEntry f = some e) (hf : s.candidateFits f e = true) (hn : s.entryCount e.slot ≤ 1) :
    s.arbitrate f = (s.afterRound f e).arbitrate f
      ∧ (s.afterRound f e).fdr f = { (s.fdr f).without e.slot with
          turn := if s.dueServes f = decide ((s.fdr f).turn = (s.fdr f).config.share) then 0
            else min (s.fdr f).config.share ((s.fdr f).turn + 1)
          committed := (s.fdr f).committed + n }
      ∧ (∀ g, g ≠ f → (s.afterRound f e).fdr g = s.fdr g)
      ∧ (∀ y, (s.afterRound f e).load y = s.load y + if y = x then n else 0)
      ∧ (∀ i, i ≠ e.slot → (s.afterRound f e).ctx i = s.ctx i)
      ∧ (s.afterRound f e).ctx e.slot = (s.arbitrate f).ctx e.slot :=
  ⟨h.arbitrate_eq he hf hn, (State.turnAfter_roundLevel s f _ _) ▸ h.afterRound_fdr_self,
    fun _ => h.afterRound_fdr_other (State.nextEntry_mem he) hn, h.afterRound_load,
    fun i hi => (s.afterRound_ctx f e i).trans (State.serve_ctx_other hi.symm f),
    (s.afterRound_ctx f e _).trans (State.arbitrate_ctx_served he hf).symm⟩

end Sys2Proof.Machine

open Sys2Proof Sys2Proof.Machine

/-- Settles O46: the candidate of the first round decides, and what a round serves no later round changes. Where contexts fit
their states, the candidate's entry is its only one and it holds nothing yet, so the round commits the amount and the next
round starts as arbitration on the state it leaves. -/
theorem arbitrationServesTheEarliestEligible : Obligations.ArbitrationServesTheEarliestEligible := by
  intro f s r first second next room space
  have hs : space = s.sectionRoom := funext fun x => (s.sectionRoom_eq x).symm
  clear_value space
  subst hs
  refine ⟨s.eligible_iff f, fun i hq hx => (Served.arbitrate s f).others i ((Served.waits_iff _).2 ⟨hq, hx⟩),
    fun hn => State.rounds_none hn _, ?_⟩
  intro e he c amount
  refine ⟨fun hq hlt => ?_, fun hq hm hp => ?_, fun hx hlt => ?_, fun hx hr hx' => ?_, fun hfit => ?_⟩
  · refine State.rounds_stuck he (fun hf => ?_) _
    obtain ⟨hm, hp⟩ := (State.candidateFits_queued hq f).1 hf
    exact hlt.elim (Nat.not_lt.2 hm) hp.ne'
  · have hk := State.arbitrate_ctx_offered he ((State.candidateFits_queued hq f).2 ⟨hm, hp⟩) hq
    dsimp only
    rw [hk]
    exact ⟨rfl, rfl, rfl, rfl, rfl, rfl⟩
  · refine State.rounds_stuck he (fun hf => ?_) _
    obtain ⟨hr, hx'⟩ := (State.candidateFits_crossing hx f).1 hf
    exact hlt.elim (Nat.not_lt.2 hr) (Nat.not_lt.2 hx')
  · rw [State.arbitrate_ctx_reserved he ((State.candidateFits_crossing hx f).2 ⟨hr, hx'⟩) hx]
    exact ⟨hx, rfl⟩
  · have hfit := hfit.1 e.slot
    have hn := State.entryCount_le_one hfit (State.nextEntry_waits he)
    refine ⟨fun hq hm hp => ⟨s.afterRound f e, ?_, fun hroom hw => ?_⟩, fun x ht hx hr hx' => ⟨s.afterRound f e, ?_, ?_⟩⟩
    · exact (State.commits_offer hq (State.hold_none_of_queued hfit hq) hn).served he
        ((State.candidateFits_queued hq f).2 ⟨hm, hp⟩) hn
    · show (s.serve f e).normalQueue = _
      rw [State.serve_queued hq]
      exact State.makeOffer_normalQueue hroom hw _ _ _
    · have hg := State.gap_feeder_none_of_entry hfit hx
        ((Feeder.entriesOf_pos (State.nextEntry_mem he)).trans_le (s.entriesOf_le_entryCount _ f))
      exact (State.commits_reservation hx hg ht hn).served he
        ((State.candidateFits_crossing hx f).2 ⟨hr, by rw [ht]; exact hx'⟩) hn
    · show (s.serve f e).normalQueue = _
      rw [State.serve_crossing hx]
      exact State.serveCrossing_normalQueue s _ _
end

section
/-! PROOFS. The step, and the invariants that the primitive changes keep: sample memory, queues, budgets, sections, limits. -/

namespace Sys2Proof.Machine
open Sys2Proof

/-- A property that every primitive change keeps is kept by a step that ends in a next state. -/
theorem KeepsAll.step_keeps {P : State → Prop} {s t : State} (K : KeepsAll P)
    (hr : ∀ {s : State} f k, P s → P (s.modFdr f (fun d => d.reconfigured k)))
    (hp : ∀ (t : State) (q : List Instr), P t → P { t with pending := q }) (h : P s) (hs : step s = .next t) : P t := by
  obtain ⟨u, hu, ht⟩ := K.step_lands hr hp h
  rw [hs] at hu
  exact Host.Outcome.next.inj hu ▸ ht

/-- A ramp resume keeps what the opening of admission and the changes of sections keep. -/
theorem Keeps.takeRampResume_of {P : State → Prop} {s : State} (K : Keeps P) (ha : P { s with admission := .running })
    (hs : ∀ (t : State) x g, P t → P (t.modSec x g)) : P s.takeRampResume := by
  refine K.report _ _ _ (K.eachSection (fun t x h => ?_) ha)
  split
  · exact hs _ _ _ h
  · exact h

/-! ### Sample memory and rings (R129 to R133) -/

/-- The invariant of the sample memory and the rings. -/
def State.memorySound (s : State) : Prop := s.memoryCanonical ∧ s.ringsSound

/-- It is about the rings and the sample memory alone. -/
theorem State.memorySound_of_same {s t : State} (hm : t.samples = s.samples) (hr : t.rings = s.rings) (h : s.memorySound) :
    t.memorySound := by
  unfold State.memorySound State.memoryCanonical State.ringsSound State.ring at *
  rw [hm, hr]
  exact h

/-- A change of one ring that keeps it sound. -/
theorem State.memorySound_modRing {s : State} (f : FeederId) {g : Ring → Ring} (hg : (s.ring f).sound → (g (s.ring f)).sound)
    (h : s.memorySound) : (s.modRing f g).memorySound := by
  refine ⟨h.1, fun f' => ?_⟩
  rw [State.modRing_ring]
  split
  · exact hg (h.2 f)
  · exact h.2 f'

/-- A store at the write position of a sound ring stays within the 8192 addresses. -/
theorem State.memorySound_stored {s : State} (f : FeederId) (e : SampleEntry) (h : s.memorySound) :
    (({ s with samples := s.samples.store (s.ring f).writePos e } : State).modRing f Ring.advanced).memorySound := by
  refine State.memorySound_modRing (s := { s with samples := _ }) f Ring.advanced_sound
    ⟨⟨SampleMemory.wf_store _ _ h.1.1, fun p hp => ?_⟩, h.2⟩
  rcases SampleMemory.mem_store hp with hw | hm
  · obtain ⟨_, _, _, hend, _, hpos, _⟩ := h.2 f
    omega
  · exact h.1.2 p hm

theorem Ring.reset_sound : Ring.reset.sound := by
  unfold Ring.sound Ring.reset
  decide

theorem Ring.restarted_sound {r : Ring} (h : r.sound) : r.restarted.sound := by
  unfold Ring.sound Ring.restarted at *
  dsimp only
  omega

theorem keeps_memorySound : Keeps State.memorySound :=
  Keeps.ofHolders (fun c h => State.memorySound_of_same c.samples c.rings h)
    (fun f h => State.memorySound_of_same (by simp) (by simp) h)
    (fun f _ h => State.memorySound_of_same (by simp) (by simp) h)
    (fun c h => State.memorySound_of_same (by rw [c.rest]) (by rw [c.rest]) h)
    (fun _ _ _ _ h => h)
    (fun f _ hg h => State.memorySound_modRing f (Ring.sound_of_same (hg _)) h)
    State.memorySound_stored (fun _ _ h => h) (fun _ _ h => h) (fun h => h) (fun _ _ h => h)

theorem keepsAll_memorySound : KeepsAll State.memorySound where
  toKeeps := keeps_memorySound
  sendReply := fun f h => State.memorySound_of_same (by simp) (by simp) h
  offerRequest := fun f h => by
    unfold State.offerRequest
    split <;> exact h
  popRequest := fun _ h => h
  popNormal := fun _ h => h
  popC := fun _ h => h
  stopped := fun n h => keeps_memorySound.takeRampStop_of n (fun _ _ h => h) h
  resumed := fun h => keeps_memorySound.takeRampResume_of h (fun _ _ _ h => h)
  enabled := fun _ h => h
  poweredOn := fun a h => ⟨h.1, fun f => by
    unfold State.ring State.powerOn
    simpa using Ring.reset_sound⟩
  restarted := fun {s} h => ⟨h.1, fun f => by
    have := Ring.restarted_sound (h.2 f)
    unfold State.ring State.restarted at *
    simpa using this⟩
  ticked := fun h => h
  setGlobals := fun _ h => h
  setBank := fun k b h => by cases k <;> exact h
  setClasses := fun _ h => h
  setLine := fun _ h => h
  setPin := fun h => h
  descriptor := fun f d hd hm h => State.memorySound_modRing f (rewritten_sound hd hm) h

/-! ### The queue of commands -/

theorem keeps_pending (q : List Instr) : Keeps (fun s => s.pending = q) :=
  Keeps.ofHolders (fun c h => c.pending.trans h) (fun _ h => by simpa using h) (fun _ _ h => by simpa using h)
    (fun c h => by rw [c.rest]; exact h) (fun _ _ _ _ h => h) (fun _ _ _ h => h) (fun _ _ h => h) (fun _ _ h => h)
    (fun _ _ h => h) (fun h => h) (fun _ _ h => h)

theorem keepsAll_pending (q : List Instr) : KeepsAll (fun s => s.pending = q) where
  toKeeps := keeps_pending q
  sendReply := fun f h => by simpa using h
  offerRequest := fun f h => by
    unfold State.offerRequest
    split <;> exact h
  popRequest := fun _ h => h
  popNormal := fun _ h => h
  popC := fun _ h => h
  stopped := fun n h => (keeps_pending q).takeRampStop_of n (fun _ _ h => h) h
  resumed := fun h => (keeps_pending q).takeRampResume_of h (fun _ _ _ h => h)
  enabled := fun _ h => h
  poweredOn := fun _ h => h
  restarted := fun h => h
  ticked := fun h => h
  setGlobals := fun _ h => h
  setBank := fun k _ h => by cases k <;> exact h
  setClasses := fun _ h => h
  setLine := fun _ h => h
  setPin := fun h => h
  descriptor := fun _ _ _ _ h => h

/-! ### The transmit queues and the request buffer (R150, R154, R155) -/

theorem State.queuesBounded_of_same {s t : State} (hn : t.normalQueue = s.normalQueue) (hc : t.cQueue = s.cQueue)
    (hr : t.requestBuffer = s.requestBuffer) (h : s.queuesBounded) : t.queuesBounded := by
  unfold State.queuesBounded at *
  rw [hn, hc, hr]
  exact h

theorem State.queuesBounded_sendNormal {s : State} (f : Frame) (h : s.queuesBounded) : (s.sendNormal f).queuesBounded := by
  obtain ⟨hn, hc, hr⟩ := h
  unfold State.sendNormal
  split
  · exact ⟨by simp only [List.length_append, List.length_singleton]; omega, hc, hr⟩
  · exact ⟨hn, hc, hr⟩

theorem State.queuesBounded_offerC {s : State} (f : Frame) (h : s.queuesBounded) : (s.offerC f).queuesBounded := by
  obtain ⟨hn, hc, hr⟩ := h
  unfold State.offerC
  split
  · exact ⟨hn, by simp only [List.length_append, List.length_singleton]; omega, hr⟩
  · exact ⟨hn, hc, hr⟩

theorem State.queuesBounded_sendReply {s : State} (f : Frame) (h : s.queuesBounded) : (s.sendReply f).queuesBounded := by
  obtain ⟨hn, hc, hr⟩ := h
  unfold State.sendReply
  split
  · exact ⟨hn, by simp only [List.length_append, List.length_singleton]; omega, hr⟩
  · exact ⟨hn, hc, hr⟩

theorem State.queuesBounded_offerRequest {s : State} (f : Frame) (h : s.queuesBounded) : (s.offerRequest f).queuesBounded := by
  obtain ⟨hn, hc, hr⟩ := h
  unfold State.offerRequest
  split
  · exact ⟨hn, hc, by simp only [List.length_append, List.length_singleton]; omega⟩
  · exact ⟨hn, hc, hr⟩

/-- A shorter queue is bounded where the longer one is. -/
theorem length_le_of_cons {α : Type} {l fs : List α} {f : α} {n : Nat} (e : l = f :: fs) (h : l.length ≤ n) : fs.length ≤ n := by
  rw [e, List.length_cons] at h
  omega

theorem keeps_queuesBounded : Keeps State.queuesBounded :=
  Keeps.ofHolders (fun c h => State.queuesBounded_of_same c.normal c.frames c.requests h)
    State.queuesBounded_sendNormal (fun f _ => State.queuesBounded_offerC f)
    (fun c h => State.queuesBounded_of_same (by rw [c.rest]) (by rw [c.rest]) (by rw [c.rest]) h)
    (fun _ _ _ _ h => h) (fun _ _ _ h => h) (fun _ _ h => h) (fun _ _ h => h) (fun _ _ h => h) (fun h => h) (fun _ _ h => h)

theorem keepsAll_queuesBounded : KeepsAll State.queuesBounded where
  toKeeps := keeps_queuesBounded
  sendReply := State.queuesBounded_sendReply
  offerRequest := State.queuesBounded_offerRequest
  popRequest := fun e h => ⟨h.1, h.2.1, length_le_of_cons e h.2.2⟩
  popNormal := fun e h => ⟨length_le_of_cons e h.1, h.2⟩
  popC := fun e h => ⟨h.1, length_le_of_cons e h.2.1, h.2.2⟩
  stopped := fun n h => keeps_queuesBounded.takeRampStop_of n (fun _ _ h => h) h
  resumed := fun h => keeps_queuesBounded.takeRampResume_of h (fun _ _ _ h => h)
  enabled := fun _ h => h
  poweredOn := fun _ _ => ⟨Nat.zero_le _, Nat.zero_le _, Nat.zero_le _⟩
  restarted := fun h => ⟨Nat.zero_le _, h.2⟩
  ticked := fun h => h
  setGlobals := fun _ h => h
  setBank := fun k _ h => by cases k <;> exact h
  setClasses := fun _ h => h
  setLine := fun _ h => h
  setPin := fun h => h
  descriptor := fun _ _ _ _ h => h


/-! ### Changes of every section -/

theorem State.modSec_eq_self {s : State} {x : SectionId} {g : SectionRec → SectionRec} (h : g (s.sec x) = s.sec x) :
    s.modSec x g = s := by
  have hv : s.sections.set x.val (g (s.sec x)) x.isLt = s.sections := by
    rw [h]
    exact Vector.set_getElem_self x.isLt
  exact congrArg (fun v => { s with sections := v }) hv

/-- A fold that changes the record of each section of a list once. -/
theorem foldl_modSec {g : SectionRec → SectionRec} (l : List SectionId) :
    ∀ s : State, l.Nodup → (l.foldl (fun t x => t.modSec x g) s = { s with sections := (l.foldl (fun t x => t.modSec x g) s).sections })
      ∧ ∀ y, (l.foldl (fun t x => t.modSec x g) s).sec y = if y ∈ l then g (s.sec y) else s.sec y := by
  induction l with
  | nil => exact fun s _ => ⟨rfl, fun y => by simp⟩
  | cons x l ih =>
    intro s hn
    obtain ⟨hx, hl⟩ := List.nodup_cons.1 hn
    obtain ⟨hs, hy⟩ := ih (s.modSec x g) hl
    refine ⟨hs, fun y => (hy y).trans ?_⟩
    by_cases e : x = y
    · subst e
      rw [if_neg hx, State.modSec_sec_self, if_pos (List.mem_cons_self ..)]
    · simp only [State.modSec_sec_other _ _ e, List.mem_cons, Ne.symm e, false_or]

/-- A change of every section record is a map over the records. -/
theorem State.eachSection_modSec (s : State) (g : SectionRec → SectionRec) :
    s.eachSection (fun t x => t.modSec x g) = { s with sections := s.sections.map g } := by
  obtain ⟨hs, hy⟩ := foldl_modSec (g := g) allSections s (List.nodup_finRange 64)
  have hv : (allSections.foldl (fun t x => t.modSec x g) s).sections = s.sections.map g := by
    ext n hn
    have := hy ⟨n, hn⟩
    rw [if_pos (show _ ∈ allSections from List.mem_finRange _)] at this
    simpa [State.sec] using this
  unfold State.eachSection
  rw [hs, hv]

/-- A section record after a ramp stop (R124). -/
def SectionRec.stopped (r : SectionRec) : SectionRec :=
  { r with state := .isolated, raiseOrigin := none, raiseTimer := none, idleTimer := none, standbyTimer := none
           command := some .opening }

theorem State.eachSection_stopSection (s : State) : s.eachSection State.stopSection = { s with sections := s.sections.map SectionRec.stopped } :=
  s.eachSection_modSec SectionRec.stopped

/-- A section record after a ramp resume (R125). -/
def SectionRec.resumed (r : SectionRec) : SectionRec := if r.unlocked then { r with state := .standby } else r

/-- A ramp resume opens admission and changes every section record, then reports (R125). -/
theorem State.takeRampResume_eq (s : State) : s.takeRampResume =
    ({ s with admission := .running, sections := s.sections.map SectionRec.resumed } : State).report .rampResumed 0
      (allSections.filter (fun x => (s.sec x).unlocked)).length := by
  have hg : (fun (t : State) (x : SectionId) => if (t.sec x).unlocked then t.modSec x (fun r => { r with state := .standby }) else t)
      = fun t x => t.modSec x SectionRec.resumed := by
    funext t x
    split
    · next h =>
      unfold State.modSec SectionRec.resumed
      rw [if_pos h]
    · next h => exact (State.modSec_eq_self (by unfold SectionRec.resumed; rw [if_neg h])).symm
  unfold State.takeRampResume
  dsimp only
  rw [hg, State.eachSection_modSec]

theorem keeps_admission (a : Admission) : Keeps (fun s => s.admission = a) :=
  Keeps.ofHolders (fun c h => c.admission.trans h) (fun _ h => by simpa using h) (fun _ _ h => by simpa using h)
    (fun c h => by rw [c.rest]; exact h) (fun _ _ _ _ h => h) (fun _ _ _ h => h) (fun _ _ h => h) (fun _ _ h => h)
    (fun _ _ h => h) (fun h => h) (fun _ _ h => h)

/-- The state of a ramp stop before its event: the contexts stopped, then the sections (R123, R124). -/
def State.rampStopped (s : State) : State :=
  { ({ s with admission := .stopped } : State).eachSlot State.stopContext with
    sections := (({ s with admission := .stopped } : State).eachSlot State.stopContext).sections.map SectionRec.stopped }

theorem State.takeRampStop_eq (s : State) (n : Nat) :
    s.takeRampStop n = s.rampStopped.report .rampStop n (allSlots.filter (fun i => (s.ctx i).toldOfStop)).length := by
  unfold State.takeRampStop
  dsimp only
  rw [State.eachSection_stopSection]
  rfl

theorem State.eachSlot_stopContext_admission (s : State) : (s.eachSlot State.stopContext).admission = s.admission :=
  (keeps_admission s.admission).eachSlot (fun _ i h => (keeps_admission s.admission).stopContext i h) rfl

theorem State.rampStopped_admission (s : State) : s.rampStopped.admission = .stopped := by
  unfold State.rampStopped
  dsimp only
  rw [State.eachSlot_stopContext_admission]

theorem State.rampStopped_sec_state (s : State) (x : SectionId) : (s.rampStopped.sec x).state = .isolated := by
  simp [State.rampStopped, State.sec, SectionRec.stopped]

/-! ### Sections (R107) -/

/-- The sections agree where the admission state and every section's state and lockout are as before. -/
theorem State.sectionsAgree_of_same {s t : State} (ha : t.admission = s.admission)
    (hs : ∀ x, (t.sec x).state = (s.sec x).state) (hl : ∀ x, (t.sec x).lockout = (s.sec x).lockout) (h : s.sectionsAgree) :
    t.sectionsAgree := by
  unfold State.sectionsAgree at *
  simp only [ha, hs, hl]
  exact h

theorem State.sectionsAgree_of_sections {s t : State} (ha : t.admission = s.admission) (hs : t.sections = s.sections)
    (h : s.sectionsAgree) : t.sectionsAgree :=
  State.sectionsAgree_of_same ha (fun x => by unfold State.sec; rw [hs]) (fun x => by unfold State.sec; rw [hs]) h

/-- A change of one section record that frees no ISOLATED section and brings none there without its lockout. -/
theorem State.sectionsAgree_modSec {s : State} (x : SectionId) {g : SectionRec → SectionRec}
    (hi : (s.sec x).state ≠ .isolated ∨ ∀ r, r.state = .isolated → (g r).state = .isolated) (hg : Locks g)
    (h : s.sectionsAgree) : (s.modSec x g).sectionsAgree := by
  refine ⟨fun ha y => ?_, fun ha y => ?_⟩ <;> rw [State.modSec_sec] <;> split
  · have hx := h.1 ha x
    exact hi.elim (absurd hx) (fun hi => hi _ hx)
  · exact h.1 ha y
  · intro hy
    rcases hg _ hy with hl | ⟨hx, hl⟩
    · exact hl
    · rw [hl]
      exact h.2 ha x hx
  · exact h.2 ha y

/-- A ramp stop leaves every section ISOLATED and the admission state STOPPED. -/
theorem State.sectionsAgree_of_isolated {s : State} (ha : s.admission ≠ .running) (h : ∀ x, (s.sec x).state = .isolated) :
    s.sectionsAgree :=
  ⟨fun _ => h, fun hr => absurd hr ha⟩

theorem keeps_sectionsAgree : Keeps State.sectionsAgree :=
  Keeps.ofHolders (fun c h => State.sectionsAgree_of_sections c.admission c.sections h)
    (fun _ h => State.sectionsAgree_of_sections (by simp) (by simp) h)
    (fun _ _ h => State.sectionsAgree_of_sections (by simp) (by simp) h)
    (fun c h => State.sectionsAgree_of_same (by rw [c.rest]) c.states c.lockouts h)
    (fun x _ hi hg h => State.sectionsAgree_modSec x hi hg h)
    (fun _ _ _ h => h) (fun _ _ h => h) (fun _ _ h => h) (fun _ _ h => h) (fun h => h) (fun _ _ h => h)

theorem State.sectionsAgree_takeRampStop (s : State) (n : Nat) : (s.takeRampStop n).sectionsAgree := by
  rw [State.takeRampStop_eq]
  exact State.sectionsAgree_of_sections (by simp) (by simp)
    (State.sectionsAgree_of_isolated (by rw [s.rampStopped_admission]; decide) s.rampStopped_sec_state)

theorem State.sectionsAgree_takeRampResume (s : State) : s.takeRampResume.sectionsAgree := by
  rw [State.takeRampResume_eq]
  refine State.sectionsAgree_of_sections (s := { s with admission := .running, sections := s.sections.map SectionRec.resumed })
    (by simp) (by simp) ⟨fun h => absurd rfl h, fun _ x hx => ?_⟩
  have hr : (s.sections.map SectionRec.resumed)[x] = (s.sec x).resumed := by simp [State.sec]
  unfold State.sec at hx ⊢
  dsimp only at hx ⊢
  rw [hr] at hx ⊢
  unfold SectionRec.resumed SectionRec.unlocked at *
  split at hx
  · cases hx
  · next hu =>
    rw [if_neg hu]
    simpa [hx] using hu

theorem State.sectionsAgree_commandEnable {s : State} (x : SectionId) (h : s.sectionsAgree) : (s.commandEnable x).sectionsAgree := by
  unfold State.commandEnable
  refine ⟨fun ha y => ?_, fun ha y => ?_⟩ <;> rw [State.modSec_sec] <;> split
  · have hr : s.admission ≠ .running := ha
    simp [h.1 ha x, hr]
  · exact h.1 ha y
  · have hr : s.admission = .running := ha
    intro hy
    dsimp only at hy
    split at hy
    · cases hy
    · next hn => simp [hy, hr] at hn
  · exact h.2 ha y

theorem keepsAll_sectionsAgree : KeepsAll State.sectionsAgree where
  toKeeps := keeps_sectionsAgree
  sendReply := fun _ h => State.sectionsAgree_of_sections (by simp) (by simp) h
  offerRequest := fun f h => by
    unfold State.offerRequest
    split <;> exact h
  popRequest := fun _ h => h
  popNormal := fun _ h => h
  popC := fun _ h => h
  stopped := fun n _ => State.sectionsAgree_takeRampStop _ n
  resumed := fun _ => State.sectionsAgree_takeRampResume _
  enabled := State.sectionsAgree_commandEnable
  poweredOn := fun _ _ => State.sectionsAgree_of_isolated (fun h => by cases h) (fun x => by simp [State.sec, State.powerOn, SectionRec.reset])
  restarted := fun _ => State.sectionsAgree_of_isolated (by simp [State.restarted])
    (fun x => by simp [State.sec, State.restarted, SectionRec.restarted, SectionRec.reset])
  ticked := fun {s} h => State.sectionsAgree_of_same (s := s) rfl (fun x => by simp [State.sec, State.tick, SectionRec.tick])
    (fun x => by simp [State.sec, State.tick, SectionRec.tick]) h
  setGlobals := fun _ h => h
  setBank := fun k _ h => by cases k <;> exact h
  setClasses := fun _ h => h
  setLine := fun _ h => h
  setPin := fun h => h
  descriptor := fun _ _ _ _ h => h

end Sys2Proof.Machine

open Sys2Proof Sys2Proof.Machine

/-- Settles O1: the front of the queue is the case of `step` that runs a command. -/
theorem stepTakesTheFrontCommand : Obligations.StepTakesTheFrontCommand := by
  intro c rest s
  rfl

/-- Settles O10: of the primitive changes a store and a written descriptor alone touch the memory or a ring's ranges. -/
theorem stepKeepsTheSampleMemory : Obligations.StepKeepsTheSampleMemory := fun _ _ h hs =>
  keepsAll_memorySound.step_keeps (fun _ _ h => h) (fun _ _ h => h) h hs

/-- Settles O11: every change of a queue checks its room or shortens it. -/
theorem stepKeepsTheQueuesBounded : Obligations.StepKeepsTheQueuesBounded := fun _ _ h hs =>
  keepsAll_queuesBounded.step_keeps (fun _ _ h => h) (fun _ _ h => h) h hs

/-- Settles O3: no primitive change touches the queue of commands, and none stops the part. -/
theorem everyCommandEndsInANextState : Obligations.EveryCommandEndsInANextState := fun c _ =>
  (keepsAll_pending _).exec_lands (fun _ _ h => h) c rfl

end

section
/-! PROOFS. The step of an empty queue, and the reset state. -/

namespace Sys2Proof.Machine
open Sys2Proof

/-! ### A millisecond (log 1) -/

@[simp] theorem State.tick_ctx (s : State) (i : Slot) : s.tick.ctx i = (s.ctx i).tick := by simp [State.tick, State.ctx]

@[simp] theorem State.tick_fdr (s : State) (f : FeederId) : s.tick.fdr f = (s.fdr f).tick := by simp [State.tick, State.fdr]

@[simp] theorem State.tick_sec (s : State) (x : SectionId) : s.tick.sec x = (s.sec x).tick := by simp [State.tick, State.sec]

@[simp] theorem State.tick_meter (s : State) (f : FeederId) : s.tick.meter f = (s.meter f).tick := by simp [State.tick, State.meter]

/-- With no command waiting and the pin released, the part's own next step or a millisecond. -/
theorem step_empty {s : State} (hq : s.pending = []) (hp : s.resetPin = false) :
    step s = match s.ownStep with
      | some i => exec i s
      | none => .next s.tick := by
  unfold step State.idle
  rw [hq, hp]
  rfl

/-! ### The reset state -/

theorem State.reset_ctx (i : Slot) : State.reset.ctx i = Context.freed := by
  simp [State.reset, State.powerOn, State.ctx]

theorem State.reset_fdr (f : FeederId) : State.reset.fdr f = Feeder.reset := by
  simp [State.reset, State.powerOn, State.fdr]

/-- A state whose slots are all FREE and whose feeders have no lists. -/
structure State.Vacant (s : State) : Prop where
  ctx : ∀ i, s.ctx i = Context.freed
  committed : ∀ f, (s.fdr f).committed = 0
  load : ∀ x, s.load x = 0
  order : ∀ f, (s.fdr f).grantOrder = []
  waits : ∀ f l, (s.fdr f).wait l = []

namespace State.Vacant
variable {s : State}

theorem wait1 (h : s.Vacant) (f : FeederId) : (s.fdr f).wait1 = [] := h.waits f .one

theorem wait2 (h : s.Vacant) (f : FeederId) : (s.fdr f).wait2 = [] := h.waits f .two

theorem entryCount (h : s.Vacant) (i : Slot) : s.entryCount i = 0 := by
  unfold State.entryCount
  simp [h.wait1, h.wait2]

theorem budgetsAgree (h : s.Vacant) : s.budgetsAgree := by
  refine ⟨fun f => ?_, fun x => ?_⟩
  · rw [h.committed]
    simp [State.feederSum, h.ctx, Context.onFeeder, Context.freed, GapFields.clear, GapFields.reserved, heldOn]
  · rw [h.load]
    simp [State.sectionSum, h.ctx, Context.inSection, Context.freed, GapFields.clear, GapFields.reserved, heldIn]

theorem contextsFit (h : s.Vacant) : s.contextsFit := by
  refine ⟨fun i => ?_, fun i j ht => absurd (by rw [h.ctx]; rfl) ht⟩
  unfold State.contextFits
  rw [h.entryCount, h.ctx]
  simp [Context.freed, GapFields.clear]

theorem listsFit (h : s.Vacant) : s.listsFit := by
  refine fun f => ⟨?_, fun i => ?_, fun l => ?_⟩
  · rw [h.order]
    exact List.nodup_nil
  · rw [h.order, h.ctx]
    simp [Context.freed]
  · rw [h.waits]
    exact ⟨List.Pairwise.nil, fun e he => absurd he List.not_mem_nil⟩

end State.Vacant

theorem State.reset_vacant : State.reset.Vacant where
  ctx := State.reset_ctx
  committed := fun f => by rw [State.reset_fdr]; rfl
  load := fun x => by simp [State.reset, State.powerOn, State.load]
  order := fun f => by rw [State.reset_fdr]; rfl
  waits := fun f l => by rw [State.reset_fdr]; cases l <;> rfl

end Sys2Proof.Machine

open Sys2Proof Sys2Proof.Machine

/-- Settles O2: the idle step by its three cases; a millisecond maps every record to its own tick. -/
theorem emptyQueueIdles : Obligations.EmptyQueueIdles := by
  intro s hq
  refine ⟨fun hp => ?_, fun hp i hi => ?_, fun hp hi => ⟨s.tick, ?_, rfl, fun i => ?_, fun f => ?_, fun x => ?_⟩⟩
  · unfold step State.idle
    rw [hq]
    exact if_pos hp
  · rw [step_empty hq hp, hi]
  · rw [step_empty hq hp, hi]
  · rw [State.tick_ctx]
    exact ⟨rfl, rfl, rfl, rfl, rfl, rfl, rfl, rfl, rfl⟩
  · rw [State.tick_fdr, State.tick_meter]
    exact ⟨rfl, rfl, rfl, rfl, rfl⟩
  · rw [State.tick_sec]
    exact ⟨rfl, rfl, rfl, rfl⟩

/-- Settles O9: the reset state is vacant, HALTED with every section ISOLATED, its rings as after a hard reset. -/
theorem resetStateIsSound : Obligations.ResetStateIsSound := by
  refine ⟨⟨rfl, fun p hp => absurd hp List.not_mem_nil⟩, fun f => ?_, ?_, State.reset_vacant.budgetsAgree,
    State.sectionsAgree_of_isolated (fun h => by cases h) fun x => ?_, State.reset_vacant.contextsFit,
    State.reset_vacant.listsFit, .inl rfl⟩
  · have hr : State.reset.ring f = Ring.reset := by simp [State.reset, State.powerOn, State.ring]
    exact hr ▸ Ring.reset_sound
  · unfold State.queuesBounded
    decide
  · simp [State.reset, State.powerOn, State.sec, SectionRec.reset]

/-- Settles O16: the check value of the generator, computed. -/
theorem checkOfTheNineDigits : Obligations.CheckOfTheNineDigits := by
  unfold Obligations.CheckOfTheNineDigits
  decide +kernel

end

section
/-! PROOFS. The links: the receive assemblers byte by byte, and the acceptance of frames (Chapter 8, R153). -/

namespace Sys2Proof.Machine
open Sys2Proof

/-! ### The lines -/

theorem whileOutOfReset_of_released {s : State} (hp : s.resetPin = false) (run : State → State) :
    whileOutOfReset s run = .next (run s) := by
  simp [whileOutOfReset, hp]

/-- Out of reset a line that the part does not drive is heard. -/
theorem whileListening_of_idle {l : Link} {s : State} (hp : s.resetPin = false) (hd : s.drives l = false) (run : State → State) :
    whileListening l s run = .next (run s) := by
  simp [whileListening, whileOutOfReset, hp, hd]

/-- A line that the part drives is not heard. -/
theorem whileListening_of_driven {l : Link} {s : State} (hd : s.drives l = true) (run : State → State) :
    whileListening l s run = .next s := by
  simp [whileListening, whileOutOfReset, hd]

theorem State.drives_iff (s : State) (l : Link) :
    s.drives l = true ↔ (l = .w ∧ s.wSending ≠ none) ∨ (l = .c ∧ s.cSending ≠ none) := by
  cases l <;> simp [State.drives, Option.isSome_iff_ne_none]

theorem State.drives_eq_false_iff (s : State) (l : Link) :
    s.drives l = false ↔ ¬((l = .w ∧ s.wSending ≠ none) ∨ (l = .c ∧ s.cSending ≠ none)) := by
  rw [← State.drives_iff, Bool.not_eq_true]

/-! ### The assembler of a link -/

@[simp] theorem State.asm_setAsm (s : State) (l : Link) (a : Assembler) : (s.setAsm l a).asm l = a := by cases l <;> rfl

@[simp] theorem State.setAsm_setAsm (s : State) (l : Link) (a b : Assembler) : (s.setAsm l a).setAsm l b = s.setAsm l b := by
  cases l <;> rfl

@[simp] theorem State.setAsm_asm (s : State) (l : Link) : s.setAsm l (s.asm l) = s := by cases l <;> rfl

@[simp] theorem State.asm_modLink (s : State) (l : Link) (g : LinkCounters → LinkCounters) : (s.modLink l g).asm l = s.asm l := by
  cases l <;> rfl

theorem State.setAsm_of_asm {s : State} {l : Link} {a : Assembler} (h : s.asm l = a) : s.setAsm l a = s := by
  rw [← h, State.setAsm_asm]

theorem State.endRunt_of_hunt {s : State} {l : Link} (h : (s.asm l).phase = .hunt) : s.endRunt l = s := by
  simp [State.endRunt, h]

theorem State.endRunt_of_busy {s : State} {l : Link} (h : (s.asm l).phase ≠ .hunt) :
    s.endRunt l = (s.setAsm l Assembler.hunting).countRunt l := by
  simp [State.endRunt, h]

theorem State.endLate_of_hunt {s : State} {l : Link} (h : (s.asm l).phase = .hunt) : s.endLate l = s := by
  simp [State.endLate, Assembler.late, h]

theorem State.endLate_of_soon {s : State} {l : Link} (h : (s.asm l).watch ≤ 400) : s.endLate l = s := by
  simp [State.endLate, Assembler.late, h]

theorem State.endLate_of_late {s : State} {l : Link} (h : (s.asm l).phase ≠ .hunt) (hw : 400 < (s.asm l).watch) :
    s.endLate l = s.endRunt l := by
  simp [State.endLate, Assembler.late, h, hw]

/-! ### A run of bytes -/

theorem State.feedFor_nil (l : Link) (n : Nat) (s : State) : State.feedFor l n s [] = s := by cases n <;> rfl

/-- The assembler after a run of bytes none of which completes or fails a frame. -/
def Assembler.takeAll (a : Assembler) : List Byte → Option Assembler
  | [] => some a
  | b :: bs =>
    match a.take b with
    | .going c => c.takeAll bs
    | .complete _ => none
    | .failed _ => none

theorem Assembler.takeAll_append {a b : Assembler} {xs : List Byte} (h : a.takeAll xs = some b) (ys : List Byte) :
    a.takeAll (xs ++ ys) = b.takeAll ys := by
  induction xs generalizing a with
  | nil => cases h; rfl
  | cons x xs ih =>
    simp only [Assembler.takeAll, List.cons_append] at h ⊢
    split at h
    · exact ih h
    · cases h
    · cases h

/-- Such a run leaves the assembler, and the bytes behind it are taken next. -/
theorem State.feedFor_takeAll {l : Link} {bs : List Byte} {a : Assembler} (n : Nat) (rest : List Byte) :
    ∀ s : State, (s.asm l).takeAll bs = some a → State.feedFor l (n + bs.length) s (bs ++ rest) = State.feedFor l n (s.setAsm l a) rest := by
  induction bs with
  | nil => intro s h; cases h; rw [State.setAsm_asm]; rfl
  | cons b bs ih =>
    intro s h
    simp only [Assembler.takeAll] at h
    split at h
    · next c hc =>
      simp only [List.length_cons, List.cons_append, ← Nat.add_assoc, State.feedFor, hc]
      rw [ih _ (by rw [State.asm_setAsm]; exact h), State.setAsm_setAsm]
    · cases h
    · cases h

/-- In HUNT the bytes that are no marker are dropped (R142). -/
theorem Assembler.hunting_takeAll {bs : List Byte} (h : markerByte ∉ bs) : Assembler.hunting.takeAll bs = some Assembler.hunting := by
  induction bs with
  | nil => rfl
  | cons b bs ih =>
    rw [List.mem_cons, not_or] at h
    obtain ⟨hb, hbs⟩ := h
    simp only [Assembler.takeAll, Assembler.take, Assembler.hunting, if_neg (Ne.symm hb)]
    exact ih hbs

/-- A marker in HUNT begins a header (R142). -/
theorem Assembler.take_marker {a : Assembler} (h : a.phase = .hunt) : a.take markerByte = .going { phase := .header, held := [], watch := 0 } := by
  simp [Assembler.take, h]

/-- A header byte before the fifth is held (R142). -/
theorem Assembler.take_header {a : Assembler} (h : a.phase = .header) (hl : a.held.length < 4) (b : Byte) :
    a.take b = .going { phase := .header, held := a.held ++ [b], watch := 0 } := by
  simp [Assembler.take, h, show a.held.length + 1 < 5 by omega]

theorem payloadLength_append {held : List Byte} (h : 5 ≤ held.length) (bs : List Byte) :
    payloadLength (held ++ bs) = payloadLength held := by
  unfold payloadLength
  rw [List.getD_append _ _ _ _ (by omega)]

/-- The bytes of a payload are held until the last of them is there (R142). -/
theorem Assembler.takeAll_payload (bs : List Byte) : ∀ (held : List Byte) (w : Nat), bs ≠ [] → 5 ≤ held.length →
    held.length + bs.length = 5 + payloadLength held →
    Assembler.takeAll { phase := .payload, held := held, watch := w } bs = some { phase := .check, held := held ++ bs, watch := 0 } := by
  induction bs with
  | nil => exact fun _ _ h => absurd rfl h
  | cons b bs ih =>
    intro held w _ h5 hl
    rw [List.length_cons] at hl
    simp only [Assembler.takeAll, Assembler.take, List.length_append, List.length_singleton, payloadLength_append h5]
    by_cases hb : bs = []
    · subst hb
      rw [if_neg (by simp only [List.length_nil] at hl; omega)]
      rfl
    · have hpos := List.length_pos_iff.2 hb
      rw [if_pos (by omega)]
      dsimp only
      rw [ih _ _ hb (by rw [List.length_append]; omega) (by rw [payloadLength_append h5, List.length_append, List.length_singleton]; omega)]
      simp

/-- The check bytes are held until the last of them is there (R142). -/
theorem Assembler.takeAll_check (bs : List Byte) : ∀ (held : List Byte) (w : Nat), 5 ≤ held.length →
    held.length + bs.length < 9 + payloadLength held →
    ∃ v, Assembler.takeAll { phase := .check, held := held, watch := w } bs = some { phase := .check, held := held ++ bs, watch := v } := by
  induction bs with
  | nil => exact fun held w _ _ => ⟨w, by simp [Assembler.takeAll]⟩
  | cons b bs ih =>
    intro held w h5 hl
    rw [List.length_cons] at hl
    simp only [Assembler.takeAll, Assembler.take, List.length_append, List.length_singleton, payloadLength_append h5]
    rw [if_pos (by omega)]
    obtain ⟨v, hv⟩ := ih (held ++ [b]) 0 (by simp; omega)
      (by rw [payloadLength_append h5]; simp only [List.length_append, List.length_singleton]; omega)
    exact ⟨v, by dsimp only; rw [hv]; simp⟩

/-- From a marker in HUNT to the last byte of a frame that is no longer than 240 bytes, nothing is complete (R142). -/
theorem Assembler.takeAll_frame {a : Assembler} (h : a.phase = .hunt) {kind dest src tag len : Byte} {payload check : List Byte}
    (hlen : payload.length = len.toNat) (h240 : len.toNat ≤ 240) (hc : check.length < 4) :
    ∃ v, a.takeAll (markerByte :: kind :: dest :: src :: tag :: len :: (payload ++ check)) =
      some { phase := .check, held := kind :: dest :: src :: tag :: len :: (payload ++ check), watch := v } := by
  have hp : ∀ bs, payloadLength (kind :: dest :: src :: tag :: len :: bs) = len.toNat := fun _ => rfl
  have hh : ∀ bs, a.takeAll (markerByte :: kind :: dest :: src :: tag :: len :: bs)
      = Assembler.takeAll { phase := .header, held := [kind, dest, src, tag], watch := 0 } (len :: bs) := by
    intro bs
    simp only [Assembler.takeAll, Assembler.take_marker h]
    rfl
  rw [hh]
  simp only [Assembler.takeAll, Assembler.take, List.cons_append, List.nil_append]
  rw [if_neg (by simp)]
  unfold afterHeader
  rw [hp, if_neg (by omega)]
  by_cases h0 : len.toNat = 0
  · rw [h0, List.length_eq_zero_iff] at hlen
    subst hlen
    rw [if_pos h0]
    exact Assembler.takeAll_check check [kind, dest, src, tag, len] 0 (by simp) (by rw [hp]; simp; omega)
  · rw [if_neg h0]
    dsimp only
    rw [Assembler.takeAll_append (Assembler.takeAll_payload payload [kind, dest, src, tag, len] 0
      (by rintro rfl; exact h0 (by simpa using hlen.symm)) (by simp) (by rw [hp, hlen]; rfl))]
    exact Assembler.takeAll_check check ([kind, dest, src, tag, len] ++ payload) 0 (by simp)
      (by rw [List.cons_append, List.cons_append, List.cons_append, List.cons_append, List.cons_append, hp]
          simp only [List.length_cons, List.nil_append]; omega)

/-- The last check byte of a frame tests the check (R141, R142). -/
theorem Assembler.take_last {kind dest src tag len : Byte} {payload check : List Byte} {w : Nat} (b : Byte)
    (hlen : payload.length = len.toNat) (hc : check.length = 3) :
    Assembler.take { phase := .check, held := kind :: dest :: src :: tag :: len :: (payload ++ check), watch := w } b =
      if checkBytes (kind :: dest :: src :: tag :: len :: payload) = check ++ [b] then .complete ⟨kind, dest, src, tag, payload⟩
      else .failed (kind :: dest :: src :: tag :: len :: (payload ++ check ++ [b])) := by
  have hp : ∀ bs, payloadLength (kind :: dest :: src :: tag :: len :: bs) = len.toNat := fun _ => rfl
  have htake : ∀ bs : List Byte, (kind :: dest :: src :: tag :: len :: (payload ++ bs)).take (5 + len.toNat)
      = kind :: dest :: src :: tag :: len :: payload := by
    intro bs
    rw [Nat.add_comm, ← hlen]
    simp
  have hdrop : ∀ bs : List Byte, (kind :: dest :: src :: tag :: len :: (payload ++ bs)).drop (5 + len.toNat) = bs := by
    intro bs
    rw [Nat.add_comm, ← hlen]
    simp
  simp only [Assembler.take, List.cons_append, hp]
  rw [if_neg (by simp only [List.length_cons, List.length_append, List.length_nil]; omega)]
  unfold afterCheck
  simp only [hp, List.append_assoc, htake, hdrop, frameOfBody, hlen, if_true]

/-! ### The fuel of a run (R142) -/

/-- The square of the number of bytes at hand bounds a run over them twice. -/
theorem le_feed_fuel {m n : Nat} (h : m ≤ 2 * n + 2) (k : Nat) : ∃ d, (k + n + 2) * (k + n + 2) = d + m := by
  refine ⟨(k + n + 2) * (k + n + 2) - m, ?_⟩
  have : 2 * (k + n + 2) ≤ (k + n + 2) * (k + n + 2) := Nat.mul_le_mul_right _ (by omega)
  omega

end Sys2Proof.Machine
end

section
/-! PROOFS. Frames and requests on the line: a frame's bytes, the wire form of requests, and what each link does with a frame. -/

namespace Sys2Proof.Machine
open Sys2Proof

/-! ### A frame byte by byte (R141, R142) -/

theorem State.feedFor_complete {l : Link} {s : State} {b : Byte} {f : Frame} (h : (s.asm l).take b = .complete f) (n : Nat)
    (rest : List Byte) : State.feedFor l (n + 1) s (b :: rest) = State.feedFor l n ((s.setAsm l Assembler.hunting).receiveFrame l f) rest := by
  simp only [State.feedFor, h]

theorem State.feedFor_failed {l : Link} {s : State} {b : Byte} {bs : List Byte} (h : (s.asm l).take b = .failed bs) (n : Nat)
    (rest : List Byte) : State.feedFor l (n + 1) s (b :: rest) = State.feedFor l n ((s.setAsm l Assembler.hunting).countCheckError l) (bs ++ rest) := by
  simp only [State.feedFor, h]

/-- A frame of up to 240 bytes and any four check bytes: taken in order from HUNT, the last byte decides. -/
theorem State.feedFor_frame {l : Link} {s : State} (h : (s.asm l).phase = .hunt) {kind dest src tag len : Byte}
    {payload check : List Byte} (last : Byte) (hlen : payload.length = len.toNat) (h240 : len.toNat ≤ 240) (hc : check.length = 3)
    (d : Nat) (rest : List Byte) :
    State.feedFor l (d + 1 + (9 + payload.length)) s (markerByte :: kind :: dest :: src :: tag :: len :: (payload ++ check) ++ last :: rest) =
      if checkBytes (kind :: dest :: src :: tag :: len :: payload) = check ++ [last] then
        State.feedFor l d ((s.setAsm l Assembler.hunting).receiveFrame l ⟨kind, dest, src, tag, payload⟩) rest
      else State.feedFor l d ((s.setAsm l Assembler.hunting).countCheckError l)
        (kind :: dest :: src :: tag :: len :: (payload ++ check ++ [last]) ++ rest) := by
  obtain ⟨v, hv⟩ := Assembler.takeAll_frame h (kind := kind) (dest := dest) (src := src) (tag := tag) hlen h240
    (check := check) (by omega)
  have hn : (markerByte :: kind :: dest :: src :: tag :: len :: (payload ++ check)).length = 9 + payload.length := by
    simp only [List.length_cons, List.length_append]
    omega
  have hl := Assembler.take_last (kind := kind) (dest := dest) (src := src) (tag := tag) (w := v) last hlen hc
  rw [← hn, State.feedFor_takeAll _ _ _ hv]
  split
  · next he =>
    rw [if_pos he] at hl
    rw [State.feedFor_complete (by rw [State.asm_setAsm]; exact hl), State.setAsm_setAsm]
  · next he =>
    rw [if_neg he] at hl
    rw [State.feedFor_failed (by rw [State.asm_setAsm]; exact hl), State.setAsm_setAsm]

/-! ### Two-byte fields (R146) -/

/-- A two-byte field is read back from its bytes. -/
@[simp] theorem wordOf_bytes (w : Word) : wordOf (hiByte w) (loByte w) = w := by
  unfold wordOf hiByte loByte
  ext i hi
  simp only [BitVec.getElem_append, BitVec.getElem_extractLsb']
  split
  · rw [Nat.zero_add]
    exact BitVec.getLsbD_eq_getElem hi
  · next h =>
    rw [show 8 + (i - 8) = i by omega]
    exact BitVec.getLsbD_eq_getElem hi

@[simp] theorem sectionWireOf_bytes (e : SectionWire) : sectionWireOf e.bytes = some e := by
  simp [SectionWire.bytes, be16, sectionWireOf]

@[simp] theorem gapWireOf_bytes (e : GapWire) : gapWireOf e.bytes = some e := by
  simp [GapWire.bytes, be16, gapWireOf]

@[simp] theorem feederWireOf_bytes (e : FeederWire) : feederWireOf e.bytes = some e := by
  simp [FeederWire.bytes, be16, feederWireOf]

@[simp] theorem classWireOf_bytes (e : ClassWire) : classWireOf e.bytes = some e := by
  simp [ClassWire.bytes, be16, classWireOf]

@[simp] theorem ringWireOf_bytes (e : RingWire) : ringWireOf e.bytes = some e := by
  simp [RingWire.bytes, be16, ringWireOf]

/-! ### Requests (9.2.2) -/

/-- The kind and payload of every well-formed request but a malformed one spell it. -/
theorem catalogueOf_frameOfRequest {i : Instr} {addr : Byte} {f : Frame} (hw : i.wellFormed = true)
    (hf : frameOfRequest addr i = some f) (hu : ∀ c k p, i ≠ .unknownRequestKind c k p) :
    catalogueOf ⟨f.src, f.tag⟩ f.kind f.payload = some i := by
  cases i <;> simp only [frameOfRequest, requestFrameTo, Option.some.injEq, reduceCtorEq] at hf <;> subst hf
  case unknownRequestKind c k p => exact absurd rfl (hu c k p)
  case tableWriteSection c b n e => exact congrArg (Option.map _) (sectionWireOf_bytes e)
  case tableWriteGap c b n e => exact congrArg (Option.map _) (gapWireOf_bytes e)
  case tableWriteFeeder c b n e => exact congrArg (Option.map _) (feederWireOf_bytes e)
  case tableWriteClass c b n e => exact congrArg (Option.map _) (classWireOf_bytes e)
  case tableWriteRing c b n e => exact congrArg (Option.map _) (ringWireOf_bytes e)
  case tableWriteGlobal c b n v => exact congrArg (fun w => some (Instr.tableWriteGlobal c b n w)) (wordOf_bytes v)
  case historyRead c f o n => exact congrArg (fun w => some (Instr.historyRead c f w n)) (wordOf_bytes o)
  case bankSwap c force =>
    have hn : force ≠ 1 := of_decide_eq_true hw
    exact congrArg some (if_neg hn)
  case passData c t p => exact if_pos (of_decide_eq_true hw)
  all_goals rfl

/-- A malformed request is one that no row of the catalogue names. -/
theorem requestOfFrame_malformed {c : Caller} {addr kind : Byte} {payload : List Byte}
    (h : (Instr.unknownRequestKind c kind payload).wellFormed = true) :
    requestOfFrame ⟨kind, addr, c.src, c.seq, payload⟩ = .unknownRequestKind c kind payload := by
  obtain ⟨_, hn⟩ := Bool.and_eq_true_iff.1 h
  unfold requestOfFrame
  rw [show (⟨c.src, c.seq⟩ : Caller) = c from rfl, Option.isNone_iff_eq_none.1 hn]
  rfl

/-- The frame of a well-formed request is read back as that request. -/
theorem requestOfFrame_frameOfRequest {i : Instr} {addr : Byte} {f : Frame} (hw : i.wellFormed = true)
    (hf : frameOfRequest addr i = some f) : requestOfFrame f = i := by
  by_cases hu : ∃ c k p, i = .unknownRequestKind c k p
  · obtain ⟨c, k, p, rfl⟩ := hu
    cases hf
    exact requestOfFrame_malformed hw
  · unfold requestOfFrame
    rw [catalogueOf_frameOfRequest hw hf fun c k p h => hu ⟨c, k, p, h⟩]
    rfl

/-! ### Frames of the field stations (R143, R145) -/

theorem whileListening_congr {l : Link} {s : State} {g h : State → State} (e : ∀ u, g u = h u) :
    whileListening l s g = whileListening l s h := by rw [funext e]

@[simp] theorem headingOf_code (h : Heading) : headingOf (byte (headingCode h)) = some h := by cases h <;> rfl

@[simp] theorem pantographOf_code (p : Pantograph) : pantographOf (byte (pantographCode p)) = some p := by cases p <;> rfl

@[simp] theorem breakerOf_code (b : Breaker) : breakerOf (byte (breakerCode b)) = some b := by cases b <;> rfl

@[simp] theorem flagOf_flagByte (b : Bool) : flagOf (flagByte b) = some b := by cases b <;> rfl

theorem sectionOfByte_some {b : Byte} (h : b.toNat ≤ 63) : sectionOfByte b = some ⟨b.toNat, by omega⟩ := dif_pos (by omega)

/-- The frame of a truck that passes the tests of R143. -/
theorem receiveFrame_truck {s : State} {truck : Byte} (h : isTruckAddress truck = true) {kind tag : Byte} {payload : List Byte}
    {w : WFrame} (hw : truckFrameOf ⟨kind, 0, truck, tag, payload⟩ = some w) :
    s.receiveFrame .w ⟨kind, 0, truck, tag, payload⟩ = (s.countGood .w).dispatchW w := by
  have hf : wFrameOf ⟨kind, 0, truck, tag, payload⟩ = some w := by
    unfold wFrameOf
    rw [if_neg (by simp), if_pos h, hw]
  show s.receiveW _ = _
  unfold State.receiveW
  rw [hf]

theorem fromTruck_truck {s : State} {truck : Byte} (h : isTruckAddress truck = true) (w : WFrame) :
    s.fromTruck truck w = ((s.endRunt .w).countGood .w).dispatchW w := if_pos h

/-- A section switch unit is no truck. -/
theorem wFrameOf_status {x : Byte} (hx : x.toNat ≤ 63) (c v f : Bool) :
    wFrameOf ⟨0x31, 0, 128 + x, 0, [x, flagByte c, flagByte v, flagByte f]⟩ =
      some (.sst ⟨x.toNat, by omega⟩ { closed := c, voltage := v, fault := f }) := by
  have hs : (128 + x).toNat = 128 + x.toNat := by
    rw [BitVec.toNat_add]
    exact Nat.mod_eq_of_lt (show 128 + x.toNat < 256 by omega)
  have ht : isTruckAddress (128 + x) = false := by
    exact decide_eq_false (by rw [hs]; omega)
  unfold wFrameOf
  dsimp only
  rw [if_neg (by simp), ht, if_neg (by simp), if_pos (by rw [hs]; omega)]
  unfold ssuFrameOf statusOf
  simp [sectionOfByte_some hx]
  omega

theorem feederOfByte_some {b : Byte} (h : b.toNat ≤ 15) : feederOfByte b = some ⟨b.toNat, by omega⟩ := dif_pos (by omega)

end Sys2Proof.Machine

open Sys2Proof Sys2Proof.Machine

/-- Settles O17: the assembler holds every byte of the frame until the last check byte completes it. -/
theorem frameBytesAreReceivedAsTheFrame : Obligations.FrameBytesAreReceivedAsTheFrame := by
  intro l f s hp hh
  obtain ⟨kind, dest, src, tag, payload⟩ := f
  have hlen : (byte payload.length).toNat = payload.length := by
    unfold byte
    rw [BitVec.toNat_ofNat]
    exact Nat.mod_eq_of_lt (by dsimp only at hp; omega)
  obtain ⟨a, b, c, d, hk⟩ : ∃ a b c d, checkBytes (kind :: dest :: src :: tag :: byte payload.length :: payload) = [a, b, c, d] :=
    ⟨_, _, _, _, rfl⟩
  have hb : Frame.bytes ⟨kind, dest, src, tag, payload⟩ =
      markerByte :: kind :: dest :: src :: tag :: byte payload.length :: (payload ++ [a, b, c]) ++ [d] := by
    simp [Frame.bytes, Frame.body, hk]
  unfold State.feed
  obtain ⟨m, hm⟩ := le_feed_fuel (m := 10 + payload.length)
    (n := (Frame.bytes ⟨kind, dest, src, tag, payload⟩).length) (by rw [hb]; simp; omega) (s.asm l).held.length
  dsimp only
  rw [hm, hb, show m + (10 + payload.length) = m + 1 + (9 + payload.length) by omega,
    State.feedFor_frame hh d hlen.symm (by rw [hlen]; exact hp) rfl m [], if_pos (by rw [hk]; rfl), State.feedFor_nil]

/-- Settles O18: the layout of each request spells it again, and its destination is the part's address. -/
theorem requestsSurviveTheWire : Obligations.RequestsSurviveTheWire := fun _ _ _ hw hf =>
  ⟨requestOfFrame_frameOfRequest hw hf, dest_of_frameOfRequest hf⟩

/-- Settles O19: by the row; the frame of each passes the tests of its link with the operands of the row. -/
theorem stationFramesAreTheirCommands : Obligations.StationFramesAreTheirCommands := by
  intro i l f s hw hf
  cases i <;> simp only [linkFrame, Option.some.injEq, Prod.mk.injEq, reduceCtorEq] at hf <;> obtain ⟨rfl, rfl⟩ := hf
  case psn t g c h p b d =>
    unfold exec execForeignFrame execPsn
    refine whileListening_congr fun u => ?_
    rw [fromTruck_truck hw]
    exact receiveFrame_truck hw (by simp [truckFrameOf, be16, reportOf])
  case drq t g r m h =>
    unfold exec execForeignFrame execDrq
    refine whileListening_congr fun u => ?_
    rw [fromTruck_truck hw]
    exact receiveFrame_truck hw (by simp [truckFrameOf, be16, termsOf])
  case acc t g =>
    unfold exec execForeignFrame execAcc
    refine whileListening_congr fun u => ?_
    rw [fromTruck_truck hw]
    exact receiveFrame_truck hw rfl
  case rel t g =>
    unfold exec execForeignFrame execRel
    refine whileListening_congr fun u => ?_
    rw [fromTruck_truck hw]
    exact receiveFrame_truck hw rfl
  case dat t g p =>
    unfold exec execForeignFrame execDat
    obtain ⟨ht, hp⟩ := Bool.and_eq_true_iff.1 hw
    refine whileListening_congr fun u => ?_
    rw [if_pos hp, fromTruck_truck ht]
    exact receiveFrame_truck ht rfl
  case sst x c v b =>
    unfold exec execForeignFrame execSst
    have hx : x.toNat ≤ 63 := of_decide_eq_true hw
    refine whileListening_congr fun u => ?_
    rw [sectionOfByte_some hx]
    dsimp only [State.receiveFrame]
    unfold State.receiveW
    rw [wFrameOf_status hx]
  case smp x g c v b =>
    unfold exec execForeignFrame execSmp
    have hx : x.toNat ≤ 15 := of_decide_eq_true hw
    refine whileListening_congr fun u => ?_
    rw [feederOfByte_some hx]
    dsimp only [State.receiveFrame]
    unfold State.receiveM
    simp [sampleOf, be16, feederOfByte_some hx]

end

section
/-! PROOFS. Markers, gaps and failed checks in the receive assemblers, and the frames that fail acceptance (R142, R143, R145). -/

namespace Sys2Proof.Machine
open Sys2Proof

/-! ### Markers, gaps and failed checks (R142) -/

/-- A run of bytes that completes and fails no frame leaves the assembler alone changed. -/
theorem State.feed_takeAll {l : Link} {s : State} {bs : List Byte} {a : Assembler} (h : (s.asm l).takeAll bs = some a) :
    s.feed l bs = s.setAsm l a := by
  obtain ⟨d, hd⟩ := le_feed_fuel (m := bs.length) (n := bs.length) (by omega) (s.asm l).held.length
  have := State.feedFor_takeAll d [] s h
  rw [List.append_nil, State.feedFor_nil] at this
  unfold State.feed
  dsimp only
  rw [hd, this]

theorem State.feed_marker {l : Link} {s : State} (h : (s.asm l).phase = .hunt) :
    s.feed l [markerByte] = s.setAsm l { phase := .header, held := [], watch := 0 } :=
  State.feed_takeAll (by simp only [Assembler.takeAll, Assembler.take_marker h])

theorem exec_marker {l : Link} {s : State} (hp : s.resetPin = false) (hd : s.drives l = false) :
    exec (.marker l) s = .next ((s.endLate l).feed l [markerByte]) := by
  unfold exec execMarker
  exact whileListening_of_idle hp hd _

theorem exec_checkError {l : Link} {s : State} (hp : s.resetPin = false) (hd : s.drives l = false) (bs : List Byte) :
    exec (.checkError l bs) s = .next ((s.endLate l).feedFrame l bs) := by
  unfold exec execCheckError
  exact whileListening_of_idle hp hd _

theorem exec_runt {l : Link} {s : State} (hp : s.resetPin = false) : exec (.runt l) s = .next (s.endRunt l) := by
  unfold exec execRunt
  exact whileOutOfReset_of_released hp _

theorem exec_foreignFrame {l : Link} {s : State} (hp : s.resetPin = false) (hd : s.drives l = false) (f : Frame) :
    exec (.foreignFrame l f) s = .next ((s.endRunt l).receiveFrame l f) := by
  unfold exec execForeignFrame
  exact whileListening_of_idle hp hd _

theorem exec_requestFrame {s : State} (hp : s.resetPin = false) (hd : s.drives .c = false) (f : Frame) :
    exec (.requestFrame f) s = .next ((s.endRunt .c).receiveC f) := by
  unfold exec execRequestFrame
  exact whileListening_of_idle hp hd _

/-- A frame of a field station is not heard while the part drives its link. -/
theorem exec_linkFrame_driven {i : Instr} {l : Link} {f : Frame} {s : State} (hf : linkFrame i = some (l, f)) (hd : s.drives l = true) :
    exec i s = .next s := by
  cases i <;> simp only [linkFrame, Option.some.injEq, Prod.mk.injEq, reduceCtorEq] at hf <;> obtain ⟨rfl, _⟩ := hf <;> unfold exec
  case psn => exact whileListening_of_driven hd _
  case drq => exact whileListening_of_driven hd _
  case acc => exact whileListening_of_driven hd _
  case rel => exact whileListening_of_driven hd _
  case dat => exact whileListening_of_driven hd _
  case sst => exact whileListening_of_driven hd _
  case smp => exact whileListening_of_driven hd _

/-- After a failed frame whose bytes hold no marker the assembler is in HUNT (R142). -/
theorem State.feedFor_failed_hunt {l : Link} {s : State} {bs : List Byte} (h : markerByte ∉ bs) (n : Nat) :
    State.feedFor l (n + bs.length) ((s.setAsm l Assembler.hunting).countCheckError l) bs
      = (s.setAsm l Assembler.hunting).countCheckError l := by
  have ha : (((s.setAsm l Assembler.hunting).countCheckError l).asm l) = Assembler.hunting := by
    unfold State.countCheckError
    rw [State.asm_modLink, State.asm_setAsm]
  have := State.feedFor_takeAll n [] ((s.setAsm l Assembler.hunting).countCheckError l) (by rw [ha]; exact Assembler.hunting_takeAll h)
  rw [List.append_nil, State.feedFor_nil] at this
  rw [this, State.setAsm_of_asm ha]

/-- A header with a payload length above 240 fails (R142). -/
theorem State.feedFor_long {l : Link} {s : State} (h : (s.asm l).phase = .hunt) {kind dest src tag len : Byte} (h240 : 240 < len.toNat)
    (d : Nat) : State.feedFor l (d + 1 + 5) s [markerByte, kind, dest, src, tag, len] =
      State.feedFor l d ((s.setAsm l Assembler.hunting).countCheckError l) [kind, dest, src, tag, len] := by
  have ht : (s.asm l).takeAll [markerByte, kind, dest, src, tag] = some { phase := .header, held := [kind, dest, src, tag], watch := 0 } := by
    simp only [Assembler.takeAll, Assembler.take_marker h]
    rfl
  have hf : Assembler.take { phase := .header, held := [kind, dest, src, tag], watch := 0 } len = .failed [kind, dest, src, tag, len] := by
    simp only [Assembler.take, List.cons_append, List.nil_append]
    rw [if_neg (by simp)]
    exact if_pos h240
  have := State.feedFor_takeAll (d + 1) [len] s ht
  rw [State.feedFor_failed (by rw [State.asm_setAsm]; exact hf), State.setAsm_setAsm] at this
  exact this

/-! ### Frames that fail acceptance (R143, R145) -/

theorem receiveW_foreign {s : State} {f : Frame} (h : wFrameOf f = none) : s.receiveW f = s.countForeign .w := by
  unfold State.receiveW
  rw [h]

theorem receiveM_foreign {s : State} {f : Frame} (h : sampleOf f = none) : s.receiveM f = s.countForeign .m := by
  unfold State.receiveM
  rw [h]

theorem headingOf_range {b : Byte} {h : Heading} (e : headingOf b = some h) : b.toNat ≤ 2 := by
  unfold headingOf at e
  split at e
  · omega
  · omega
  · omega
  · cases e

theorem pantographOf_range {b : Byte} {p : Pantograph} (e : pantographOf b = some p) : b.toNat ≤ 3 := by
  unfold pantographOf at e
  split at e
  · omega
  · omega
  · omega
  · omega
  · cases e

theorem breakerOf_range {b : Byte} {k : Breaker} (e : breakerOf b = some k) : b.toNat ≤ 2 := by
  unfold breakerOf at e
  split at e
  · omega
  · omega
  · omega
  · cases e

theorem flagOf_range {b : Byte} {v : Bool} (e : flagOf b = some v) : b.toNat ≤ 1 := by
  unfold flagOf at e
  split at e
  · omega
  · omega
  · cases e

theorem feederOfByte_range {b : Byte} {f : FeederId} (e : feederOfByte b = some f) : b.toNat ≤ 15 := by
  unfold feederOfByte at e
  split at e
  · omega
  · cases e

theorem sectionOfByte_val {b : Byte} {x : SectionId} (e : sectionOfByte b = some x) : x.val = b.toNat := by
  unfold sectionOfByte at e
  split at e
  · cases e; rfl
  · cases e

/-- A payload that a position report may have (R143 tests 4 and 5). -/
def isReport (p : List Byte) : Prop :=
  p.length = 7 ∧ (p.getD 2 0).toNat ≤ 2 ∧ (p.getD 3 0).toNat ≤ 3 ∧ (p.getD 4 0).toNat ≤ 1

theorem isReport_of_reportOf {tag : Byte} {p : List Byte} {r : Report} (h : reportOf tag p = some r) : isReport p := by
  unfold reportOf at h
  split at h
  · split at h
    · next hh hp hl => exact ⟨rfl, headingOf_range hh, pantographOf_range hp, flagOf_range hl⟩
    · cases h
  · cases h

/-- A payload that an SST of a source may have (R143 tests 4 and 5). -/
def isStatus (src : Byte) (p : List Byte) : Prop :=
  p.length = 4 ∧ (p.getD 0 0).toNat + 128 = src.toNat ∧ (p.getD 1 0).toNat ≤ 1 ∧ (p.getD 2 0).toNat ≤ 1 ∧ (p.getD 3 0).toNat ≤ 1

theorem isStatus_of_statusOf {src : Byte} {p : List Byte} {r : SectionId × SsuStatus} (h : statusOf src p = some r) : isStatus src p := by
  unfold statusOf at h
  split at h
  · split at h
    · next hx hc hv hf =>
      split at h
      · next hs =>
        refine ⟨rfl, ?_, flagOf_range hc, flagOf_range hv, flagOf_range hf⟩
        have := sectionOfByte_val hx
        simp only [List.getD_cons_zero]
        omega
      · cases h
    · cases h
  · cases h

/-- What a truck may send, by its kind (R143 tests 3 to 5). -/
def isTruckFrame (f : Frame) : Prop :=
  f.kind.toNat = 0x10 ∧ isReport f.payload ∨ f.kind.toNat = 0x11 ∧ f.payload.length = 5
    ∨ (f.kind.toNat = 0x12 ∨ f.kind.toNat = 0x13) ∧ f.payload = [] ∨ f.kind.toNat = 0x14

theorem isTruckFrame_of_truckFrameOf {f : Frame} {w : WFrame} (h : truckFrameOf f = some w) : isTruckFrame f := by
  unfold truckFrameOf at h
  split at h
  · next hk =>
    obtain ⟨r, hr, _⟩ := Option.map_eq_some_iff.1 h
    exact .inl ⟨hk, isReport_of_reportOf hr⟩
  · next hk =>
    obtain ⟨r, hr, _⟩ := Option.map_eq_some_iff.1 h
    refine .inr (.inl ⟨hk, ?_⟩)
    unfold termsOf at hr
    split at hr
    · next hp => rw [hp]; rfl
    · cases hr
  · next hk =>
    split at h
    · next hp => exact .inr (.inr (.inl ⟨.inl hk, List.isEmpty_iff.1 hp⟩))
    · cases h
  · next hk =>
    split at h
    · next hp => exact .inr (.inr (.inl ⟨.inr hk, List.isEmpty_iff.1 hp⟩))
    · cases h
  · next hk => exact .inr (.inr (.inr hk))
  · cases h

/-- What passes the tests of R143: a frame of a truck or of a section switch unit. -/
theorem wFrameOf_passes {f : Frame} {w : WFrame} (h : wFrameOf f = some w) :
    f.dest = 0 ∧ (1 ≤ f.src.toNat ∧ f.src.toNat ≤ 127 ∧ isTruckFrame f
      ∨ 128 ≤ f.src.toNat ∧ f.src.toNat ≤ 191 ∧ f.kind.toNat = 0x31 ∧ isStatus f.src f.payload) := by
  unfold wFrameOf at h
  split at h
  · cases h
  · next hd =>
    refine ⟨not_not.1 hd, ?_⟩
    split at h
    · next ht =>
      obtain ⟨h1, h2⟩ := of_decide_eq_true ht
      exact .inl ⟨h1, h2, isTruckFrame_of_truckFrameOf h⟩
    · split at h
      · next hs =>
        unfold ssuFrameOf at h
        split at h
        · next hk =>
          obtain ⟨r, hr, _⟩ := Option.map_eq_some_iff.1 h
          exact .inr ⟨hs.1, hs.2, hk, isStatus_of_statusOf hr⟩
        · cases h
      · cases h

/-- What passes the tests of R145. -/
theorem sampleOf_passes {f : Frame} {r : FeederId × Sample} (h : sampleOf f = some r) :
    f.kind.toNat = 0x40 ∧ f.payload.length = 6 ∧ (f.payload.getD 0 0).toNat ≤ 15 ∧ (f.payload.getD 5 0).toNat ≤ 2 := by
  unfold sampleOf at h
  split at h
  · next hk hp =>
    split at h
    · next hx hb => rw [hp]; exact ⟨hk, rfl, feederOfByte_range hx, breakerOf_range hb⟩
    · cases h
  · cases h

end Sys2Proof.Machine

open Sys2Proof Sys2Proof.Machine

/-- Settles O20: each row runs the assembler on the bytes at hand; a driven line is not heard. -/
theorem assemblersHuntForTheMarker : Obligations.AssemblersHuntForTheMarker := by
  intro l s hp driven ended
  have hd : ¬driven → s.drives l = false := (s.drives_eq_false_iff l).2
  have he : (s.asm l).phase ≠ .hunt → s.endRunt l = ended := State.endRunt_of_busy
  refine ⟨fun hn hh => ?_, fun hn hh hl hw => ?_, fun hn hh hw => ?_, fun hh => ⟨?_, State.endRunt_of_hunt hh⟩,
    fun hh => ⟨?_, he hh⟩, fun hdr => ?_⟩
  · rw [exec_marker hp (hd hn), State.endLate_of_hunt hh, State.feed_marker hh]
  · rw [exec_marker hp (hd hn), State.endLate_of_soon hw,
      State.feed_takeAll (a := { phase := .header, held := (s.asm l).held ++ [markerByte], watch := 0 })
        (by simp only [Assembler.takeAll, Assembler.take_header hh hl])]
    rfl
  · rw [exec_marker hp (hd hn), State.endLate_of_late hh hw, he hh,
      State.feed_marker (by rw [State.asm_modLink, State.asm_setAsm]; rfl)]
  · rw [exec_runt hp, State.endRunt_of_hunt hh]
  · rw [exec_runt hp, he hh]
  · have hdr : s.drives l = true := (s.drives_iff l).2 hdr
    refine ⟨?_, fun bs => ?_, fun f => ?_, fun i f hf => exec_linkFrame_driven hf hdr, fun hc f => ?_⟩
    · unfold exec
      exact whileListening_of_driven hdr _
    · unfold exec
      exact whileListening_of_driven hdr _
    · unfold exec
      exact whileListening_of_driven hdr _
    · subst hc
      unfold exec
      exact whileListening_of_driven hdr _

/-- Settles O21: the last check byte, or the length byte, fails the frame, and its bytes hold no marker to begin another. -/
theorem framesThatFailTheirCheckAreCounted : Obligations.FramesThatFailTheirCheckAreCounted := by
  intro l s kind dest src tag len rest hp hn hh hm hcase
  rw [exec_checkError hp ((s.drives_eq_false_iff l).2 hn), State.endLate_of_hunt hh]
  unfold State.feedFrame
  rw [if_pos (by simp [hh])]
  unfold State.feed
  rcases hcase with ⟨h240, hlen, hbad⟩ | ⟨h240, rfl⟩
  · obtain ⟨payload, hp1, hp2⟩ : ∃ p, rest.take len.toNat = p ∧ p.length = len.toNat :=
      ⟨_, rfl, by rw [List.length_take]; omega⟩
    obtain ⟨a, b, c, d, hk⟩ : ∃ a b c d, rest.drop len.toNat = [a, b, c, d] := by
      have h4 : (rest.drop len.toNat).length = 4 := by rw [List.length_drop]; omega
      match rest.drop len.toNat, h4 with
      | [a, b, c, d], _ => exact ⟨a, b, c, d, rfl⟩
    have hr : rest = payload ++ [a, b, c] ++ [d] := by
      rw [← List.take_append_drop len.toNat rest, hp1, hk]
      simp
    obtain ⟨m, hm2⟩ := le_feed_fuel (m := (9 + payload.length) + (10 + payload.length))
      (n := (markerByte :: ([kind, dest, src, tag, len] ++ rest)).length) (by rw [hr]; simp; omega) (s.asm l).held.length
    dsimp only
    rw [hp1, hk] at hbad
    have hfr := State.feedFor_frame hh (kind := kind) (dest := dest) (src := src) (tag := tag) (check := [a, b, c]) d hp2 h240 rfl
      (m + (9 + payload.length)) []
    rw [if_neg (fun e => hbad e.symm)] at hfr
    have hb : [kind, dest, src, tag, len] ++ rest = kind :: dest :: src :: tag :: len :: (payload ++ [a, b, c] ++ [d]) := by
      rw [hr]
      rfl
    have hhunt := State.feedFor_failed_hunt (s := s) (l := l) hm m
    rw [hb, show (kind :: dest :: src :: tag :: len :: (payload ++ [a, b, c] ++ [d])).length = 9 + payload.length by simp; omega] at hhunt
    rw [List.append_nil, hhunt] at hfr
    rw [hm2, hb, show m + (9 + payload.length + (10 + payload.length)) = m + (9 + payload.length) + 1 + (9 + payload.length) by omega]
    exact congrArg _ hfr
  · obtain ⟨m, hm2⟩ := le_feed_fuel (m := 6 + 5) (n := (markerByte :: ([kind, dest, src, tag, len] ++ [])).length) (by simp)
      (s.asm l).held.length
    dsimp only
    rw [hm2]
    have := State.feedFor_long hh (kind := kind) (dest := dest) (src := src) (tag := tag) h240 (m + 5)
    exact congrArg _ (this.trans (State.feedFor_failed_hunt hm m))

/-- Settles O22: a frame that passes the tests has none of the faults listed. -/
theorem foreignFramesAreCountedAndDropped : Obligations.ForeignFramesAreCountedAndDropped := by
  intro f s hp
  dsimp only
  refine ⟨fun hw h => ?_, fun h => ?_⟩
  · have hn : wFrameOf f = none := by
      refine Option.eq_none_iff_forall_ne_some.2 fun w hsome => ?_
      obtain ⟨hd, hcase⟩ := wFrameOf_passes hsome
      unfold isTruckFrame isReport isStatus at hcase
      generalize (f.payload.getD 0 0).toNat = b0 at h hcase
      generalize (f.payload.getD 1 0).toNat = b1 at h hcase
      generalize (f.payload.getD 2 0).toNat = b2 at h hcase
      generalize (f.payload.getD 3 0).toNat = b3 at h hcase
      generalize (f.payload.getD 4 0).toNat = b4 at h hcase
      simp only [hd, ne_eq, not_true_eq_false, false_or, List.mem_cons, List.not_mem_nil, or_false, ← BitVec.toNat_inj] at h
      rcases hcase with ⟨h1, h2, ht⟩ | ⟨h1, h2, hk, hl, hx, hc, hv, hb⟩
      · rcases ht with ⟨hk, hl, hh, hpn, hb⟩ | ⟨hk, hl⟩ | ⟨hk | hk, hl⟩ | hk
        · simp [hl, hk] at h
          omega
        · simp [hl, hk] at h
          omega
        · simp [hl, hk] at h
          omega
        · simp [hl, hk] at h
          omega
        · simp [hk] at h
          omega
      · simp [hk, hl] at h
        omega
    rw [exec_foreignFrame hp (by rw [State.drives, hw]; rfl)]
    exact congrArg _ (receiveW_foreign hn)
  · have hn : sampleOf f = none := by
      refine Option.eq_none_iff_forall_ne_some.2 fun r hsome => ?_
      obtain ⟨hk, hl, hx, hb⟩ := sampleOf_passes hsome
      generalize (f.payload.getD 0 0).toNat = b0 at h hx
      generalize (f.payload.getD 5 0).toNat = b5 at h hb
      simp only [ne_eq, ← BitVec.toNat_inj, hk, hl] at h
      simp at h
      omega
    rw [exec_foreignFrame hp rfl]
    exact congrArg _ (receiveM_foreign hn)

end

section
/-! PROOFS. Requests on the C-link: the frames that reach the buffer, and the commands that wait (R153, R154, log 7). -/

namespace Sys2Proof.Machine
open Sys2Proof

/-! ### Frames to the part (R153, R154) -/

theorem sentByPart_iff (k : Byte) :
    sentByPart k = true ↔ 0x70 ≤ k.toNat ∧ k.toNat ≤ 0x77 ∨ 0x80 ≤ k.toNat ∧ k.toNat ≤ 0x83 := by
  simp [sentByPart]

theorem sentByPart_eq_false_iff (k : Byte) :
    sentByPart k = false ↔ ¬(0x70 ≤ k.toNat ∧ k.toNat ≤ 0x77 ∨ 0x80 ≤ k.toNat ∧ k.toNat ≤ 0x83) := by
  rw [← sentByPart_iff, Bool.not_eq_true]

/-- The end of a runt leaves the overrun counter. -/
theorem State.endRunt_overrun (s : State) (l : Link) : (s.endRunt l).counters.overrun = s.counters.overrun := by
  unfold State.endRunt
  split
  · rfl
  · cases l <;> rfl

theorem State.endRunt_resetPin (s : State) (l : Link) : (s.endRunt l).resetPin = s.resetPin := by
  unfold State.endRunt
  split
  · rfl
  · cases l <;> rfl

/-- A frame to another address is ignored. -/
theorem State.receiveC_other {s : State} {f : Frame} (h : f.dest ≠ s.cAddress) : s.receiveC f = s := if_pos h

/-- A frame of a kind that the part sends is foreign. -/
theorem State.receiveC_sent {s : State} {f : Frame} (h : f.dest = s.cAddress) (hk : sentByPart f.kind = true) :
    s.receiveC f = s.countForeign .c := by
  unfold State.receiveC
  rw [if_neg (not_not.2 h), if_pos hk]

/-- A request frame joins the buffer where fewer than 4 wait. -/
theorem State.receiveC_joins {s : State} {f : Frame} (h : f.dest = s.cAddress) (hk : sentByPart f.kind = false)
    (hb : s.requestBuffer.length < 4) :
    s.receiveC f = { s.countGood .c with requestBuffer := s.requestBuffer ++ [f] } := by
  unfold State.receiveC
  rw [if_neg (not_not.2 h), if_neg (by simp [hk])]
  exact if_pos hb

/-- A request frame is dropped and counted where 4 wait. -/
theorem State.receiveC_overruns {s : State} {f : Frame} (h : f.dest = s.cAddress) (hk : sentByPart f.kind = false)
    (hb : 4 ≤ s.requestBuffer.length) :
    s.receiveC f = { s.countGood .c with
      counters := { (s.countGood .c).counters with overrun := min 65535 (s.counters.overrun + 1) } } := by
  unfold State.receiveC
  rw [if_neg (not_not.2 h), if_neg (by simp [hk])]
  exact if_neg (show ¬s.requestBuffer.length < 4 by omega)

/-! ### Request commands (log 7) -/

/-- What MA does with a request that it has taken; nothing for a command that is no request. -/
def requestEffect : Instr → State → State
  | .unknownRequestKind c kind payload => fun s => s.answerMalformed c kind payload
  | .tableWriteSection c bank index e => fun s => s.writeSection c bank index e
  | .tableWriteGap c bank index e => fun s => s.writeGap c bank index e
  | .tableWriteFeeder c _ index e => fun s => s.writeFeeder c index e
  | .tableWriteClass c _ index e => fun s => s.writeClass c index e
  | .tableWriteRing c _ index e => fun s => s.writeDescriptor c index e
  | .tableWriteGlobal c _ index v => fun s => s.writeGlobal c index v
  | .tableReadSection c bank index => fun s => s.readSection c bank index
  | .tableReadGap c bank index => fun s => s.readGap c bank index
  | .tableReadFeeder c bank index => fun s => s.readFeeder c bank index
  | .tableReadClass c bank index => fun s => s.readClass c bank index
  | .tableReadRing c bank index => fun s => s.readRing c bank index
  | .tableReadGlobal c bank index => fun s => s.readGlobal c bank index
  | .bankSwap c force => fun s => s.swapUnforced c force
  | .bankSwapForced c => fun s => s.requestSwap c State.beginForcedSwap
  | .swapCancel c => fun s => s.cancelSwap c
  | .sectionCmdIsolate c sect => fun s => s.forSection c sect (fun x => (s.commandIsolate x).ack c)
  | .sectionCmdEnable c sect => fun s => s.forSection c sect (fun x => (s.commandEnable x).ack c)
  | .sectionCmdWake c sect => fun s => s.forSection c sect (fun x => s.commandWake c sect x)
  | .sectionCmdRestIdle c sect => fun s => s.forSection c sect (fun x => s.commandRestIdle c sect x)
  | .sectionCmdRestStandby c sect => fun s => s.forSection c sect (fun x => s.commandRestStandby c sect x)
  | .feederCmdResume c feeder => fun s => s.forFeeder c feeder (fun f => s.commandResume c feeder f)
  | .feederCmdOffline c feeder => fun s => s.forFeeder c feeder (fun f => (s.feederOffline f).ack c)
  | .truckOrderLower c truck => fun s => s.forTruck c truck (fun i => ((s.orderLower i).evalSwap).ack c)
  | .truckOrderHold c truck => fun s => s.forTruck c truck (fun i => ((s.orderHold i).evalSwap).ack c)
  | .truckOrderUnhold c truck => fun s => s.forTruck c truck (fun i => (s.setHoldFlag i false).ack c)
  | .truckOrderClearFault c truck => fun s => s.forTruck c truck (fun i => (s.orderClearFault i).ack c)
  | .truckOrderEvict c truck => fun s => s.forTruck c truck (fun i => s.orderEvict c truck i)
  | .passData c truck data => fun s => s.pass c truck data
  | .historyRead c feeder offset count => fun s => s.history c feeder offset count
  | .historyRelease c feeder => fun s => s.forFeeder c feeder (fun f => s.releaseRing c feeder f)
  | .statusRead c => fun s => s.readStatus c
  | .counterRead c => fun s => s.reply c 0x75 s.counters.bytes
  | .contextRead c selector value => fun s => s.readContext c selector value
  | .queueRead c feeder skip => fun s => s.forFeeder c feeder (fun f => s.reply c 0x77 (s.queueBytes f skip))
  | .rampStop c => fun s => ((s.takeRampStop 1).evalSwap).ack c
  | .rampResume c => fun s => s.resumeRamp c
  | .restart c => fun s => ((s.ack c).restarted.report .restartDone 1 s.cAddress.toNat).stopIfAsserted
  | _ => fun s => s

/-- A request command is the taking or the arrival of its request. -/
theorem exec_request {a : Byte} {i : Instr} {f : Frame} (h : frameOfRequest a i = some f) (s : State) :
    exec i s = takeRequest i s (requestEffect i) := by
  cases i <;> cases h <;> rfl

theorem State.oldestIs_iff (s : State) (i : Instr) :
    s.oldestIs i = true ↔ ∃ g gs, s.requestBuffer = g :: gs ∧ requestOfFrame g = i := by
  unfold State.oldestIs isRequest
  split
  · next g gs h => simp [h]
  · next h => simp [h]

theorem State.serveOldest_full {s : State} (h : 32 ≤ s.cQueue.length) (run : State → State) : s.serveOldest run = s :=
  if_neg (by omega)

theorem State.serveOldest_empty {s : State} (h : s.requestBuffer = []) (run : State → State) : s.serveOldest run = s := by
  unfold State.serveOldest
  rw [h]
  split <;> rfl

/-- A request that waits for the C-link queue stands. -/
theorem takeRequest_full {i : Instr} {s : State} (ho : s.oldestIs i = true) (hq : 32 ≤ s.cQueue.length) (run : State → State) :
    takeRequest i s run = .next s := by
  simp [takeRequest, whileOutOfReset, ho, State.serveOldest_full hq]

/-- A request that is not the oldest is the arrival of its frame, and nothing arrives while the part sends. -/
theorem takeRequest_driven {i : Instr} {s : State} (ho : s.oldestIs i = false) (hd : s.cSending ≠ none) (run : State → State) :
    takeRequest i s run = .next s := by
  have : s.drives .c = true := Option.isSome_iff_ne_none.2 hd
  simp [takeRequest, whileOutOfReset, ho, this]

/-- A request that arrives and is not taken at once has its frame received. -/
theorem takeRequest_arrives {i : Instr} {f : Frame} {s : State} (hf : frameOfRequest s.cAddress i = some f) (hp : s.resetPin = false)
    (ho : s.oldestIs i = false) (hd : s.cSending = none)
    (hs : s.requestBuffer = [] → ∀ run, ((s.endRunt .c).receiveC f).serveOldest run = (s.endRunt .c).receiveC f) (run : State → State) :
    takeRequest i s run = .next ((s.endRunt .c).receiveC f) := by
  have ha : s.arriveRequest i = (s.endRunt .c).receiveC f := by simp only [State.arriveRequest, hf]
  have hn : s.drives .c = false := by rw [State.drives, hd]; rfl
  unfold takeRequest
  rw [whileOutOfReset_of_released hp, ho, hn, ha]
  rw [if_neg Bool.false_ne_true, if_neg Bool.false_ne_true]
  split
  · next he => rw [hs (List.isEmpty_iff.1 he)]
  · rfl

end Sys2Proof.Machine

open Sys2Proof Sys2Proof.Machine

/-- Settles O23: the three tests of R153, and the room of the buffer. -/
theorem requestFramesEnterTheBuffer : Obligations.RequestFramesEnterTheBuffer := by
  intro f s hp hc
  obtain ⟨hb, ha, _⟩ := s.endRunt_buffer .c
  dsimp only
  rw [exec_requestFrame hp (by rw [State.drives, hc]; rfl), ← ha, ← hb, ← s.endRunt_overrun .c]
  refine ⟨fun hd => ?_, fun hd hk => ?_, fun hd hk => ⟨fun hl => ?_, fun hl => ?_⟩⟩
  · rw [State.receiveC_other hd]
  · rw [State.receiveC_sent hd ((sentByPart_iff _).2 hk)]
    rfl
  · rw [State.receiveC_joins hd ((sentByPart_eq_false_iff _).2 hk) hl]
    rfl
  · rw [State.receiveC_overruns hd ((sentByPart_eq_false_iff _).2 hk) hl]
    rfl

/-- Settles O24: a request command by what waits before it, what the part sends, and the room for its reply. -/
theorem requestsWaitWhileTheQueueIsFull : Obligations.RequestsWaitWhileTheQueueIsFull := by
  intro i f s hf hp oldest sent q good
  obtain ⟨hb, ha, hcq⟩ := s.endRunt_buffer .c
  have hrun := exec_request hf
  have hdest : f.dest = (s.endRunt .c).cAddress := (dest_of_frameOfRequest hf).trans ha.symm
  have hold : ¬oldest → s.oldestIs i = false := fun h => by
    rw [← Bool.not_eq_true, State.oldestIs_iff]
    exact h
  refine ⟨fun ho hq => ?_, fun ⟨g, gs, hg, _⟩ => ?_, fun ho hs => ?_, fun ho hs hk => ?_, fun ho hs hk => ⟨fun hw => ⟨fun hl => ?_, fun hl => ?_⟩, fun he hq => ?_⟩⟩
  · rw [hrun, takeRequest_full ((State.oldestIs_iff s i).2 ho) hq]
  · unfold State.taken
    rw [hg]
    rfl
  · rw [hrun, takeRequest_driven (hold ho) hs]
  · have hr := State.receiveC_sent hdest ((sentByPart_iff _).2 hk)
    rw [hrun, takeRequest_arrives hf hp (hold ho) hs fun he run => ?_, hr]
    · rfl
    · rw [hr]
      exact State.serveOldest_empty (s := (s.endRunt .c).countForeign .c) (hb.trans he) run
  · have hr := State.receiveC_joins hdest ((sentByPart_eq_false_iff _).2 hk) (hb.symm ▸ hl)
    rw [hrun, takeRequest_arrives hf hp (hold ho) hs fun he run => ?_, hr, hb]
    · rfl
    · rw [hr]
      refine State.serveOldest_full ?_ run
      show 32 ≤ (s.endRunt .c).cQueue.length
      rw [hcq]
      exact hw.resolve_left (not_not.2 he)
  · have hr := State.receiveC_overruns hdest ((sentByPart_eq_false_iff _).2 hk) (hb.symm ▸ hl)
    rw [hrun, takeRequest_arrives hf hp (hold ho) hs fun he run => ?_, hr, s.endRunt_overrun .c]
    · rfl
    · rw [he] at hl
      simp at hl
  · have ht : s.takes i := ⟨hp, hq, .inl ⟨he, hs, f, hf, (sentByPart_eq_false_iff _).2 hk⟩⟩
    have hg : s.taken = good := by simp only [State.taken, he]; rfl
    have hgb : good.requestBuffer = [] := hb.trans he
    have hgq : good.cQueue.length < 32 := (congrArg List.length hcq).trans_lt hq
    refine ⟨ht, hg, fun hw => ?_⟩
    have ht' : ({ good with requestBuffer := [f] } : State).takes i :=
      ⟨(s.endRunt_resetPin .c).trans hp, hgq, .inr ⟨f, [], rfl, requestOfFrame_frameOfRequest hw hf⟩⟩
    have hg' : ({ good with requestBuffer := [f] } : State).taken = good := by
      show ({ good with requestBuffer := [] } : State) = good
      rw [← hgb]
    rw [hrun, hrun, takeRequest_taken ht, takeRequest_taken ht', hg, hg']

end

section
/-! PROOFS. Every taken request is answered once: what it does before its reply and after puts no other reply in the queue (R154). -/

namespace Sys2Proof.Machine
open Sys2Proof

/-! ### What a request does before its reply -/

/-- From `s` to `t` the C-link queue took events and copies alone, and an entry is free still. -/
def State.onlyEvents (s t : State) : Prop :=
  t.cAddress = s.cAddress ∧ t.cQueue.length < 32 ∧ ∃ l, t.cQueue = s.cQueue ++ l ∧ l.filter isReply = []

/-- From `s` to `t` the C-link queue took one reply, to the caller. -/
def State.answers (s : State) (c : Caller) (t : State) : Prop :=
  ∃ l p k, t.cQueue = s.cQueue ++ l ∧ l.filter isReply = [⟨k, c.src, s.cAddress, c.seq, p⟩]

theorem State.onlyEvents_refl {s : State} (h : s.cQueue.length < 32) : s.onlyEvents s := ⟨rfl, h, [], by simp, rfl⟩

theorem isReply_of_event {f : Frame} (h : 0x80 ≤ f.kind.toNat) : isReply f = false := decide_eq_false (by omega)

theorem State.onlyEvents_of_same {s t : State} (ha : t.cAddress = s.cAddress) (hq : t.cQueue = s.cQueue) (h : s.cQueue.length < 32) :
    s.onlyEvents t := ⟨ha, hq ▸ h, [], by rw [hq, List.append_nil], rfl⟩

theorem State.onlyEvents.setGlobals {s t : State} (h : s.onlyEvents t) (g : Globals) : s.onlyEvents { t with globals := g } := h

theorem State.setBank_cQueue (s : State) (k : BankId) (b : Bank) :
    (s.setBank k b).cAddress = s.cAddress ∧ (s.setBank k b).cQueue = s.cQueue := by
  cases k <;> exact ⟨rfl, rfl⟩

/-- An event or copy is appended, or dropped. -/
theorem State.offerC_cQueue (s : State) {f : Frame} (h : 0x80 ≤ f.kind.toNat) :
    ∃ l, (s.offerC f).cQueue = s.cQueue ++ l ∧ l.filter isReply = [] := by
  unfold State.offerC
  split
  · exact ⟨[f], rfl, by simp [isReply_of_event h]⟩
  · exact ⟨[], (List.append_nil _).symm, rfl⟩

theorem keeps_onlyEvents (s : State) : Keeps s.onlyEvents :=
  Keeps.ofHolders (fun c h => by unfold State.onlyEvents at *; rw [c.cAddress, c.frames]; exact h)
    (fun f h => by unfold State.onlyEvents at *; simpa using h)
    (fun {t} f hf h => by
      obtain ⟨ha, hr, l, hl, hn⟩ := h
      obtain ⟨k, hk, hkn⟩ := t.offerC_cQueue hf
      exact ⟨by simpa using ha, State.offerC_room hr f, l ++ k, by rw [hk, hl, List.append_assoc], by rw [List.filter_append, hn, hkn]; rfl⟩)
    (fun c h => by rw [c.rest]; exact h)
    (fun _ _ _ _ h => h) (fun _ _ _ h => h) (fun _ _ h => h) (fun _ _ h => h) (fun _ _ h => h) (fun h => h) (fun _ _ h => h)

theorem keeps_answers (s : State) (c : Caller) : Keeps (s.answers c) :=
  Keeps.ofHolders (fun e h => by unfold State.answers at *; rw [e.frames]; exact h)
    (fun f h => by unfold State.answers at *; simpa using h)
    (fun {t} f hf h => by
      obtain ⟨l, p, k, hl, hn⟩ := h
      obtain ⟨m, hm, hmn⟩ := t.offerC_cQueue hf
      exact ⟨l ++ m, p, k, by rw [hm, hl, List.append_assoc], by rw [List.filter_append, hn, hmn]; rfl⟩)
    (fun e h => by rw [e.rest]; exact h)
    (fun _ _ _ _ h => h) (fun _ _ _ h => h) (fun _ _ h => h) (fun _ _ h => h) (fun _ _ h => h) (fun h => h) (fun _ _ h => h)

/-- A kind of a reply, 0x70 to 0x77. -/
abbrev isReplyKind (k : Nat) : Prop := 0x70 ≤ k ∧ k ≤ 0x77

/-- A reply after events alone answers the request. -/
theorem State.onlyEvents.reply {s t : State} (h : s.onlyEvents t) (c : Caller) {k : Nat} (hk : isReplyKind k) (p : List Byte) :
    s.answers c (t.reply c k p) := by
  obtain ⟨ha, hr, l, hl, hn⟩ := h
  rw [State.reply_room hr]
  refine ⟨l ++ [⟨byte k, c.src, t.cAddress, c.seq, p⟩], p, byte k, ?_, ?_⟩
  · show t.cQueue ++ _ = _
    rw [hl, List.append_assoc]
  · have hb : (byte k).toNat = k := by
      unfold byte
      rw [BitVec.toNat_ofNat]
      exact Nat.mod_eq_of_lt (by have := hk.2; omega)
    have hi : isReply ⟨byte k, c.src, t.cAddress, c.seq, p⟩ = true := decide_eq_true (by dsimp only; rw [hb]; exact hk)
    rw [List.filter_append, hn, List.filter_cons_of_pos hi, ha]
    rfl

theorem State.onlyEvents.ack {s t : State} (h : s.onlyEvents t) (c : Caller) : s.answers c (t.ack c) := h.reply c (by decide) _

theorem State.onlyEvents.nak {s t : State} (h : s.onlyEvents t) (c : Caller) (k : NakCode) (a b : Byte) :
    s.answers c (t.nak c k a b) := h.reply c (by decide) _

/-- An ACK where neither the queue nor the address changed. -/
theorem State.answers_ack_of {s t : State} (h : s.cQueue.length < 32) (c : Caller)
    (ha : t.cAddress = s.cAddress := by rfl) (hq : t.cQueue = s.cQueue := by rfl) : s.answers c (t.ack c) :=
  (State.onlyEvents_of_same ha hq h).ack c

/-! ### Each request -/

section
variable {s : State} (h : s.cQueue.length < 32) (c : Caller)
include h

theorem State.answers_reply {k : Nat} (hk : isReplyKind k) (p : List Byte) : s.answers c (s.reply c k p) :=
  (State.onlyEvents_refl h).reply c hk p

theorem State.answers_ack : s.answers c (s.ack c) := (State.onlyEvents_refl h).ack c

theorem State.answers_nak (k : NakCode) (a b : Byte) : s.answers c (s.nak c k a b) := (State.onlyEvents_refl h).nak c k a b

theorem State.answers_tableData (n : Nat) (b i : Byte) (p : List Byte) : s.answers c (s.tableData c n b i p) :=
  (State.onlyEvents_refl h).reply c (by decide) _

theorem State.answers_forSection (b : Byte) {g : SectionId → State} (hg : ∀ x, s.answers c (g x)) : s.answers c (s.forSection c b g) := by
  unfold State.forSection
  split
  · exact hg _
  · exact State.answers_nak h c _ _ _

theorem State.answers_forFeeder (b : Byte) {g : FeederId → State} (hg : ∀ x, s.answers c (g x)) : s.answers c (s.forFeeder c b g) := by
  unfold State.forFeeder
  split
  · exact hg _
  · exact State.answers_nak h c _ _ _

theorem State.answers_forTruck (b : Byte) {g : Slot → State} (hg : ∀ x, s.answers c (g x)) : s.answers c (s.forTruck c b g) := by
  unfold State.forTruck
  split
  · exact hg _
  · exact State.answers_nak h c _ _ _

theorem State.answers_writeSection (b i : Byte) (e : SectionWire) : s.answers c (s.writeSection c b i e) := by
  unfold State.writeSection
  split
  · next k x _ _ =>
    split
    · exact State.answers_nak h c _ _ _
    · split
      · exact State.answers_nak h c _ _ _
      · split
        · exact State.answers_nak h c _ _ _
        · exact (State.onlyEvents_of_same (s.setBank_cQueue k _).1 (s.setBank_cQueue k _).2 h).ack c
  · exact State.answers_nak h c _ _ _

theorem State.answers_writeGap (b i : Byte) (e : GapWire) : s.answers c (s.writeGap c b i e) := by
  unfold State.writeGap
  split
  · next k x _ _ =>
    split
    · exact State.answers_nak h c _ _ _
    · split
      · exact State.answers_nak h c _ _ _
      · split
        · exact State.answers_nak h c _ _ _
        · exact (State.onlyEvents_of_same (s.setBank_cQueue k _).1 (s.setBank_cQueue k _).2 h).ack c
  · exact State.answers_nak h c _ _ _

theorem State.onlyEvents_applyFeeder (f : FeederId) (k : FeederConfig) : s.onlyEvents (s.applyFeeder f k) := by
  have K := keeps_onlyEvents s
  have ht : s.onlyEvents ((s.modFdr f (fun d => d.reconfigured k)).reportOver f) := by
    unfold State.reportOver
    split
    · exact K.report _ _ _ (State.onlyEvents_refl h)
    · exact State.onlyEvents_refl h
  unfold State.applyFeeder
  dsimp only
  split
  · exact K.arbitrate _ ht
  · exact ht

theorem State.answers_writeFeeder (i : Byte) (e : FeederWire) : s.answers c (s.writeFeeder c i e) := by
  unfold State.writeFeeder
  split
  · exact State.answers_nak h c _ _ _
  · split
    · exact State.answers_nak h c _ _ _
    · exact (State.onlyEvents_applyFeeder h _ _).ack c

theorem State.answers_writeClass (i : Byte) (e : ClassWire) : s.answers c (s.writeClass c i e) := by
  unfold State.writeClass
  split
  · exact State.answers_nak h c _ _ _
  · split
    · exact State.answers_nak h c _ _ _
    · exact State.answers_ack_of h c

theorem State.answers_writeDescriptor (i : Byte) (e : RingWire) : s.answers c (s.writeDescriptor c i e) := by
  unfold State.writeDescriptor
  split
  · exact State.answers_nak h c _ _ _
  · split
    · exact State.answers_nak h c _ _ _
    · split
      · exact State.answers_nak h c _ _ _
      · split
        · exact State.answers_nak h c _ _ _
        · exact State.answers_ack_of h c

theorem State.onlyEvents_changeExclusion (v : Nat) : s.onlyEvents (s.changeExclusion v) := by
  have K := keeps_onlyEvents s
  unfold State.changeExclusion
  split
  · exact State.onlyEvents_refl h
  · exact K.eachSlot (fun _ i ht => K.clearExclusion i ht) (State.onlyEvents_refl h)

theorem State.onlyEvents_applyGlobal (i v : Nat) : s.onlyEvents (s.applyGlobal i v) := by
  have K := keeps_onlyEvents s
  have hs := State.onlyEvents_refl h
  unfold State.applyGlobal
  dsimp only
  split
  · exact hs
  · split
    · exact (State.onlyEvents_changeExclusion h v).setGlobals _
    · split <;> exact hs

theorem State.answers_writeGlobal (i : Byte) (v : Word) : s.answers c (s.writeGlobal c i v) := by
  unfold State.writeGlobal
  split
  · exact State.answers_nak h c _ _ _
  · split
    · exact (State.onlyEvents_applyGlobal h _ _).ack c
    · exact State.answers_nak h c _ _ _

theorem State.answers_requestSwap {g : State → State} (hg : s.onlyEvents (g s)) : s.answers c (s.requestSwap c g) := by
  unfold State.requestSwap
  split
  · exact State.answers_nak h c _ _ _
  · split
    · exact State.answers_nak h c _ _ _
    · exact hg.ack c

end

/-- What MA does with a taken request answers its caller once. -/
theorem requestEffect_answers {i : Instr} {c : Caller} {s : State} (hc : callerOf i = some c) (h : s.cQueue.length < 32) :
    s.answers c (requestEffect i s) := by
  have K := keeps_onlyEvents s
  have hs := State.onlyEvents_refl h
  cases i <;>
    simp only [callerOf, frameOfRequest, requestFrameTo, Option.map_some, Option.map_none, Option.some.injEq, reduceCtorEq] at hc <;>
    subst hc <;> dsimp only [requestEffect]
  case unknownRequestKind => exact State.answers_nak h _ _ _ _
  case tableWriteSection => exact State.answers_writeSection h _ _ _ _
  case tableWriteGap => exact State.answers_writeGap h _ _ _ _
  case tableWriteFeeder => exact State.answers_writeFeeder h _ _ _
  case tableWriteClass => exact State.answers_writeClass h _ _ _
  case tableWriteRing => exact State.answers_writeDescriptor h _ _ _
  case tableWriteGlobal => exact State.answers_writeGlobal h _ _ _
  case tableReadSection =>
    unfold State.readSection
    split
    · exact State.answers_tableData h _ _ _ _ _
    · exact State.answers_nak h _ _ _ _
  case tableReadGap =>
    unfold State.readGap
    split
    · exact State.answers_tableData h _ _ _ _ _
    · exact State.answers_nak h _ _ _ _
  case tableReadFeeder =>
    unfold State.readFeeder
    split
    · exact State.answers_tableData h _ _ _ _ _
    · exact State.answers_nak h _ _ _ _
  case tableReadClass =>
    unfold State.readClass
    split
    · exact State.answers_tableData h _ _ _ _ _
    · exact State.answers_nak h _ _ _ _
  case tableReadRing =>
    unfold State.readRing
    split
    · dsimp only
      split
      · exact State.answers_tableData h _ _ _ _ _
      · exact State.answers_tableData h _ _ _ _ _
    · exact State.answers_nak h _ _ _ _
  case tableReadGlobal =>
    unfold State.readGlobal
    split
    · exact State.answers_tableData h _ _ _ _ _
    · exact State.answers_nak h _ _ _ _
  case bankSwap =>
    unfold State.swapUnforced
    split
    · exact State.answers_requestSwap h _ (K.beginSwap hs)
    · split
      · exact State.answers_requestSwap h _ (K.beginForcedSwap hs)
      · exact State.answers_nak h _ _ _ _
  case bankSwapForced => exact State.answers_requestSwap h _ (K.beginForcedSwap hs)
  case swapCancel =>
    unfold State.cancelSwap
    split
    · exact (K.abandonSwap hs).ack _
    · exact State.answers_nak h _ _ _ _
  case sectionCmdIsolate =>
    refine State.answers_forSection h _ _ fun x => State.onlyEvents.ack ?_ _
    unfold State.commandIsolate
    split
    · exact hs
    · exact K.evalSwap (K.isolate _ hs)
  case sectionCmdEnable => exact State.answers_forSection h _ _ fun x => State.answers_ack_of h _
  case sectionCmdWake =>
    refine State.answers_forSection h _ _ fun x => ?_
    unfold State.commandWake
    split
    · exact State.answers_nak h _ _ _ _
    · exact (K.wake _ hs).ack _
  case sectionCmdRestIdle =>
    refine State.answers_forSection h _ _ fun x => ?_
    unfold State.commandRestIdle
    split
    · exact State.answers_nak h _ _ _ _
    · split
      · exact State.answers_ack_of h _
      · exact State.answers_ack h _
      all_goals exact State.answers_nak h _ _ _ _
  case sectionCmdRestStandby =>
    refine State.answers_forSection h _ _ fun x => ?_
    unfold State.commandRestStandby
    split
    · exact State.answers_nak h _ _ _ _
    · split
      · exact State.answers_ack_of h _
      · exact State.answers_ack_of h _
      · exact State.answers_ack h _
      · exact State.answers_ack_of h _
      · exact State.answers_nak h _ _ _ _
  case feederCmdResume =>
    refine State.answers_forFeeder h _ _ fun f => ?_
    have hr : s.onlyEvents (s.resumeFeeder f) := K.feederOnline _ hs
    unfold State.commandResume
    split
    · exact State.answers_nak h _ _ _ _
    · exact State.answers_nak h _ _ _ _
    · split
      · exact hr.ack _
      · exact State.answers_nak h _ _ _ _
    · split
      · exact hr.ack _
      · exact State.answers_nak h _ _ _ _
  case feederCmdOffline => exact State.answers_forFeeder h _ _ fun f => (K.feederOffline _ hs).ack _
  case truckOrderLower => exact State.answers_forTruck h _ _ fun i => (K.evalSwap (K.orderLower _ hs)).ack _
  case truckOrderHold => exact State.answers_forTruck h _ _ fun i => (K.evalSwap (K.orderHold _ hs)).ack _
  case truckOrderUnhold => exact State.answers_forTruck h _ _ fun i => (K.setHoldFlag _ _ hs).ack _
  case truckOrderClearFault => exact State.answers_forTruck h _ _ fun i => (K.orderClearFault _ hs).ack _
  case truckOrderEvict =>
    refine State.answers_forTruck h _ _ fun i => ?_
    unfold State.orderEvict
    split
    · exact (K.evalSwap (K.freeCtx _ hs)).ack _
    · exact (K.evalSwap (K.freeCtx _ hs)).ack _
    · exact State.answers_nak h _ _ _ _
  case passData =>
    unfold State.pass
    split
    · exact State.answers_nak h _ _ _ _
    · split
      · exact (K.sendNormal _ hs).ack _
      · exact State.answers_nak h _ _ _ _
  case historyRead =>
    unfold State.history
    split
    · exact State.answers_nak h _ _ _ _
    · split
      · exact State.answers_nak h _ _ _ _
      · split
        · exact State.answers_nak h _ _ _ _
        · exact State.answers_reply h _ (by decide) _
  case historyRelease =>
    refine State.answers_forFeeder h _ _ fun f => ?_
    unfold State.releaseRing
    split
    · exact State.answers_nak h _ _ _ _
    · exact State.answers_ack_of h _
  case statusRead => exact State.answers_reply h _ (k := 0x74) (by decide) _
  case counterRead => exact State.answers_reply h _ (by decide) _
  case contextRead =>
    unfold State.readContext
    split
    · split
      · exact State.answers_reply h _ (by decide) _
      · exact State.answers_nak h _ _ _ _
    · split
      · split
        · exact State.answers_reply h _ (by decide) _
        · exact State.answers_nak h _ _ _ _
      · exact State.answers_nak h _ _ _ _
  case queueRead => exact State.answers_forFeeder h _ _ fun f => State.answers_reply h _ (by decide) _
  case rampStop => exact (K.evalSwap (K.takeRampStop_of _ (fun _ _ ht => ht) hs)).ack _
  case rampResume =>
    unfold State.resumeRamp
    split
    · exact State.answers_nak h _ _ _ _
    · exact (K.takeRampResume_of hs fun _ _ _ ht => ht).ack _
  case restart c =>
    have A := keeps_answers s c
    have ha : s.answers c ((s.ack c).restarted.report .restartDone 1 s.cAddress.toNat) :=
      A.report _ _ _ (State.answers_ack h c)
    unfold State.stopIfAsserted
    split
    · exact A.evalSwap (A.takeRampStop_of _ (fun _ _ ht => ht) ha)
    · exact ha

/-- Taking a request leaves the C-link queue and the part's address. -/
theorem State.taken_cQueue (s : State) : s.taken.cQueue = s.cQueue ∧ s.taken.cAddress = s.cAddress := by
  unfold State.taken
  split
  · exact ⟨rfl, rfl⟩
  · exact ⟨(s.endRunt_buffer .c).2.2, (s.endRunt_buffer .c).2.1⟩

/-- A request that MA takes has its effect on the state without it. -/
theorem exec_taken {i : Instr} {a : Byte} {f : Frame} {s : State} (hf : frameOfRequest a i = some f) (ht : s.takes i) :
    exec i s = .next (requestEffect i s.taken) := by
  rw [exec_request hf, takeRequest_taken ht]

end Sys2Proof.Machine

open Sys2Proof Sys2Proof.Machine

/-- Settles O15: what MA does with the request answers it once, on the state that took it. -/
theorem everyTakenRequestIsAnsweredOnce : Obligations.EveryTakenRequestIsAnsweredOnce := by
  intro i c s hc ht
  obtain ⟨f, hf, _⟩ := Option.map_eq_some_iff.1 hc
  obtain ⟨l, p, k, hl, hn⟩ := requestEffect_answers hc (State.taken_room ht)
  rw [s.taken_cQueue.1] at hl
  rw [s.taken_cQueue.2] at hn
  exact ⟨_, l, p, k, exec_taken hf ht, hl, hn⟩

end

section
/-! PROOFS. The hard reset, the reset pin, RESTART and the ramp resume. -/

namespace Sys2Proof.Machine
open Sys2Proof

/-! ### Passes over the slots -/

/-- A pass keeps what each of its steps keeps. -/
theorem State.eachSlot_induction {P : State → Prop} {g : State → Slot → State} (hg : ∀ t i, P t → P (g t i)) {s : State} (h : P s) :
    P (s.eachSlot g) := List.foldlRecOn allSlots g h fun t ht i _ => hg t i ht

/-- A pass whose steps change nothing changes nothing. -/
theorem State.eachSlot_eq_self {g : State → Slot → State} {s : State} (h : ∀ i, g s i = s) : s.eachSlot g = s :=
  State.eachSlot_induction (P := fun t => t = s) (fun t i ht => by rw [ht, h i]) rfl

/-! ### An event (R161) -/

/-- The ALERT line under event controls and latches. -/
def alertOf (g : Globals) (latches : BitVec 22) : Bool :=
  (List.finRange 22).any (fun p => latches.getLsbD p && g.eventControl[p] / 2 % 2 == 1)

/-- The state with the latch of an event set and the ALERT line evaluated. -/
def State.latched (s : State) (k : EventKind) : State :=
  { s with latches := s.latches ||| (1#22 <<< k.place.val), alert := alertOf s.globals (s.latches ||| (1#22 <<< k.place.val)) }

section
variable {s : State} {k : EventKind}

theorem State.report_silent (h : s.control k.place % 2 = 0) (a b : Nat) : s.report k a b = s.latched k := by
  have hf : ¬(s.setLatch k.place).frameEnabled k.place = true := by
    show ¬(s.control k.place % 2 == 1) = true
    simp [h]
  unfold State.report State.emitEvent
  rw [if_neg hf]
  rfl

theorem State.report_offered (h : s.control k.place % 2 = 1) (hq : s.cQueue.length ≤ 28) (a b : Nat) :
    s.report k a b = { s.latched k with
      eventSeq := s.eventSeq + 1
      cQueue := s.cQueue ++ [⟨0x80, 0, s.cAddress, s.eventSeq + 1, [byte (k.place.val + 1), byte a] ++ nat16 b⟩] } := by
  unfold State.report State.emitEvent
  rw [if_pos (show (s.setLatch k.place).frameEnabled k.place = true from beq_iff_eq.2 h)]
  dsimp only
  unfold State.offerC
  rw [if_pos (show (s.setLatch k.place).cQueue.length ≤ 28 from hq)]
  rfl

theorem State.report_dropped (h : s.control k.place % 2 = 1) (hq : 28 < s.cQueue.length) (a b : Nat) :
    s.report k a b = { s.latched k with
      eventSeq := s.eventSeq + 1
      counters := { s.counters with c := { s.counters.c with txDrops := min 65535 (s.counters.c.txDrops + 1) } } } := by
  unfold State.report State.emitEvent
  rw [if_pos (show (s.setLatch k.place).frameEnabled k.place = true from beq_iff_eq.2 h)]
  dsimp only
  unfold State.offerC
  rw [if_neg (show ¬(s.setLatch k.place).cQueue.length ≤ 28 from Nat.not_le.2 hq)]
  rfl

theorem State.report_latches (s : State) (k : EventKind) (a b : Nat) :
    (s.report k a b).latches = s.latches ||| (1#22 <<< k.place.val) := by
  unfold State.report
  show ((s.setLatch k.place).emitEvent k a b).latches = _
  rw [State.emitEvent_latches]
  rfl

/-- What a report adds to the C-link queue, or to its count of drops. -/
theorem State.report_cLink (s : State) (k : EventKind) (a b : Nat) : ∃ l n, (s.report k a b).cQueue = s.cQueue ++ l
    ∧ (s.report k a b).counters = { s.counters with c := { s.counters.c with txDrops := n } } := by
  rcases Nat.mod_two_eq_zero_or_one (s.control k.place) with h | h
  · exact ⟨[], s.counters.c.txDrops, by rw [State.report_silent h]; exact ⟨(List.append_nil _).symm, rfl⟩⟩
  · rcases Nat.lt_or_ge 28 s.cQueue.length with hq | hq
    · exact ⟨[], _, by rw [State.report_dropped h hq]; exact ⟨(List.append_nil _).symm, rfl⟩⟩
    · exact ⟨_, s.counters.c.txDrops, by rw [State.report_offered h hq]; exact ⟨rfl, rfl⟩⟩

end

/-! ### A ramp stop where nothing is held -/

theorem State.stopContext_free {s : State} {i : Slot} (h : (s.ctx i).state = .free) : s.stopContext i = s := by
  unfold State.stopContext
  rw [h]

/-- With every context FREE a ramp stop acts on the sections alone (R122, R124). -/
theorem State.takeRampStop_free {s : State} (h : ∀ i, (s.ctx i).state = .free) (n : Nat) :
    s.takeRampStop n = ({ s with admission := .stopped, sections := s.sections.map SectionRec.stopped } : State).report .rampStop n 0 := by
  have hp : ({ s with admission := .stopped } : State).eachSlot State.stopContext = { s with admission := .stopped } :=
    State.eachSlot_eq_self fun i => State.stopContext_free (h i)
  have hl : allSlots.filter (fun i => (s.ctx i).toldOfStop) = [] :=
    List.filter_eq_nil_iff.2 fun i _ => by simp [Context.toldOfStop, h i]
  rw [State.takeRampStop_eq, hl]
  unfold State.rampStopped
  rw [hp]
  rfl

theorem State.stopIfAsserted_released {s : State} (h : s.stopLine = false) : s.stopIfAsserted = s := by
  unfold State.stopIfAsserted
  rw [h]
  rfl

/-- The ramp stop after a reset: every context is FREE and no swap is pending (R122). -/
theorem State.stopIfAsserted_free {s : State} (h : s.stopLine = true) (hc : ∀ i, (s.ctx i).state = .free) (hw : s.swap = .none) :
    s.stopIfAsserted = ({ s with admission := .stopped, sections := s.sections.map SectionRec.stopped } : State).report .rampStop 0 0 := by
  unfold State.stopIfAsserted State.lineStop
  rw [if_pos h, State.takeRampStop_free hc, State.evalSwap_none (by simpa using hw)]

/-! ### The hard reset (R165) -/

/-- The state of a hard reset before a ramp stop. -/
def State.poweredUp (s : State) (straps : BitVec 3) : State :=
  { State.powerOn (byte (224 + straps.toNat)) s.stopLine s.samples s.fresh s.pending with
    latches := 1, eventSeq := 1
    cQueue := [⟨0x80, 0, byte (224 + straps.toNat), 1, [1, 0, 0, byte (224 + straps.toNat)]⟩] }

theorem strapAddress_bytes : ∀ straps : BitVec 3, strapAddress straps = byte (224 + straps.toNat)
    ∧ nat16 (strapAddress straps).toNat = [0, byte (224 + straps.toNat)] := by decide

theorem exec_hardReset (straps : BitVec 3) (s : State) :
    exec (.hardReset straps) s = .next (s.poweredUp straps).stopIfAsserted := by
  obtain ⟨ha, hn⟩ := strapAddress_bytes straps
  have hr : (State.powerOn (strapAddress straps) s.stopLine s.samples s.fresh s.pending).report .restartDone 0 (strapAddress straps).toNat
      = s.poweredUp straps := by
    have hc : Globals.reset.eventControl[EventKind.restartDone.place] % 2 = 1 := by decide
    have hl : (0 : BitVec 22) ||| (1#22 <<< EventKind.restartDone.place.val) = 1 := by decide
    have hd : alertOf Globals.reset 1 = false := by decide
    rw [State.report_offered (s := State.powerOn _ _ _ _ _) (k := .restartDone) hc (Nat.zero_le _), hn, ha]
    unfold State.latched State.poweredUp
    rw [show (State.powerOn (byte (224 + straps.toNat)) s.stopLine s.samples s.fresh s.pending).latches = 0 from rfl, hl,
      show (State.powerOn (byte (224 + straps.toNat)) s.stopLine s.samples s.fresh s.pending).globals = Globals.reset from rfl, hd]
    rfl
  show Host.Outcome.next _ = _
  rw [hr]

/-! ### A part held in reset -/

theorem whileOutOfReset_held {s : State} (h : s.resetPin = true) (run : State → State) : whileOutOfReset s run = .next s := by
  unfold whileOutOfReset
  rw [if_pos h]

/-! ### Taking a request -/

/-- Taking a request changes the request buffer, the C-link assembler and the counters alone. -/
theorem State.taken_rest (s : State) :
    ∃ a k, s.taken = { s with asmC := a, counters := k, requestBuffer := s.requestBuffer.tail } := by
  refine ⟨s.taken.asmC, s.taken.counters, ?_⟩
  unfold State.taken
  split
  · next hb => rw [hb]; rfl
  · next hb =>
    rw [show s.requestBuffer.tail = s.requestBuffer by rw [hb]; rfl]
    unfold State.endRunt
    split <;> rfl

/-! Taking a request leaves everything else. -/

@[simp] theorem State.taken_stopLine (s : State) : s.taken.stopLine = s.stopLine := by obtain ⟨a, k, hu⟩ := s.taken_rest; rw [hu]

@[simp] theorem State.taken_cAddress (s : State) : s.taken.cAddress = s.cAddress := by obtain ⟨a, k, hu⟩ := s.taken_rest; rw [hu]

@[simp] theorem State.taken_cRatePending (s : State) : s.taken.cRatePending = s.cRatePending := by obtain ⟨a, k, hu⟩ := s.taken_rest; rw [hu]

@[simp] theorem State.taken_broadcast (s : State) : s.taken.broadcast = s.broadcast := by obtain ⟨a, k, hu⟩ := s.taken_rest; rw [hu]

@[simp] theorem State.taken_normalQueue (s : State) : s.taken.normalQueue = s.normalQueue := by obtain ⟨a, k, hu⟩ := s.taken_rest; rw [hu]

@[simp] theorem State.taken_globals (s : State) : s.taken.globals = s.globals := by obtain ⟨a, k, hu⟩ := s.taken_rest; rw [hu]

@[simp] theorem State.taken_latches (s : State) : s.taken.latches = s.latches := by obtain ⟨a, k, hu⟩ := s.taken_rest; rw [hu]

@[simp] theorem State.taken_eventSeq (s : State) : s.taken.eventSeq = s.eventSeq := by obtain ⟨a, k, hu⟩ := s.taken_rest; rw [hu]

@[simp] theorem State.taken_bankA (s : State) : s.taken.bankA = s.bankA := by obtain ⟨a, k, hu⟩ := s.taken_rest; rw [hu]

@[simp] theorem State.taken_bankB (s : State) : s.taken.bankB = s.bankB := by obtain ⟨a, k, hu⟩ := s.taken_rest; rw [hu]

@[simp] theorem State.taken_active (s : State) : s.taken.active = s.active := by obtain ⟨a, k, hu⟩ := s.taken_rest; rw [hu]

@[simp] theorem State.taken_swap (s : State) : s.taken.swap = s.swap := by obtain ⟨a, k, hu⟩ := s.taken_rest; rw [hu]

@[simp] theorem State.taken_swapTimer (s : State) : s.taken.swapTimer = s.swapTimer := by obtain ⟨a, k, hu⟩ := s.taken_rest; rw [hu]

@[simp] theorem State.taken_contexts (s : State) : s.taken.contexts = s.contexts := by obtain ⟨a, k, hu⟩ := s.taken_rest; rw [hu]

@[simp] theorem State.taken_classes (s : State) : s.taken.classes = s.classes := by obtain ⟨a, k, hu⟩ := s.taken_rest; rw [hu]

@[simp] theorem State.taken_feeders (s : State) : s.taken.feeders = s.feeders := by obtain ⟨a, k, hu⟩ := s.taken_rest; rw [hu]

@[simp] theorem State.taken_loads (s : State) : s.taken.loads = s.loads := by obtain ⟨a, k, hu⟩ := s.taken_rest; rw [hu]

@[simp] theorem State.taken_sections (s : State) : s.taken.sections = s.sections := by obtain ⟨a, k, hu⟩ := s.taken_rest; rw [hu]

@[simp] theorem State.taken_admission (s : State) : s.taken.admission = s.admission := by obtain ⟨a, k, hu⟩ := s.taken_rest; rw [hu]

@[simp] theorem State.taken_meters (s : State) : s.taken.meters = s.meters := by obtain ⟨a, k, hu⟩ := s.taken_rest; rw [hu]

@[simp] theorem State.taken_rings (s : State) : s.taken.rings = s.rings := by obtain ⟨a, k, hu⟩ := s.taken_rest; rw [hu]

@[simp] theorem State.taken_samples (s : State) : s.taken.samples = s.samples := by obtain ⟨a, k, hu⟩ := s.taken_rest; rw [hu]

@[simp] theorem State.taken_fresh (s : State) : s.taken.fresh = s.fresh := by obtain ⟨a, k, hu⟩ := s.taken_rest; rw [hu]

@[simp] theorem State.taken_pending (s : State) : s.taken.pending = s.pending := by obtain ⟨a, k, hu⟩ := s.taken_rest; rw [hu]

@[simp] theorem State.taken_ctx (s : State) (i : Slot) : s.taken.ctx i = s.ctx i := by unfold State.ctx; rw [s.taken_contexts]

@[simp] theorem State.taken_load (s : State) (x : SectionId) : s.taken.load x = s.load x := by unfold State.load; rw [s.taken_loads]

@[simp] theorem State.taken_sec (s : State) (x : SectionId) : s.taken.sec x = s.sec x := by unfold State.sec; rw [s.taken_sections]

@[simp] theorem State.taken_meter (s : State) (f : FeederId) : s.taken.meter f = s.meter f := by unfold State.meter; rw [s.taken_meters]

@[simp] theorem State.taken_ring (s : State) (f : FeederId) : s.taken.ring f = s.ring f := by unfold State.ring; rw [s.taken_rings]

/-- The state of RESTART before a ramp stop. -/
def State.restartedFor (s : State) (c : Caller) : State := (s.withAck c).restarted.report .restartDone 1 s.cAddress.toNat

theorem exec_restart {c : Caller} {s : State} (h : s.takes (.restart c)) :
    exec (.restart c) s = .next (s.taken.restartedFor c).stopIfAsserted := by
  unfold State.restartedFor
  rw [exec_taken (a := 0) rfl h, ← State.ack_room (State.taken_room h)]
  rfl

/-! ### The ramp resume (R125) -/

theorem SectionRec.unlocked_eq (r : SectionRec) : r.unlocked = decide (r.state = .isolated ∧ r.lockout = false) := by
  unfold SectionRec.unlocked
  rw [Bool.decide_and]
  cases r.lockout <;> cases r.state <;> rfl

theorem SectionRec.resumed_eq :
    SectionRec.resumed = fun r => if r.state = .isolated ∧ r.lockout = false then { r with state := .standby } else r := by
  funext r
  unfold SectionRec.resumed
  rw [SectionRec.unlocked_eq]
  simp only [decide_eq_true_eq]

/-! ### RESTART (R164) -/

/-- What RESTART leaves, with `l` queued behind the ACK. -/
structure State.RestartedFrom (s t : State) (c : Caller) (l : List Frame) : Prop where
  cQueue : t.cQueue = s.cQueue ++ ⟨0x70, c.src, s.cAddress, c.seq, []⟩ :: l
  requestBuffer : t.requestBuffer = s.requestBuffer.tail
  normalQueue : t.normalQueue = []
  broadcast : t.broadcast = true
  contexts : t.contexts = Vector.replicate 48 Context.freed
  fdr : ∀ f, t.fdr f = Feeder.resetWith (s.fdr f).config
  load : ∀ x, t.load x = 0
  sec : ∀ x, t.sec x = { SectionRec.reset with lockout := (s.sec x).lockout, ssu := (s.sec x).ssu }
  admission : t.admission = .halted
  swap : t.swap = .none
  swapTimer : t.swapTimer = none
  ring : ∀ f, t.ring f = (s.ring f).restarted
  latches : t.latches = 1
  counters : t.counters = { Counters.zero with c := { LinkCounters.zero with txDrops := t.counters.c.txDrops } }
  bankA : t.bankA = s.bankA
  bankB : t.bankB = s.bankB
  active : t.active = s.active
  classes : t.classes = s.classes
  globals : t.globals = s.globals
  meters : t.meters = s.meters
  samples : t.samples = s.samples
  cAddress : t.cAddress = s.cAddress
  pending : t.pending = s.pending
  stopLine : t.stopLine = s.stopLine

theorem State.restartedFor_taken (s : State) (c : Caller) : ∃ l, s.RestartedFrom (s.taken.restartedFor c) c l := by
  obtain ⟨a, k, hu⟩ := s.taken_rest
  rw [hu]
  unfold State.restartedFor
  generalize hv : (State.withAck { s with asmC := a, counters := k, requestBuffer := s.requestBuffer.tail } c).restarted = v
  obtain ⟨l, n, hq, hn⟩ := v.report_cLink .restartDone 1 s.cAddress.toNat
  subst hv
  refine ⟨l, ?_⟩
  constructor
  case cQueue => exact hq.trans (List.append_assoc ..)
  case latches =>
    rw [State.report_latches]
    show (0 : BitVec 22) ||| (1#22 <<< EventKind.restartDone.place.val) = 1
    decide
  case counters => rw [hn]; rfl
  case fdr => exact fun f => (State.report_fdr' ..).trans (Vector.getElem_map _ f.isLt)
  case load => exact fun x => (State.report_load' ..).trans (Vector.getElem_replicate x.isLt)
  case sec => exact fun x => (State.report_sec' ..).trans (Vector.getElem_map _ x.isLt)
  case ring => exact fun f => (State.report_ring' ..).trans (Vector.getElem_map _ f.isLt)
  all_goals simp only [State.report_requestBuffer, State.report_normalQueue, State.report_broadcast, State.report_contexts,
    State.report_admission, State.report_swap, State.report_swapTimer, State.report_bankA, State.report_bankB, State.report_active,
    State.report_classes, State.report_globals, State.report_meters, State.report_samples, State.report_cAddress,
    State.report_pending, State.report_stopLine]
  all_goals rfl

end Sys2Proof.Machine

open Sys2Proof Sys2Proof.Machine

/-- Settles O4: the reset state with its event, then the ramp stop of a part without contexts. -/
theorem hardResetSetsEveryBlock : Obligations.HardResetSetsEveryBlock := by
  have hfree : ∀ (s : State) straps i, ((s.poweredUp straps).ctx i).state = .free := fun s straps i => by
    simp [State.poweredUp, State.powerOn, State.ctx, Context.freed]
  refine ⟨fun s hl hs hf hp => ?_, fun straps s => ⟨fun hl => ?_, fun hl => ?_⟩⟩
  · rw [exec_hardReset, State.stopIfAsserted_released (s := s.poweredUp _) hl]
    unfold State.poweredUp State.reset
    rw [hl, hs, hf, hp]
    rfl
  · rw [exec_hardReset, State.stopIfAsserted_released (s := s.poweredUp _) hl]
    unfold State.poweredUp
    rw [hl]
  · have hc : Globals.reset.eventControl[EventKind.rampStop.place] % 2 = 1 := by decide
    rw [exec_hardReset, State.stopIfAsserted_free (s := s.poweredUp _) hl (hfree s straps) rfl,
      State.report_offered (s := { s.poweredUp straps with admission := .stopped, sections := _ }) (k := .rampStop) hc (Nat.le_add_left 1 27)]
    refine ⟨_, rfl, rfl, rfl, rfl, rfl, ?_, ?_, rfl, rfl, rfl, rfl, rfl, fun x => ?_⟩
    · unfold State.latched State.poweredUp State.powerOn
      dsimp only
      show alertOf Globals.reset (1 ||| (1#22 <<< EventKind.rampStop.place.val)) = true
      decide
    · show (1 : BitVec 22) ||| (1#22 <<< EventKind.rampStop.place.val) = 0x80001
      decide
    · simp [State.sec, State.latched, State.poweredUp, State.powerOn, SectionRec.stopped, SectionRec.reset]

/-- Settles O5: the assertion by definition; every other command but four is looked at out of reset alone. -/
theorem resetPinHoldsThePart : Obligations.ResetPinHoldsThePart := by
  refine ⟨fun _ => rfl, fun c s hp h1 h2 h3 h4 => ?_⟩
  cases c with
  | hardReset straps => exact absurd rfl (h1 straps)
  | rampStopLineAssert => exact absurd rfl h2
  | rampStopLineRelease => exact absurd rfl h3
  | resetPinAssertion => exact absurd rfl h4
  | _ =>
    simp only [
      exec, execPsn, execDrq, execAcc, execRel, execDat, execSst, execSmp, execCheckError, execRunt, execForeignFrame,
      execRequestFrame, execUnknownRequestKind, execTableWriteSection, execTableWriteGap, execTableWriteFeeder,
      execTableWriteClass, execTableWriteRing, execTableWriteGlobal, execTableReadSection, execTableReadGap,
      execTableReadFeeder, execTableReadClass, execTableReadRing, execTableReadGlobal, execBankSwap, execBankSwapForced,
      execSwapCancel, execSectionCmdIsolate, execSectionCmdEnable, execSectionCmdWake, execSectionCmdRestIdle,
      execSectionCmdRestStandby, execFeederCmdResume, execFeederCmdOffline, execTruckOrderLower, execTruckOrderHold,
      execTruckOrderUnhold, execTruckOrderClearFault, execTruckOrderEvict, execPassData, execHistoryRead, execHistoryRelease,
      execStatusRead, execCounterRead, execContextRead, execQueueRead, execRampStop, execRampResume, execRestart,
      execBroadcastWithdrawal, execWdrTransmit, execScmTransmit, execNormalQueueTransmit, execCLinkTransmit,
      execWLinkRateChange, execCLinkRateChange, execSilenceExpiry, execGrantExpiry, execOfferWindowExpiry,
      execOfferRepeatExpiry, execDropDeadlineExpiry, execCrossingTimerExpiry, execCarriedHoldExpiry, execSwapTimerExpiry,
      execOverloadTimerExpiry, execMeterSilenceExpiry, execMeterLostTimerExpiry, execIdleTimerExpiry, execStandbyTimerExpiry,
      execRaiseLimitExpiry, execPostTripCountEnd, execMarker, whileListening, takeRequest]
    exact whileOutOfReset_held hp _

/-- Settles O6: the ACK, the reset state and the event; where the line is asserted, then the ramp stop of a part without contexts. -/
theorem restartReturnsAdmissionToItsStart : Obligations.RestartReturnsAdmissionToItsStart := by
  refine ⟨fun c s ht hl => ?_, fun c s ht hl => ?_⟩
  all_goals
    obtain ⟨l, h⟩ := s.restartedFor_taken c
    rw [exec_restart ht]
    generalize s.taken.restartedFor c = t at h
  · rw [State.stopIfAsserted_released (h.stopLine.trans hl)]
    exact ⟨t, l, rfl, h.cQueue, h.requestBuffer, h.normalQueue, h.broadcast, h.contexts, h.fdr, h.load, h.sec, h.admission, h.swap,
      h.swapTimer, h.ring, h.latches, h.counters, h.bankA, h.bankB, h.active, h.classes, h.globals, h.meters, h.samples, h.cAddress,
      h.pending⟩
  · rw [State.stopIfAsserted_free (h.stopLine.trans hl) (fun i => by simp [State.ctx, h.contexts, Context.freed]) h.swap]
    obtain ⟨m, -, hm, -⟩ := State.report_cLink { t with admission := .stopped, sections := t.sections.map SectionRec.stopped } .rampStop 0 0
    refine ⟨_, l ++ m, rfl, ?_, ?_⟩
    · rw [hm, h.cQueue, List.append_assoc, List.cons_append]
    simp only [State.report_normalQueue, State.report_broadcast, State.report_contexts, State.report_fdr', State.report_load',
      State.report_sec', State.report_admission, State.report_swap, State.report_bankA, State.report_bankB, State.report_classes,
      State.report_globals, State.report_samples, State.report_latches]
    refine ⟨h.normalQueue, h.broadcast, trivial, h.swap, ?_, h.contexts, h.fdr, h.load, fun x => ?_, h.bankA, h.bankB, h.classes,
      h.globals, h.samples⟩
    · rw [h.latches]
      decide
    · have hx : (t.sec x).stopped = { (t.sec x) with
          state := .isolated, raiseOrigin := none, raiseTimer := none, idleTimer := none, standbyTimer := none, command := some .opening } := rfl
      exact (Vector.getElem_map _ x.isLt).trans (hx.trans (by rw [h.sec]; rfl))

/-- Settles O8: the refusals, then the resume, whose sections are those without lockout. -/
theorem rampResumeOpensAdmission : Obligations.RampResumeOpensAdmission := by
  intro c s ht
  have hq := State.taken_room ht
  have he : exec (.rampResume c) s = .next (s.taken.resumeRamp c) := exec_taken (a := 0) rfl ht
  rw [he]
  unfold State.resumeRamp
  rw [State.taken_stopLine, State.taken_admission]
  refine ⟨fun h => ?_, fun hl ha => ?_⟩
  · rw [if_pos (by simpa using h), State.nak_room hq]
    rfl
  · rw [if_neg (by simpa using ⟨hl, ha⟩), State.takeRampResume_eq,
      State.ack_room (State.report_room (s := { s.taken with admission := .running, sections := _ }) hq _ _ _), State.taken_sections,
      SectionRec.resumed_eq]
    simp only [SectionRec.unlocked_eq, State.taken_sec]

/-- Settles O34: the three cases of a report. -/
theorem eventsAreLatchedNumberedAndAlerted : Obligations.EventsAreLatchedNumberedAndAlerted := fun _ a b _ =>
  ⟨fun h => State.report_silent h a b, fun h hq => State.report_offered h hq a b, fun h hq => State.report_dropped h hq a b⟩

end

section
/-! PROOFS. A ramp stop: each context gives up what it holds, each section is ISOLATED, and a swap that completes then changes
neither (R105, R122 to R124). -/

namespace Sys2Proof.Machine
open Sys2Proof

/-- A pass that changes each slot's own context by the same change. -/
theorem State.eachSlot_ctx {g : State → Slot → State} {k : Context → Context}
    (hg : ∀ t i j, (g t i).ctx j = if i = j then k (t.ctx i) else t.ctx j) (s : State) (j : Slot) :
    (s.eachSlot g).ctx j = k (s.ctx j) := by
  have fold : ∀ (l : List Slot) (t : State), l.Nodup → (l.foldl g t).ctx j = if j ∈ l then k (t.ctx j) else t.ctx j := by
    intro l
    induction l with
    | nil => exact fun t _ => (if_neg List.not_mem_nil).symm
    | cons i l ih =>
      intro t hn
      obtain ⟨hi, hl⟩ := List.nodup_cons.1 hn
      rw [List.foldl_cons, ih _ hl, hg]
      by_cases e : i = j
      · subst e
        rw [if_neg hi, if_pos rfl, if_pos List.mem_cons_self]
      · rw [if_neg e]
        simp only [List.mem_cons, Ne.symm e, false_or]
  exact (fold allSlots s (List.nodup_finRange 48)).trans (if_pos (mem_allSlots j))

/-! ### The stop of one context (R105, R123) -/

/-- The context that a ramp stop leaves. -/
def Context.stopped (c : Context) : Context :=
  match c.state with
  | .drawing => { Context.settled { c with hold := none, gap := GapFields.clear } .tracked with withdraw := some ⟨.stop, true⟩ }
  | .dropping => { Context.settled { c with hold := none, gap := GapFields.clear }
      (if c.dropReason = some .fault then .faulted else .tracked) with withdraw := some ⟨.stop, true⟩ }
  | .offered => { Context.settled { c with hold := none, gap := GapFields.clear } .tracked with withdraw := some ⟨.stop, true⟩ }
  | .crossing => { Context.settled { c with hold := none, gap := GapFields.clear } .tracked with withdraw := some ⟨.stop, true⟩ }
  | .queued => Context.settled { c with hold := none, gap := GapFields.clear } .tracked
  | .tracked => c
  | .faulted => c
  | .free => c

theorem State.stopContext_ctx (s : State) (i j : Slot) :
    (s.stopContext i).ctx j = if i = j then (s.ctx i).stopped else s.ctx j := by
  unfold State.stopContext Context.stopped
  cases (s.ctx i).state <;> dsimp only
  case queued =>
    rw [State.refuse_ctx, State.giveUp_ctx]
    rfl
  case tracked => split <;> next e => simp [e]
  case faulted => split <;> next e => simp [e]
  case free => split <;> next e => simp [e]
  all_goals exact State.withdrawNow_ctx ..

theorem Context.stopped_told {c : Context} (h : c.toldOfStop = true) :
    c.stopped.state = (if c.state = .dropping ∧ c.dropReason = some .fault then .faulted else .tracked)
      ∧ c.stopped.hold = none ∧ c.stopped.gap = GapFields.clear ∧ (c.state ≠ .queued → c.stopped.withdraw = some ⟨.stop, true⟩) := by
  unfold Context.toldOfStop at h
  unfold Context.stopped Context.settled
  cases hc : c.state <;> simp [hc] at h ⊢

theorem Context.stopped_untold {c : Context} (h : c.toldOfStop = false) : c.stopped = c := by
  unfold Context.toldOfStop at h
  unfold Context.stopped
  cases hc : c.state <;> simp [hc] at h ⊢

/-- No context waits after a ramp stop. -/
theorem Context.stopped_waits (c : Context) : c.stopped.state ≠ .queued ∧ c.stopped.state ≠ .crossing := by
  unfold Context.stopped Context.settled
  cases hc : c.state <;> simp [hc]
  split <;> simp

/-- What a ramp stop on one context leaves alone. -/
structure SameRamp (s t : State) : Prop where
  swap : t.swap = s.swap
  latches : t.latches = s.latches
  lockouts : ∀ x, (t.sec x).lockout = (s.sec x).lockout
  stopLine : t.stopLine = s.stopLine

theorem HoldersOnly.sameRamp {s t : State} (h : HoldersOnly s t) : SameRamp s t where
  swap := by rw [h.rest]
  latches := by rw [h.rest]
  lockouts := h.lockouts
  stopLine := by rw [h.rest]

theorem State.stopContext_rest (s : State) (i : Slot) : SameRamp s (s.stopContext i) := by
  have now : ∀ st, SameRamp s (s.withdrawNow i .stop st) := fun st =>
    ((HoldersOnly.giveUp s i st).trans (HoldersOnly.modCtx _ i (fun c => { c with withdraw := some ⟨.stop, true⟩ }))).sameRamp
  have same : SameRamp s s := ⟨rfl, rfl, fun _ => rfl, rfl⟩
  unfold State.stopContext
  cases (s.ctx i).state <;> dsimp only
  case queued =>
    have h := (HoldersOnly.giveUp s i .tracked).sameRamp
    exact ⟨(State.sendNormal_swap ..).trans h.swap, (State.sendNormal_latches ..).trans h.latches,
      fun x => by unfold State.refuse State.refuseTruck; rw [State.sendNormal_sec']; exact h.lockouts x, (State.sendNormal_stopLine ..).trans h.stopLine⟩
  case tracked => exact same
  case faulted => exact same
  case free => exact same
  all_goals exact now _

theorem State.ctx_setSections (s : State) (v : Vector SectionRec 64) (i : Slot) : ({ s with sections := v } : State).ctx i = s.ctx i := rfl

theorem State.sec_setSections (s : State) (v : Vector SectionRec 64) (x : SectionId) : ({ s with sections := v } : State).sec x = v[x] := rfl

theorem State.rampStopped_ctx (s : State) (i : Slot) : s.rampStopped.ctx i = (s.ctx i).stopped := by
  unfold State.rampStopped
  rw [State.ctx_setSections, State.eachSlot_ctx State.stopContext_ctx]
  rfl

theorem State.eachSlot_stopContext_rest (s : State) : SameRamp s (s.eachSlot State.stopContext) :=
  State.eachSlot_induction (P := SameRamp s)
    (fun t i h => by
      have k := t.stopContext_rest i
      exact ⟨k.swap.trans h.swap, k.latches.trans h.latches, fun x => (k.lockouts x).trans (h.lockouts x), k.stopLine.trans h.stopLine⟩)
    ⟨rfl, rfl, fun _ => rfl, rfl⟩

theorem State.rampStopped_sec (s : State) (x : SectionId) :
    ∃ r : SectionRec, s.rampStopped.sec x = r.stopped ∧ r.lockout = (s.sec x).lockout := by
  have h := (State.eachSlot_stopContext_rest { s with admission := .stopped }).lockouts x
  unfold State.rampStopped
  rw [State.sec_setSections]
  exact ⟨_, Vector.getElem_map _ x.isLt, h⟩

/-- A ramp stop's pass changes neither the swap nor the latches. -/
theorem State.rampStopped_rest (s : State) : s.rampStopped.swap = s.swap ∧ s.rampStopped.latches = s.latches := by
  have h := State.eachSlot_stopContext_rest { s with admission := .stopped }
  unfold State.rampStopped
  generalize State.eachSlot _ _ = t at h ⊢
  exact ⟨h.swap, h.latches⟩

/-! ### A swap that completes with no context waiting -/

/-- Two states alike but for what a swap does to contexts that hold nothing. -/
structure State.SettledAs (s t : State) : Prop where
  admission : t.admission = s.admission
  sec : ∀ x, t.sec x = s.sec x
  state : ∀ i, (t.ctx i).state = (s.ctx i).state
  hold : ∀ i, (t.ctx i).hold = (s.ctx i).hold
  gap : ∀ i, (t.ctx i).gap = (s.ctx i).gap
  withdraw : ∀ i, (t.ctx i).withdraw = (s.ctx i).withdraw

namespace State.SettledAs
variable {s t u : State}

theorem refl (s : State) : s.SettledAs s := ⟨rfl, fun _ => rfl, fun _ => rfl, fun _ => rfl, fun _ => rfl, fun _ => rfl⟩

theorem trans (h : s.SettledAs t) (k : t.SettledAs u) : s.SettledAs u :=
  ⟨k.admission.trans h.admission, fun x => (k.sec x).trans (h.sec x), fun i => (k.state i).trans (h.state i),
    fun i => (k.hold i).trans (h.hold i), fun i => (k.gap i).trans (h.gap i), fun i => (k.withdraw i).trans (h.withdraw i)⟩

theorem of_same (ha : t.admission = s.admission) (hs : t.sections = s.sections) (hc : t.contexts = s.contexts) : s.SettledAs t := by
  have h : ∀ i, t.ctx i = s.ctx i := fun i => by unfold State.ctx; rw [hc]
  exact ⟨ha, fun x => by unfold State.sec; rw [hs], fun i => by rw [h], fun i => by rw [h], fun i => by rw [h], fun i => by rw [h]⟩

theorem report (s : State) (k : EventKind) (a b : Nat) : s.SettledAs (s.report k a b) :=
  of_same (State.report_admission ..) (State.report_sections ..) (State.report_contexts ..)

theorem resettle (s : State) (i : Slot) : s.SettledAs (s.resettle i) := by
  unfold State.resettle
  dsimp only
  split
  · exact refl s
  · refine ⟨rfl, fun _ => rfl, fun j => ?_, fun j => ?_, fun j => ?_, fun j => ?_⟩ <;>
      (rw [State.modCtx_ctx]; split <;> next e => simp [e])

end State.SettledAs

/-- No context is QUEUED or CROSSING. -/
def State.noneWaits (s : State) : Prop := ∀ i, (s.ctx i).state ≠ .queued ∧ (s.ctx i).state ≠ .crossing

theorem State.arbitrate_noneWaits {s : State} (h : s.noneWaits) (f : FeederId) : s.arbitrate f = s := by
  have he : s.eligible f = fun _ => false := by
    funext e
    rw [← Bool.not_eq_true, State.eligible_iff]
    rintro ⟨-, ⟨hq, -⟩ | ⟨hc, -⟩⟩
    · exact (h _).1 hq
    · exact (h _).2 hc
  apply State.arbitrate_idle
  rw [State.roundCandidate_eq, State.nextEntry, he]
  simp

theorem State.arbitrateAll_noneWaits {s : State} (h : s.noneWaits) : s.arbitrateAll = s :=
  List.foldlRecOn (motive := fun t => t = s) _ _ rfl fun t ht f _ => by rw [ht, State.arbitrate_noneWaits h]

theorem State.noneWaits_of_settledAs {s t : State} (h : s.SettledAs t) (hs : s.noneWaits) : t.noneWaits := fun i => by
  rw [h.state]
  exact hs i

/-- A completed swap changes neither a section that is ISOLATED nor what a context that does not wait holds (R17, R18, R117). -/
theorem State.completeSwap_settledAs {s : State} (hw : s.noneWaits) (hx : ∀ x, (s.sec x).state = .isolated) : s.SettledAs s.completeSwap := by
  have resettled : s.SettledAs (s.flip.eachSlot State.resettle) :=
    State.eachSlot_induction (P := s.SettledAs) (fun t i ht => ht.trans (.resettle t i)) (.of_same rfl rfl rfl)
  have checked : (s.flip.eachSlot State.resettle).sectionsAfterSwap = s.flip.eachSlot State.resettle := by
    refine List.foldlRecOn (motive := fun t => t = s.flip.eachSlot State.resettle) _ _ rfl fun t ht x _ => ?_
    rw [ht]
    unfold State.sectionAfterSwap
    rw [resettled.sec, hx]
  unfold State.completeSwap
  rw [checked]
  generalize s.flip.eachSlot State.resettle = t at resettled
  have ht := State.noneWaits_of_settledAs resettled hw
  have hq : t.eachSlot State.rehomeQueued = t := State.eachSlot_eq_self fun i => by
    unfold State.rehomeQueued
    rw [if_neg (by simpa using (ht i).1)]
  dsimp only
  rw [hq]
  generalize hu : t.report .swapDone _ _ = u
  have hu' : s.SettledAs u := hu ▸ resettled.trans (.report ..)
  have hn := State.noneWaits_of_settledAs hu' hw
  have told : ∀ moved, u.eachSlot (State.tellRehomed moved) = u := fun moved => State.eachSlot_eq_self fun i => by
    have hd : ∀ tag, u.deferIfQueued i tag = u := fun tag => if_neg (by simpa using (hn i).1)
    unfold State.tellRehomed
    rw [hd]
    split <;> rfl
  rw [State.arbitrateAll_noneWaits hn, told]
  exact hu'

theorem State.evalSwap_settledAs {s : State} (hw : s.noneWaits) (hx : ∀ x, (s.sec x).state = .isolated) : s.SettledAs s.evalSwap := by
  unfold State.evalSwap
  split
  · exact State.completeSwap_settledAs hw hx
  · exact .refl s

/-! ### The ramp stop -/

theorem keeps_stopLine (b : Bool) : Keeps (fun s => s.stopLine = b) :=
  Keeps.ofHolders (fun c h => c.stopLine.trans h) (fun _ h => by simpa using h) (fun _ _ h => by simpa using h)
    (fun c h => by rw [c.rest]; exact h) (fun _ _ _ _ h => h) (fun _ _ _ h => h) (fun _ _ h => h) (fun _ _ h => h)
    (fun _ _ h => h) (fun h => h) (fun _ _ h => h)

theorem State.lineStop_stopLine (s : State) : s.lineStop.stopLine = s.stopLine := by
  have K := keeps_stopLine s.stopLine
  unfold State.lineStop
  exact K.evalSwap (K.takeRampStop_of 0 (fun _ _ h => h) rfl)

/-- An ACK that finds room stands last. -/
theorem State.ack_getLast {s : State} (h : s.cQueue.length < 32) (c : Caller) :
    (s.ack c).cQueue.getLast? = some ⟨0x70, c.src, s.cAddress, c.seq, []⟩ := by
  rw [State.ack_room h]
  exact List.getLast?_append_of_ne_nil _ (List.cons_ne_nil _ _)

/-- What a ramp stop leaves of `s` (R105, R122 to R124). -/
structure State.StoppedFrom (s t : State) : Prop where
  admission : t.admission = .stopped
  sec : ∀ x, ∃ r : SectionRec, t.sec x = r.stopped ∧ r.lockout = (s.sec x).lockout
  state : ∀ i, (t.ctx i).state = (s.ctx i).stopped.state
  hold : ∀ i, (t.ctx i).hold = (s.ctx i).stopped.hold
  gap : ∀ i, (t.ctx i).gap = (s.ctx i).stopped.gap
  withdraw : ∀ i, (t.ctx i).withdraw = (s.ctx i).stopped.withdraw
  latches : s.swap = .none → t.latches = s.latches ||| 0x80000

theorem State.StoppedFrom.ack {s t : State} (h : s.StoppedFrom t) (hr : t.cQueue.length < 32) (c : Caller) : s.StoppedFrom (t.ack c) := by
  rw [State.ack_room hr]
  exact ⟨h.admission, h.sec, h.state, h.hold, h.gap, h.withdraw, h.latches⟩

theorem State.rampStop_stoppedFrom (s : State) (n : Nat) : s.StoppedFrom (s.takeRampStop n).evalSwap := by
  rw [State.takeRampStop_eq]
  generalize (allSlots.filter (fun i => (s.ctx i).toldOfStop)).length = m
  have hc : ∀ i, ((s.rampStopped.report .rampStop n m).ctx i) = (s.ctx i).stopped := fun i => by
    rw [State.report_ctx', State.rampStopped_ctx]
  have hx : ∀ x, ((s.rampStopped.report .rampStop n m).sec x) = s.rampStopped.sec x := fun x => State.report_sec' ..
  have h : (s.rampStopped.report .rampStop n m).SettledAs (s.rampStopped.report .rampStop n m).evalSwap :=
    State.evalSwap_settledAs (fun i => by rw [hc]; exact Context.stopped_waits _)
      (fun x => by rw [hx, State.rampStopped_sec_state])
  constructor
  case admission => rw [h.admission, State.report_admission, State.rampStopped_admission]
  case sec => exact fun x => by rw [h.sec, hx]; exact s.rampStopped_sec x
  case state => exact fun i => by rw [h.state, hc]
  case hold => exact fun i => by rw [h.hold, hc]
  case gap => exact fun i => by rw [h.gap, hc]
  case withdraw => exact fun i => by rw [h.withdraw, hc]
  case latches =>
    intro hs
    rw [State.evalSwap_none (by rw [State.report_swap, s.rampStopped_rest.1, hs]), State.report_latches, s.rampStopped_rest.2]
    rfl

end Sys2Proof.Machine

open Sys2Proof Sys2Proof.Machine

/-- Settles O7: by the line, and by the request, which answers last. -/
theorem rampStopTakesEveryHolding : Obligations.RampStopTakesEveryHolding := by
  intro s stopped
  have all : ∀ u t : State, u.contexts = s.contexts → u.sections = s.sections → u.swap = s.swap → u.latches = s.latches →
      u.StoppedFrom t → stopped t := by
    intro u t hc hx hw hl h
    have hi : ∀ i, u.ctx i = s.ctx i := fun i => by unfold State.ctx; rw [hc]
    have hy : ∀ x, u.sec x = s.sec x := fun x => by unfold State.sec; rw [hx]
    refine ⟨h.admission, fun x => ?_, fun i ht => ?_, fun i ht => ?_, fun hs => ?_⟩
    · obtain ⟨r, hr, hk⟩ := h.sec x
      rw [hr]
      exact ⟨rfl, rfl, rfl, rfl, rfl, rfl, hk.trans (by rw [hy])⟩
    · obtain ⟨h1, h2, h3, h4⟩ := Context.stopped_told ht
      rw [h.state, h.hold, h.gap, h.withdraw, hi]
      exact ⟨h1, h2, h3, h4⟩
    · rw [h.state, hi, Context.stopped_untold ht]
    · rw [h.latches (hw.trans hs), hl]
  refine ⟨fun hp hl => ?_, fun c ht => ?_, rfl, fun hl => ?_, fun hp => ?_⟩
  · refine ⟨({ s with stopLine := true } : State).lineStop, ?_, ?_, all { s with stopLine := true } _ rfl rfl rfl rfl
      (State.rampStop_stoppedFrom { s with stopLine := true } 0)⟩
    · show Host.Outcome.next (if s.stopLine then s else if s.resetPin then _ else _) = _
      rw [if_neg (by simp [hl]), if_neg (by simp [hp])]
    · exact State.lineStop_stopLine { s with stopLine := true }
  · have hr : ((s.taken.takeRampStop 1).evalSwap).cQueue.length < 32 := by
      have K := keeps_onlyEvents s.taken
      exact (K.evalSwap (K.takeRampStop_of 1 (fun _ _ h => h) (State.onlyEvents_refl (State.taken_room ht)))).2.1
    have he : exec (.rampStop c) s = .next ((s.taken.takeRampStop 1).evalSwap.ack c) := exec_taken (a := 0) rfl ht
    refine ⟨_, he, ?_, ?_⟩
    · exact all s.taken _ s.taken_contexts s.taken_sections s.taken_swap s.taken_latches
        ((State.rampStop_stoppedFrom s.taken 1).ack hr c)
    · have ha : ((s.taken.takeRampStop 1).evalSwap).cAddress = s.cAddress := by
        have K := keeps_onlyEvents s.taken
        exact (K.evalSwap (K.takeRampStop_of 1 (fun _ _ h => h) (State.onlyEvents_refl (State.taken_room ht)))).1.trans s.taken_cAddress
      rw [← ha]
      exact State.ack_getLast hr c
  · show Host.Outcome.next (if s.stopLine then s else _) = _
    rw [if_pos hl]
  · have same : s.stopLine = true → ({ s with stopLine := true } : State) = s := fun hl => by rw [← hl]
    show Host.Outcome.next (if s.stopLine then s else if s.resetPin then _ else _) = _
    split
    · next hl => rw [same hl]
    · rfl

end

section
/-! PROOFS. TABLE_WRITE: the checks of each table in their order, and the write that passes (R4, R30, R131, R159). -/

namespace Sys2Proof
open Sys2Proof.Machine

/-! ### The ranges of the written fields -/

/-- A field of the written SECTION entry is outside its range (R4). -/
def SectionWire.outOfRange (e : SectionWire) : Prop :=
  e.high.toNat < e.low.toNat ∨ 2000 < e.wake.toNat ∨ 123 < e.idle.toNat ∨ 123 < e.standby.toNat
    ∨ 1 < e.valid.toNat ∨ 15 < e.feeder.toNat ∨ 1 < e.fast.toNat

/-- A field of the written GAP entry is outside its range (R4). -/
def GapWire.outOfRange (e : GapWire) : Prop :=
  e.high.toNat < e.low.toNat ∨ 1000 < e.approach.toNat ∨ e.crossing = 0 ∨ 120 < e.crossing.toNat
    ∨ 1 < e.valid.toNat ∨ 63 < e.lower.toNat ∨ 63 < e.upper.toNat ∨ 1 < e.bridgeable.toNat

/-- A field of the written CLASS entry is outside its range (R30). -/
def ClassWire.outOfRange (e : ClassWire) : Prop :=
  (e.base ≠ 1 ∧ e.base ≠ 2) ∨ e.cap = 0 ∨ e.maxHold = 0 ∨ 1 < e.valid.toNat ∨ 1 < e.through.toNat

/-- A field of the written RING entry is outside its range (R131). -/
def RingWire.outOfRange (e : RingWire) : Prop :=
  8191 < e.start.toNat ∨ e.length.toNat < 16 ∨ 2048 < e.length.toNat ∨ e.length.toNat % 16 ≠ 0
    ∨ e.distance = 0 ∨ 63 < e.distance.toNat ∨ 8192 < e.start.toNat + e.length.toNat
    ∨ 1 < e.enabled.toNat ∨ 1 < e.freeze.toNat ∨ 1 < e.wrap.toNat

/-- The descriptor that the bytes of a RING entry stand for. -/
def RingWire.desc (e : RingWire) : RingDesc :=
  { enabled := e.enabled == 1, start := e.start.toNat, length := e.length.toNat, distance := e.distance.toNat
    threshold := e.threshold.toNat, postTrip := e.postTrip.toNat, freeze := e.freeze == 1, wrap := e.wrap == 1 }

end Sys2Proof

namespace Sys2Proof.Machine
open Sys2Proof

/-! ### The bytes of an entry -/

theorem sectionOfByte_none {b : Byte} (h : 63 < b.toNat) : sectionOfByte b = none := dif_neg (by omega)

theorem sectionOfByte_of_val {b : Byte} {x : SectionId} (h : x.val = b.toNat) : sectionOfByte b = some x := by
  unfold sectionOfByte
  rw [dif_pos (h ▸ x.isLt)]
  exact congrArg some (Fin.ext h.symm)

theorem gapOfByte_none {b : Byte} (h : 31 < b.toNat) : gapOfByte b = none := dif_neg (by omega)

theorem gapOfByte_of_val {b : Byte} {g : GapId} (h : g.val = b.toNat) : gapOfByte b = some g := by
  unfold gapOfByte
  rw [dif_pos (h ▸ g.isLt)]
  exact congrArg some (Fin.ext h.symm)

theorem classOfByte_none {b : Byte} (h : 7 < b.toNat) : classOfByte b = none := dif_neg (by omega)

theorem classOfByte_of_val {b : Byte} {k : Fin 8} (h : k.val = b.toNat) : classOfByte b = some k := by
  unfold classOfByte
  rw [dif_pos (h ▸ k.isLt)]
  exact congrArg some (Fin.ext h.symm)

theorem bankOfByte_none {b : Byte} (h : 1 < b.toNat) : bankOfByte b = none := by
  unfold bankOfByte
  split
  · omega
  · omega
  · rfl

theorem byte_eq_one_iff (b : Byte) : b = 1 ↔ b.toNat = 1 := by
  rw [← BitVec.toNat_inj]
  rfl

theorem word_eq_zero_iff (w : Word) : w = 0 ↔ w.toNat = 0 := by
  rw [← BitVec.toNat_inj]
  rfl

/-- A bank byte of a bank names the active bank or the shadow bank. -/
theorem bankOfByte_some {b : Byte} (h : b.toNat ≤ 1) : ∃ k, bankOfByte b = some k ∧ k.code = b.toNat := by
  have : b.toNat = 0 ∨ b.toNat = 1 := by omega
  unfold bankOfByte
  rcases this with e | e <;> rw [e]
  · exact ⟨.a, rfl, rfl⟩
  · exact ⟨.b, rfl, rfl⟩

theorem BankId.code_inj {k m : BankId} : k.code = m.code ↔ k = m := by cases k <;> cases m <;> simp [BankId.code]

theorem BankId.eq_other {k m : BankId} (h : k ≠ m) : k = m.other := by
  cases k <;> cases m <;> simp [BankId.other] at h ⊢

theorem flagOf_some {b : Byte} (h : b.toNat ≤ 1) : flagOf b = some (b == 1) := by
  have : b.toNat = 0 ∨ b.toNat = 1 := by omega
  rcases this with e | e
  · rw [(byte_eq_zero_iff b).2 e]; rfl
  · rw [(byte_eq_one_iff b).2 e]; rfl

/-! ### The map (R4) -/

theorem sectionEntryOf_bad {e : SectionWire} (h : e.outOfRange) : sectionEntryOf e = none := by
  unfold sectionEntryOf
  split
  · next v f w hv hf hw =>
    have := flagOf_range hv
    have := feederOfByte_range hf
    have := flagOf_range hw
    exact if_neg (by unfold SectionWire.outOfRange at h; omega)
  · rfl

theorem sectionEntryOf_good {e : SectionWire} (h : ¬e.outOfRange) : ∃ f : FeederId, f.val = e.feeder.toNat ∧
    sectionEntryOf e = some { valid := e.valid == 1, low := e.low.toNat, high := e.high.toNat, feeder := f
                              limit := e.limit.toNat, wake := e.wake.toNat, idleCode := e.idle.toNat
                              standbyCode := e.standby.toNat, fastRaise := e.fast == 1 } := by
  unfold SectionWire.outOfRange at h
  refine ⟨⟨e.feeder.toNat, by omega⟩, rfl, ?_⟩
  unfold sectionEntryOf
  rw [flagOf_some (by omega), flagOf_some (by omega), feederOfByte_some (by omega)]
  exact if_pos (by omega)

theorem gapEntryOf_bad {e : GapWire} (h : e.outOfRange) : gapEntryOf e = none := by
  unfold gapEntryOf
  split
  · next v lo up w hv hl hu hw =>
    have := flagOf_range hv
    have := sectionOfByte_val hl
    have := sectionOfByte_val hu
    have := flagOf_range hw
    exact if_neg (by simp only [GapWire.outOfRange, byte_eq_zero_iff] at h; omega)
  · rfl

theorem gapEntryOf_good {e : GapWire} (h : ¬e.outOfRange) : ∃ lo up : SectionId, lo.val = e.lower.toNat ∧ up.val = e.upper.toNat ∧
    gapEntryOf e = some { valid := e.valid == 1, low := e.low.toNat, high := e.high.toNat, lower := lo, upper := up
                          approach := e.approach.toNat, bridgeable := e.bridgeable == 1, crossingLimit := e.crossing.toNat } := by
  simp only [GapWire.outOfRange, byte_eq_zero_iff] at h
  refine ⟨⟨e.lower.toNat, by omega⟩, ⟨e.upper.toNat, by omega⟩, rfl, rfl, ?_⟩
  unfold gapEntryOf
  rw [flagOf_some (by omega), flagOf_some (by omega), sectionOfByte_some (by omega), sectionOfByte_some (by omega)]
  exact if_pos (by omega)

theorem State.swapPending_false {s : State} (h : s.swap = .none) : s.swapPending = false := by simp [State.swapPending, h]

theorem State.swapPending_true {s : State} (h : s.swap ≠ .none) : s.swapPending = true := by simp [State.swapPending, h]

@[simp] theorem State.taken_swapPending (s : State) : s.taken.swapPending = s.swapPending := by simp [State.swapPending]

theorem State.taken_shadowBank (s : State) : s.taken.bank s.active.other = s.shadowBank := by
  unfold State.shadowBank State.bank
  rw [s.taken_bankA, s.taken_bankB]

theorem State.setBank_room {s : State} (h : s.cQueue.length < 32) (k : BankId) (b : Bank) : (s.setBank k b).cQueue.length < 32 := by
  rw [(s.setBank_cQueue k b).2]
  exact h

/-- What a byte of a bank names, and the entry that a write to it replaces. -/
theorem bankOfByte_active {s : State} {b : Byte} (h : b.toNat = s.active.code) : bankOfByte b = some s.active := by
  obtain ⟨k, hk, hc⟩ := bankOfByte_some (b := b) (by rw [h]; cases s.active <;> decide)
  rw [hk, BankId.code_inj.1 (hc.trans h)]

theorem bankOfByte_other {s : State} {b : Byte} (hb : b.toNat ≤ 1) (h : b.toNat ≠ s.active.code) :
    bankOfByte b = some s.active.other ∧ (s.active.other == s.active) = false := by
  obtain ⟨k, hk, hc⟩ := bankOfByte_some hb
  have hn : k ≠ s.active := fun e => h (by rw [← hc, e])
  rw [hk, BankId.eq_other hn]
  exact ⟨rfl, by cases s.active <;> rfl⟩

/-! ### Classes (R30, R31) -/

theorem levelOfByte_none {b : Byte} (h : b ≠ 1 ∧ b ≠ 2) : levelOfByte b = none := by
  have h1 := mt (byte_eq_one_iff b).2 h.1
  have h2 : b.toNat ≠ 2 := fun e => h.2 (BitVec.eq_of_toNat_eq e)
  unfold levelOfByte
  split
  · exact absurd ‹_› h1
  · exact absurd ‹_› h2
  · rfl

theorem levelOfByte_some {b : Byte} (h : b = 1 ∨ b = 2) : levelOfByte b = some (if b = 1 then .one else .two) := by
  rcases h with e | e <;> rw [e] <;> rfl

theorem classEntryOf_bad {e : ClassWire} (h : e.outOfRange) : classEntryOf e = none := by
  unfold classEntryOf
  split
  · next v b w hv hb hw =>
    have := flagOf_range hv
    have := flagOf_range hw
    simp only [ClassWire.outOfRange, byte_eq_zero_iff, word_eq_zero_iff] at h
    rcases h with h | h
    · simp [levelOfByte_none h] at hb
    · exact if_neg (by omega)
  · rfl

theorem classEntryOf_good {e : ClassWire} (h : ¬e.outOfRange) : classEntryOf e = some
    { valid := e.valid == 1, matchBits := e.matchBits, mask := e.mask, base := if e.base = 1 then .one else .two
      cap := e.cap.toNat, maxHold := e.maxHold.toNat, holdThrough := e.through == 1 } := by
  simp only [ClassWire.outOfRange, byte_eq_zero_iff, word_eq_zero_iff, not_or] at h
  obtain ⟨hb, hc, hm, hv, ht⟩ := h
  unfold classEntryOf
  rw [flagOf_some (by omega), flagOf_some (by omega), levelOfByte_some (by tauto)]
  exact if_pos (by omega)

theorem ClassEntry.matchesTruck_iff (e : ClassEntry) (truck : Byte) :
    e.matchesTruck truck = true ↔ e.valid = true ∧ truck &&& e.mask = e.matchBits &&& e.mask := by
  unfold ClassEntry.matchesTruck
  rw [Bool.and_eq_true, beq_iff_eq]

/-- The first matching entry gives the class (R31). -/
theorem State.resolveClass_first {s : State} {truck : Byte} {k : Fin 8} (h : (s.classEntry k).matchesTruck truck = true)
    (hf : ∀ j, j < k → ¬(s.classEntry j).matchesTruck truck = true) :
    s.resolveClass truck = { index := some k, level := (s.classEntry k).base, cap := (s.classEntry k).cap
                             maxHold := (s.classEntry k).maxHold, holdThrough := (s.classEntry k).holdThrough } := by
  have he : (List.finRange 8).find? (fun k => (s.classEntry k).matchesTruck truck) = some k := by
    refine List.find?_eq_some_iff_getElem.2 ⟨h, k.val, by simp, by simp, fun j hj => ?_⟩
    simpa using hf ⟨j, by omega⟩ hj
  unfold State.resolveClass
  rw [he]

theorem State.resolveClass_default {s : State} {truck : Byte} (h : ∀ k, ¬(s.classEntry k).matchesTruck truck = true) :
    s.resolveClass truck = TruckClass.default s.globals.defaultCap := by
  unfold State.resolveClass
  rw [List.find?_eq_none.2 fun k _ => h k]

/-! ### Rings (R131) -/

theorem ringDescOf_bad {e : RingWire} (h : e.outOfRange) : ringDescOf e = none := by
  unfold ringDescOf
  split
  · next v b w hv hb hw =>
    have := flagOf_range hv
    have := flagOf_range hb
    have := flagOf_range hw
    exact if_neg (by simp only [RingWire.outOfRange, byte_eq_zero_iff] at h; omega)
  · rfl

theorem ringDescOf_good {e : RingWire} (h : ¬e.outOfRange) : ringDescOf e = some e.desc := by
  simp only [RingWire.outOfRange, byte_eq_zero_iff] at h
  unfold ringDescOf
  rw [flagOf_some (by omega), flagOf_some (by omega), flagOf_some (by omega)]
  exact if_pos (by omega)

theorem State.taken_ringOverlaps (s : State) (f : FeederId) (d : RingDesc) : s.taken.ringOverlaps f d = s.ringOverlaps f d := by
  unfold State.ringOverlaps
  simp only [State.taken_ring]

theorem Ring.moved_iff (r : Ring) (e : RingWire) : r.moved e.desc = true ↔
    r.desc.enabled = true ∧ e.enabled = 1 ∧ (e.desc.start ≠ r.desc.start ∨ e.desc.length ≠ r.desc.length) := by
  unfold Ring.moved
  simp [RingWire.desc, and_assoc]

/-- The ring that a written entry leaves (R131). -/
theorem Ring.rewritten_desc (r : Ring) (e : RingWire) : r.rewritten e.desc = if r.desc.enabled = true ∧ e.enabled = 1 then { r with desc := e.desc }
    else { desc := e.desc, state := if e.enabled = 1 then .recording else .disabled, writePos := e.desc.start, fill := 0, countdown := none } := by
  unfold Ring.rewritten
  simp only [Bool.and_eq_true, RingWire.desc, beq_iff_eq]

theorem State.modRing_congr {s : State} {f : FeederId} {g h : Ring → Ring} (e : g (s.ring f) = h (s.ring f)) : s.modRing f g = s.modRing f h := by
  unfold State.modRing
  rw [e]

/-- Two rings that are not empty share an address exactly where their ranges meet. -/
theorem RingDesc.meets_iff {a b : RingDesc} (ha : 0 < a.length) (hb : 0 < b.length) : a.meets b = true ↔
    ∃ n, a.start ≤ n ∧ n < a.start + a.length ∧ b.start ≤ n ∧ n < b.start + b.length := by
  unfold RingDesc.meets
  rw [Bool.and_eq_true, decide_eq_true_iff, decide_eq_true_iff]
  constructor
  · exact fun ⟨h1, h2⟩ => ⟨max a.start b.start, by omega⟩
  · exact fun ⟨n, hn⟩ => by omega

theorem State.ringOverlaps_iff {s : State} (hs : s.ringsSound) (f : FeederId) {e : RingWire} (he : ¬e.outOfRange) :
    s.ringOverlaps f e.desc = true ↔ e.enabled = 1 ∧ ∃ g, g ≠ f ∧ (s.ring g).desc.enabled = true ∧ ∃ n, e.desc.start ≤ n
      ∧ n < e.desc.start + e.desc.length ∧ (s.ring g).desc.start ≤ n ∧ n < (s.ring g).desc.start + (s.ring g).desc.length := by
  have hd : 0 < e.desc.length := by
    show 0 < e.length.toNat
    unfold RingWire.outOfRange at he
    omega
  have hg : ∀ g, 0 < (s.ring g).desc.length := fun g => by
    have := (hs g).1
    omega
  have hm := fun g => RingDesc.meets_iff hd (hg g)
  unfold State.ringOverlaps
  simp only [Bool.and_eq_true, List.any_eq_true, bne_iff_ne, hm, and_assoc]
  simp [RingWire.desc, allFeeders]

end Sys2Proof.Machine

open Sys2Proof Sys2Proof.Machine

/-- Settles O26: the checks in their order for each table of the map. -/
theorem mapWritesAreCheckedInOrder : Obligations.MapWritesAreCheckedInOrder := by
  refine ⟨fun c bank index e s ht => ?_, fun c bank index e s ht => ?_⟩
  · have hq := State.taken_room ht
    have he : exec (.tableWriteSection c bank index e) s = .next (s.taken.writeSection c bank index e) := exec_taken (a := 0) rfl ht
    simp only [he]
    unfold State.writeSection
    refine ⟨fun h => ?_, fun hb x hx => ⟨fun ha => ?_, fun ha hw => ?_, fun ha hw he => ?_, fun ha hw he => ?_⟩⟩
    · have hn : bankOfByte bank = none ∨ sectionOfByte index = none := h.imp bankOfByte_none sectionOfByte_none
      split
      · next hk hx => simp [hk, hx] at hn
      · rw [State.nak_room hq]; rfl
    · rw [bankOfByte_active ha, sectionOfByte_of_val hx]
      dsimp only
      rw [State.taken_active, if_pos (beq_self_eq_true _), State.nak_room hq]
      rfl
    all_goals
      obtain ⟨hk, hn⟩ := bankOfByte_other hb ha
      rw [hk, sectionOfByte_of_val hx]
      dsimp only
      rw [State.taken_active, hn, if_neg Bool.false_ne_true, State.taken_swapPending]
    · rw [State.swapPending_true hw, if_pos rfl, State.nak_room hq]
      rfl
    · rw [State.swapPending_false hw, if_neg Bool.false_ne_true, sectionEntryOf_bad he]
      dsimp only
      rw [State.nak_room hq]
      rfl
    · obtain ⟨f, hf, hv⟩ := sectionEntryOf_good he
      refine ⟨f, hf, ?_⟩
      rw [State.swapPending_false hw, if_neg Bool.false_ne_true, hv]
      unfold State.putSection
      dsimp only
      rw [State.taken_shadowBank, State.ack_room (State.setBank_room hq _ _)]
  · have hq := State.taken_room ht
    have he : exec (.tableWriteGap c bank index e) s = .next (s.taken.writeGap c bank index e) := exec_taken (a := 0) rfl ht
    simp only [he]
    unfold State.writeGap
    refine ⟨fun h => ?_, fun hb g hg => ⟨fun ha => ?_, fun ha hw => ?_, fun ha hw he => ?_, fun ha hw he => ?_⟩⟩
    · have hn : bankOfByte bank = none ∨ gapOfByte index = none := h.imp bankOfByte_none gapOfByte_none
      split
      · next hk hx => simp [hk, hx] at hn
      · rw [State.nak_room hq]; rfl
    · rw [bankOfByte_active ha, gapOfByte_of_val hg]
      dsimp only
      rw [State.taken_active, if_pos (beq_self_eq_true _), State.nak_room hq]
      rfl
    all_goals
      obtain ⟨hk, hn⟩ := bankOfByte_other hb ha
      rw [hk, gapOfByte_of_val hg]
      dsimp only
      rw [State.taken_active, hn, if_neg Bool.false_ne_true, State.taken_swapPending]
    · rw [State.swapPending_true hw, if_pos rfl, State.nak_room hq]
      rfl
    · rw [State.swapPending_false hw, if_neg Bool.false_ne_true, gapEntryOf_bad he]
      dsimp only
      rw [State.nak_room hq]
      rfl
    · obtain ⟨lo, up, hl, hu, hv⟩ := gapEntryOf_good he
      refine ⟨lo, up, hl, hu, ?_⟩
      rw [State.swapPending_false hw, if_neg Bool.false_ne_true, hv]
      unfold State.putGap
      dsimp only
      rw [State.taken_shadowBank, State.ack_room (State.setBank_room hq _ _)]

/-- Settles O28: the checks of the CLASS table; the class of the first matching entry. -/
theorem classWritesReplaceTheEntry : Obligations.ClassWritesReplaceTheEntry := by
  refine ⟨fun c bank index e s ht => ?_, fun truck s => ⟨fun k hk hf => ?_, fun h => ?_⟩⟩
  · have hq := State.taken_room ht
    have he : exec (.tableWriteClass c bank index e) s = .next (s.taken.writeClass c index e) := exec_taken (a := 0) rfl ht
    simp only [he]
    unfold State.writeClass
    refine ⟨fun h => ?_, fun k hk => ⟨fun hb => ?_, fun hb => ?_⟩⟩
    · rw [classOfByte_none h]
      dsimp only
      rw [State.nak_room hq]
      rfl
    · rw [classOfByte_of_val hk, classEntryOf_bad hb]
      dsimp only
      rw [State.nak_room hq]
      rfl
    · rw [classOfByte_of_val hk, classEntryOf_good hb]
      dsimp only
      rw [State.taken_classes]
      refine congrArg Host.Outcome.next (State.ack_room ?_ c)
      exact hq
  · exact State.resolveClass_first ((ClassEntry.matchesTruck_iff _ _).2 hk) fun j hj => mt (ClassEntry.matchesTruck_iff _ _).1 (hf j hj)
  · exact State.resolveClass_default fun k => mt (ClassEntry.matchesTruck_iff _ _).1 (h k)

/-- Settles O29: the checks of the RING table in their order, and the ring that a write leaves. -/
theorem ringWritesActOnTheRing : Obligations.RingWritesActOnTheRing := by
  intro c bank index e s ht
  have hq := State.taken_room ht
  have he : exec (.tableWriteRing c bank index e) s = .next (s.taken.writeDescriptor c index e) := exec_taken (a := 0) rfl ht
  simp only [he]
  unfold State.writeDescriptor
  refine ⟨fun h => ?_, fun f hf => ⟨fun hb => ?_, fun hb hm => ?_, fun hb hm hs ho => ?_, fun hb hm ho hs => ?_⟩⟩
  · rw [feederOfByte_none h]
    dsimp only
    rw [State.nak_room hq]
    rfl
  · rw [feederOfByte_val hf, ringDescOf_bad hb]
    dsimp only
    rw [State.nak_room hq]
    rfl
  all_goals
    rw [feederOfByte_val hf, ringDescOf_good hb]
    dsimp only
    rw [State.taken_ring]
  · rw [if_pos ((Ring.moved_iff _ _).2 hm), State.nak_room hq]
    rfl
  all_goals rw [if_neg (mt (Ring.moved_iff _ _).1 hm), State.taken_ringOverlaps]
  · rw [if_pos ((State.ringOverlaps_iff hs f hb).2 ho), State.nak_room hq]
    rfl
  · rw [if_neg (mt (State.ringOverlaps_iff hs f hb).1 ho), State.ack_room (s := s.taken.modRing f _) hq]
    refine congrArg (fun u : State => Host.Outcome.next (u.withAck c)) (State.modRing_congr ?_)
    rw [State.taken_ring]
    exact Ring.rewritten_desc _ e

end

section
/-! PROOFS. TABLE_WRITE of the GLOBAL table: the parameters, their ranges and their effects (R35, R140, R159, R161). -/

namespace Sys2Proof.Machine
open Sys2Proof

/-! ### The parameters -/

theorem controlPlace_none {n : Nat} (h : n < 32 ∨ 53 < n) : controlPlace n = none := dif_neg (by omega)

/-- An index of no parameter has no range and no value. -/
theorem globalRange_none {n : Nat} (h : n = 0 ∨ 22 ≤ n ∧ n ≤ 31 ∨ 54 ≤ n) : globalRange n = none ∧ ∀ g : Globals, g.read n = none := by
  have hc := controlPlace_none (n := n) (by omega)
  refine ⟨?_, fun g => ?_⟩
  · unfold globalRange
    split
    case h_22 => rw [hc]; rfl
    all_goals omega
  · unfold Globals.read
    split
    case h_22 => rw [hc]; rfl
    all_goals omega

theorem controlPlace_some {n : Nat} {p : Fin 22} (h : controlPlace n = some p) : n = 32 + p.val := by
  unfold controlPlace at h
  split at h
  · rw [← Option.some.inj h]
    dsimp only
    omega
  · cases h

theorem controlPlace_of_place (p : Fin 22) : controlPlace (32 + p.val) = some p := by
  unfold controlPlace
  rw [dif_pos (by omega)]
  exact congrArg some (Fin.ext (Nat.add_sub_cancel_left ..))

section
variable {n : Nat} {p : Fin 22} (h : controlPlace n = some p)
include h

theorem globalRange_control : globalRange n = some (0, 3) := by
  have hn := controlPlace_some h
  unfold globalRange
  split
  case h_22 => rw [h]; rfl
  all_goals omega

theorem Globals.read_control (g : Globals) : g.read n = some g.eventControl[p] := by
  have hn := controlPlace_some h
  unfold Globals.read
  split
  case h_22 => rw [h]; rfl
  all_goals omega

theorem Globals.write_control (g : Globals) (v : Nat) : g.write n v = { g with eventControl := g.eventControl.set p v } := by
  have hn := controlPlace_some h
  unfold Globals.write
  split
  case h_22 => rw [h]
  all_goals omega

end

/-- Reading a parameter that is no event control does not look at the event controls. -/
theorem Globals.read_setControl {g : Globals} {j : Nat} (h : controlPlace j = none) (e : Vector Nat 22) :
    ({ g with eventControl := e } : Globals).read j = g.read j := by
  unfold Globals.read
  split
  case h_22 => rw [h]; rfl
  all_goals rfl

/-- A parameter that is written is read back. -/
theorem Globals.read_write_self {g : Globals} {n : Nat} (h : globalRange n ≠ none) (v : Nat) : (g.write n v).read n = some v := by
  cases hp : controlPlace n with
  | some p =>
    rw [Globals.write_control hp, Globals.read_control hp]
    exact congrArg some (Vector.getElem_set_self ..)
  | none =>
    unfold Globals.write
    unfold globalRange at h
    split
    case h_22 => simp [hp] at h
    all_goals rfl

/-- The other parameters are read as they were. -/
theorem Globals.read_write_other {g : Globals} {n j : Nat} (h : j ≠ n) (v : Nat) : (g.write n v).read j = g.read j := by
  cases hp : controlPlace n with
  | some p =>
    rw [Globals.write_control hp]
    cases hj : controlPlace j with
    | none => exact Globals.read_setControl hj _
    | some q =>
      have hq : p.val ≠ q.val := fun e => h (by rw [controlPlace_some hj, controlPlace_some hp, e])
      rw [Globals.read_control hj, Globals.read_control hj]
      exact congrArg some (Vector.getElem_set_ne p.isLt q.isLt hq)
  | none =>
    unfold Globals.write
    split
    case h_22 => rw [hp]
    all_goals
      unfold Globals.read
      split <;> simp only [ne_eq, not_true_eq_false] at h ⊢

/-! ### The effects -/

theorem Context.unfaulted_eq (c : Context) : ({ c.unfaulted with strikes := 0 } : Context) = { c with
    strikes := 0
    state := if c.state = .faulted then .tracked else c.state
    dropReason := if c.state = .dropping ∧ c.dropReason = some .fault then some .order else c.dropReason } := by
  unfold Context.unfaulted
  cases hs : c.state <;> simp [hs]

/-- The context that a change of the exclusion setting leaves (R35). -/
def Context.unstruck (c : Context) : Context := if c.state = .free then c else { c.unfaulted with strikes := 0 }

theorem State.clearExclusion_ctx (s : State) (i j : Slot) : (s.clearExclusion i).ctx j = if i = j then (s.ctx i).unstruck else s.ctx j := by
  unfold State.clearExclusion Context.unstruck
  simp only [beq_iff_eq]
  by_cases hf : (s.ctx i).state = .free
  · rw [if_pos hf, if_pos hf]
    split
    · next e => rw [e]
    · rfl
  · rw [if_neg hf, if_neg hf, State.modCtx_ctx]

theorem State.clearExclusion_rest (s : State) (i : Slot) : s.clearExclusion i = { s with contexts := (s.clearExclusion i).contexts } := by
  unfold State.clearExclusion
  split <;> rfl

theorem State.eachSlot_clearExclusion_rest (s : State) :
    s.eachSlot State.clearExclusion = { s with contexts := (s.eachSlot State.clearExclusion).contexts } :=
  State.eachSlot_induction (P := fun t => t = { s with contexts := t.contexts })
    (fun t i h => (t.clearExclusion_rest i).trans (by rw [h])) rfl

section
variable {s : State} {n v : Nat}

theorem State.applyGlobal_plain (h2 : n ≠ 2) (h9 : n ≠ 9) (hc : controlPlace n = none) :
    s.applyGlobal n v = { s with globals := s.globals.write n v } := by
  unfold State.applyGlobal
  dsimp only
  rw [if_neg h2, if_neg h9, hc]
  rfl

theorem State.applyGlobal_rate : s.applyGlobal 2 v =
    { s with globals := s.globals.write 2 v, cRatePending := s.cRatePending ++ [(s.cQueue.length + 1, v)] } := rfl

theorem State.applyGlobal_exclusion : s.applyGlobal 9 v = { s.changeExclusion v with globals := s.globals.write 9 v } := rfl

theorem State.ctx_setGlobals (t : State) (g : Globals) (i : Slot) : ({ t with globals := g } : State).ctx i = t.ctx i := rfl

theorem State.applyGlobal_control {p : Fin 22} (hc : controlPlace n = some p) :
    s.applyGlobal n v = ({ s with globals := s.globals.write n v } : State).evalAlert := by
  have hn := controlPlace_some hc
  unfold State.applyGlobal
  dsimp only
  rw [if_neg (by omega), if_neg (by omega), hc]
  rfl

end

end Sys2Proof.Machine

open Sys2Proof Sys2Proof.Machine

/-- Settles O30: the parameters one by one, and the effects by index. -/
theorem globalWritesTakeEffect : Obligations.GlobalWritesTakeEffect := by
  refine ⟨fun n => ?_, fun k => ⟨globalRange_control (controlPlace_of_place k), fun g => Globals.read_control (controlPlace_of_place k) g⟩,
    fun n h => globalRange_none h, fun c bank index v s ht => ?_⟩
  · fin_cases n <;> exact ⟨rfl, fun _ => rfl⟩
  · have hq := State.taken_room ht
    have he : exec (.tableWriteGlobal c bank index v) s = .next (s.taken.writeGlobal c index v) := exec_taken (a := 0) rfl ht
    simp only [he]
    unfold State.writeGlobal
    refine ⟨fun h => ?_, fun lo hi hr => ⟨fun h => ?_, fun hl hh => ?_⟩⟩
    · rw [(globalRange_none (h.imp_left (byte_eq_zero_iff index).1)).1]
      dsimp only
      rw [State.nak_room hq]
      rfl
    all_goals
      rw [hr]
      dsimp only
    · rw [if_neg (by omega), State.nak_room hq]
      rfl
    · have ha : (s.taken.applyGlobal index.toNat v.toNat).ack c = (s.taken.applyGlobal index.toNat v.toNat).withAck c :=
        State.ack_room (State.onlyEvents_applyGlobal hq _ _).2.1 c
      have hz : globalRange index.toNat ≠ none := by rw [hr]; exact Option.some_ne_none _
      rw [if_pos ⟨hl, hh⟩, ha]
      refine ⟨Globals.read_write_self hz _, fun j hj => Globals.read_write_other hj _, fun h2 h9 hn => ?_, fun h2 => ?_, fun h9 hx => ?_,
        fun h9 hx => ?_, fun h => ?_⟩
      · rw [State.applyGlobal_plain (fun e => h2 (BitVec.eq_of_toNat_eq e)) (fun e => h9 (BitVec.eq_of_toNat_eq e)) (controlPlace_none (by omega)),
          State.taken_globals]
      · rw [show index.toNat = 2 by rw [h2]; rfl, State.applyGlobal_rate, State.taken_globals, State.taken_cRatePending, s.taken_cQueue.1]
      · rw [show index.toNat = 9 by rw [h9]; rfl, State.applyGlobal_exclusion, State.taken_globals]
        unfold State.changeExclusion
        rw [State.taken_globals, if_pos hx.symm]
      · rw [show index.toNat = 9 by rw [h9]; rfl, State.applyGlobal_exclusion, State.taken_globals]
        unfold State.changeExclusion
        rw [State.taken_globals, if_neg (Ne.symm hx)]
        refine ⟨_, rfl, fun i => ?_, ?_⟩
        · rw [State.ctx_setGlobals, State.eachSlot_ctx State.clearExclusion_ctx, State.taken_ctx]
          unfold Context.unstruck
          rw [Context.unfaulted_eq]
        · rw [State.eachSlot_clearExclusion_rest]
      · have hn : index.toNat ≤ 53 := by
          by_contra hn
          exact hz (globalRange_none (by omega)).1
        have hp : controlPlace index.toNat = some ⟨index.toNat - 32, by omega⟩ := dif_pos ⟨h, hn⟩
        rw [State.applyGlobal_control hp, State.taken_globals]
        rfl

end

section
/-! PROOFS. TABLE_READ: each entry as stored, and a written entry read as it was written (R5, R30, R70, R106, R132, R157). -/

namespace Sys2Proof.Machine
open Sys2Proof

/-! ### The bytes of an entry read back -/

theorem byte_toNat (b : Byte) : byte b.toNat = b := by
  unfold byte
  rw [BitVec.ofNat_toNat, BitVec.setWidth_eq]

theorem nat16_toNat (w : Word) : nat16 w.toNat = be16 w := by
  unfold nat16
  rw [BitVec.ofNat_toNat, BitVec.setWidth_eq]

theorem flagByte_of_flagOf {b : Byte} {v : Bool} (h : flagOf b = some v) : flagByte v = b := by
  unfold flagOf at h
  split at h
  · next e => cases h; exact ((byte_eq_zero_iff b).2 e).symm
  · next e => cases h; exact ((byte_eq_one_iff b).2 e).symm
  · cases h

theorem byte_of_feederOfByte {b : Byte} {f : FeederId} (h : feederOfByte b = some f) : byte f.val = b := by
  unfold feederOfByte at h
  split at h
  · rw [← Option.some.inj h]; exact byte_toNat b
  · cases h

theorem byte_of_sectionOfByte {b : Byte} {x : SectionId} (h : sectionOfByte b = some x) : byte x.val = b := by
  rw [sectionOfByte_val h]
  exact byte_toNat b

theorem code_of_levelOfByte {b : Byte} {l : Level} (h : levelOfByte b = some l) : byte l.code = b := by
  unfold levelOfByte at h
  split at h
  · next e => cases h; exact ((byte_eq_one_iff b).2 e).symm
  · next e => cases h; exact (BitVec.eq_of_toNat_eq e : b = 2).symm
  · cases h

theorem sectionEntryOf_bytes {e : SectionWire} {v : SectionEntry} (h : sectionEntryOf e = some v) : v.bytes = e.bytes := by
  unfold sectionEntryOf at h
  split at h
  · next a f w ha hf hw =>
    split at h
    · cases h
      simp only [SectionEntry.bytes, SectionWire.bytes, nat16_toNat, byte_toNat, flagByte_of_flagOf ha, flagByte_of_flagOf hw,
        byte_of_feederOfByte hf]
    · cases h
  · cases h

theorem gapEntryOf_bytes {e : GapWire} {v : GapEntry} (h : gapEntryOf e = some v) : v.bytes = e.bytes := by
  unfold gapEntryOf at h
  split at h
  · next a x y w ha hx hy hw =>
    split at h
    · cases h
      simp only [GapEntry.bytes, GapWire.bytes, nat16_toNat, byte_toNat, flagByte_of_flagOf ha, flagByte_of_flagOf hw,
        byte_of_sectionOfByte hx, byte_of_sectionOfByte hy]
    · cases h
  · cases h

theorem feederConfigOf_bytes {e : FeederWire} {v : FeederConfig} (h : feederConfigOf e = some v) : v.bytes = e.bytes := by
  unfold feederConfigOf at h
  split at h
  · cases h
    simp only [FeederConfig.bytes, FeederWire.bytes, nat16_toNat, byte_toNat]
  · cases h

theorem classEntryOf_bytes {e : ClassWire} {v : ClassEntry} (h : classEntryOf e = some v) : v.bytes = e.bytes := by
  unfold classEntryOf at h
  split at h
  · next a l w ha hl hw =>
    split at h
    · cases h
      simp only [ClassEntry.bytes, ClassWire.bytes, nat16_toNat, byte_toNat, flagByte_of_flagOf ha, flagByte_of_flagOf hw,
        code_of_levelOfByte hl]
    · cases h
  · cases h

theorem ringDescOf_bytes {e : RingWire} {v : RingDesc} (h : ringDescOf e = some v) : v.bytes = e.bytes := by
  unfold ringDescOf at h
  split at h
  · next a p w ha hp hw =>
    split at h
    · cases h
      simp only [RingDesc.bytes, RingWire.bytes, nat16_toNat, byte_toNat, flagByte_of_flagOf ha, flagByte_of_flagOf hp,
        flagByte_of_flagOf hw]
    · cases h
  · cases h

theorem nat16_bytes (n : Nat) : nat16 n = [BitVec.ofNat 8 (n / 256), BitVec.ofNat 8 n] := by
  have hh : hiByte (BitVec.ofNat 16 n) = BitVec.ofNat 8 (n / 256) := BitVec.eq_of_toNat_eq <| by
    simp only [hiByte, BitVec.extractLsb'_toNat, BitVec.toNat_ofNat, Nat.shiftRight_eq_div_pow]
    omega
  have hl : loByte (BitVec.ofNat 16 n) = BitVec.ofNat 8 n := BitVec.eq_of_toNat_eq <| by
    simp only [loByte, BitVec.extractLsb'_toNat, BitVec.toNat_ofNat, Nat.shiftRight_zero]
    omega
  unfold nat16 be16
  rw [hh, hl]

/-! ### The replies -/

/-- The sample bytes of a RING read: the flags, then the latest sample or free bytes (R132, log 6). -/
theorem Meter.ringBytes_eq (m : Meter) (n : Nat) : m.ringBytes n = byte m.flags :: (m.ringBytes n).tail ∧ (m.ringBytes n).tail.length = 6
    ∧ ∀ u, m.latest = some u → (m.ringBytes n).tail = [byte (breakerCode u.breaker), u.seq] ++ nat16 u.current ++ nat16 u.voltage := by
  unfold Meter.ringBytes
  cases hm : m.latest with
  | some u => exact ⟨rfl, rfl, fun v hv => by cases hv; rfl⟩
  | none => exact ⟨rfl, rfl, fun v hv => by cases hv⟩

section
variable {s : State} (hq : s.cQueue.length < 32) (c : Caller) (bank : Byte) {index : Byte}
include hq

theorem State.tableData_room (t : Nat) (b i : Byte) (p : List Byte) : s.tableData c t b i p = s.withReply c 0x72 ([byte t, b, i] ++ p) :=
  State.reply_room hq c 0x72 _

omit hq in
theorem State.taken_bank (k : BankId) : s.taken.bank k = s.bank k := by
  unfold State.bank
  rw [s.taken_bankA, s.taken_bankB]

theorem State.readSection_bad (h : 1 < bank.toNat ∨ 63 < index.toNat) : s.readSection c bank index = s.withNak c 3 1 index := by
  have hn : bankOfByte bank = none ∨ sectionOfByte index = none := h.imp bankOfByte_none sectionOfByte_none
  unfold State.readSection
  split
  · next hk hx => simp [hk, hx] at hn
  · exact State.nak_room hq c .badIndex 1 index

theorem State.readGap_bad (h : 1 < bank.toNat ∨ 31 < index.toNat) : s.readGap c bank index = s.withNak c 3 2 index := by
  have hn : bankOfByte bank = none ∨ gapOfByte index = none := h.imp bankOfByte_none gapOfByte_none
  unfold State.readGap
  split
  · next hk hx => simp [hk, hx] at hn
  · exact State.nak_room hq c .badIndex 2 index

/-- The RING read: the sample bytes of a meter without one are free (log 6). -/
theorem State.readRing_good {f : FeederId} (h : f.val = index.toNat) : ∃ p n, s.readRing c bank index
      = { s.withReply c 0x72 ([5, bank, index] ++ ((s.ring f).desc.bytes ++ [byte (s.ring f).state.code] ++ nat16 (s.ring f).writePos
          ++ nat16 (s.ring f).fill ++ [byte ((s.ring f).countdown.getD 255)]
          ++ [byte ((if (s.meter f).latest.isSome then 1 else 0) + if (s.meter f).silence.isSome then 2 else 0)] ++ p)) with fresh := n }
    ∧ p.length = 6 ∧ ∀ m, (s.meter f).latest = some m → p = [byte (breakerCode m.breaker), m.seq] ++ nat16 m.current ++ nat16 m.voltage := by
  have hp : s.readRing c bank index = if (s.meter f).latest.isNone then
      (s.withReply c 0x72 ([5, bank, index] ++ ((s.ring f).desc.bytes ++ (s.ring f).bytes ++ (s.meter f).ringBytes s.fresh))).drawn 4
      else s.withReply c 0x72 ([5, bank, index] ++ ((s.ring f).desc.bytes ++ (s.ring f).bytes ++ (s.meter f).ringBytes s.fresh)) := by
    unfold State.readRing
    rw [feederOfByte_val h]
    dsimp only
    rw [State.tableData_room hq]
    rfl
  obtain ⟨hb, hl, hs⟩ := (s.meter f).ringBytes_eq s.fresh
  refine ⟨((s.meter f).ringBytes s.fresh).tail, if (s.meter f).latest.isNone then s.fresh + 4 else s.fresh, ?_, hl, hs⟩
  rw [hp, show (s.ring f).desc.bytes ++ (s.ring f).bytes ++ (s.meter f).ringBytes s.fresh = (s.ring f).desc.bytes ++
    [byte (s.ring f).state.code] ++ nat16 (s.ring f).writePos ++ nat16 (s.ring f).fill ++ [byte ((s.ring f).countdown.getD 255)]
    ++ [byte (s.meter f).flags] ++ ((s.meter f).ringBytes s.fresh).tail by rw [hb]; simp [Ring.bytes, byteOr255]]
  split <;> rfl

end

end Sys2Proof.Machine

open Sys2Proof Sys2Proof.Machine

/-- Settles O31: each table's read, and the bytes of each entry. -/
theorem tableReadsReturnWhatIsStored : Obligations.TableReadsReturnWhatIsStored := by
  intro c bank index s
  refine ⟨fun ht => ?_, fun ht => ?_, fun ht => ?_, fun ht => ?_, fun ht => ?_, fun ht => ?_, fun e v => sectionEntryOf_bytes,
    fun e v => gapEntryOf_bytes, fun e v => feederConfigOf_bytes, fun e v => classEntryOf_bytes, fun e v => ringDescOf_bytes, nat16_bytes,
    fun r => ?_, fun e => rfl, fun e => rfl, fun e => rfl, fun e => ?_, fun e => rfl⟩
  · have hq := State.taken_room ht
    have he : exec (.tableReadSection c bank index) s = .next (s.taken.readSection c bank index) := exec_taken (a := 0) rfl ht
    rw [he]
    refine ⟨fun h => by rw [State.readSection_bad hq c bank h], fun k x hk hx => ?_⟩
    unfold State.readSection
    rw [hk, sectionOfByte_of_val hx]
    dsimp only
    rw [State.tableData_room hq, State.taken_sec, State.taken_bank]
    rfl
  · have hq := State.taken_room ht
    have he : exec (.tableReadGap c bank index) s = .next (s.taken.readGap c bank index) := exec_taken (a := 0) rfl ht
    rw [he]
    refine ⟨fun h => by rw [State.readGap_bad hq c bank h], fun k g hk hg => ?_⟩
    unfold State.readGap
    rw [hk, gapOfByte_of_val hg]
    dsimp only
    rw [State.tableData_room hq, State.taken_bank]
    rfl
  · have hq := State.taken_room ht
    have he : exec (.tableReadFeeder c bank index) s = .next (s.taken.readFeeder c bank index) := exec_taken (a := 0) rfl ht
    rw [he]
    unfold State.readFeeder
    refine ⟨fun h => ?_, fun f hf => ?_⟩
    · rw [feederOfByte_none h]
      exact congrArg Host.Outcome.next (State.nak_room hq c .badIndex 3 index)
    · rw [feederOfByte_val hf]
      dsimp only
      rw [State.tableData_room hq, State.taken_fdr]
      simp only [Feeder.bytes, List.append_assoc]
      rfl
  · have hq := State.taken_room ht
    have he : exec (.tableReadClass c bank index) s = .next (s.taken.readClass c bank index) := exec_taken (a := 0) rfl ht
    rw [he]
    unfold State.readClass
    refine ⟨fun h => ?_, fun k hk => ?_⟩
    · rw [classOfByte_none h]
      exact congrArg Host.Outcome.next (State.nak_room hq c .badIndex 4 index)
    · rw [classOfByte_of_val hk]
      dsimp only
      unfold State.classEntry
      rw [State.tableData_room hq, State.taken_classes]
      rfl
  · have hq := State.taken_room ht
    have he : exec (.tableReadRing c bank index) s = .next (s.taken.readRing c bank index) := exec_taken (a := 0) rfl ht
    rw [he]
    refine ⟨fun h => ?_, fun f hf => ?_⟩
    · unfold State.readRing
      rw [feederOfByte_none h]
      exact congrArg Host.Outcome.next (State.nak_room hq c .badIndex 5 index)
    · obtain ⟨p, n, hr, hl, hm⟩ := State.readRing_good hq c bank hf
      rw [State.taken_ring, State.taken_meter] at hr
      rw [State.taken_meter] at hm
      exact ⟨p, n, by rw [hr], hl, hm⟩
  · have hq := State.taken_room ht
    have he : exec (.tableReadGlobal c bank index) s = .next (s.taken.readGlobal c bank index) := exec_taken (a := 0) rfl ht
    rw [he]
    unfold State.readGlobal
    rw [State.taken_globals]
    refine ⟨fun h => ?_, fun v h => ?_⟩
    · rw [h]
      exact congrArg Host.Outcome.next (State.nak_room hq c .badIndex 6 index)
    · rw [h]
      exact congrArg Host.Outcome.next (State.tableData_room hq c 6 bank index _)
  · intro timer code origin status command
    have hc : byte r.state.code = code := by unfold code; cases r.state <;> rfl
    have ho : byteOr255 (r.raiseOrigin.map RaiseOrigin.code) = origin := by
      unfold origin
      rcases r.raiseOrigin with _ | o
      · rfl
      · cases o <;> rfl
    have hs : ssuBytes r.ssu = status := by unfold status; cases r.ssu <;> rfl
    have hm : byteOr0 (r.command.map (fun c => 1 + c.code)) = command := by
      unfold command
      rcases r.command with _ | o
      · rfl
      · cases o <;> rfl
    unfold SectionRec.bytes
    rw [hc, ho, hs, hm]
    rfl
  · cases hb : e.base <;> simp [ClassEntry.bytes, hb, Level.code, byte]

end

section
/-! PROOFS. Malformed requests, and the replies of STATUS_READ and COUNTER_READ (R36, R79, R120, R156, R162, R163). -/

namespace Sys2Proof.Machine
open Sys2Proof

/-! ### Malformed requests (R156) -/

@[simp] theorem State.taken_slotOf (s : State) (t : Byte) : s.taken.slotOf t = s.slotOf t := by
  unfold State.slotOf
  simp only [State.taken_ctx]

section
variable {s : State} {kind : Byte} {payload : List Byte}

/-- Outside the five kinds that name a table or a target the NAK is BAD_KIND without either. -/
theorem malformed_other (h : kind.toNat ∉ [0x50, 0x51, 0x54, 0x55, 0x56]) : malformed s kind payload = (.badKind, 0, 255) := by
  unfold malformed
  split
  case h_7 => rfl
  all_goals simp_all

theorem malformed_empty (h : kind.toNat = 0x50 ∨ kind.toNat = 0x51) : malformed s kind [] = (.badKind, 0, 255) := by
  unfold malformed
  rcases h with h | h <;> rw [h] <;> rfl

theorem malformed_write (h : kind.toNat = 0x50) (t : Byte) (rest : List Byte) :
    malformed s kind (t :: rest) = if isTable t then (.badKind, t, 255) else (.badTable, t, 255) := by
  unfold malformed
  rw [h]
  rfl

theorem malformed_read_length (h : kind.toNat = 0x51) (t : Byte) {rest : List Byte} (hl : rest.length ≠ 2) :
    malformed s kind (t :: rest) = (.badKind, t, 255) := by
  unfold malformed
  rw [h]
  split <;> simp_all

theorem malformed_read_table (h : kind.toNat = 0x51) (t : Byte) {rest : List Byte} (hl : rest.length = 2) :
    malformed s kind (t :: rest) = (.badTable, t, 255) := by
  obtain ⟨a, b, rfl⟩ := List.length_eq_two.1 hl
  unfold malformed
  rw [h]
  rfl

theorem malformed_section (h : kind.toNat = 0x54) (x k : Byte) :
    malformed s kind [x, k] = if (sectionOfByte x).isSome then (.badValue, 0, x) else (.badIndex, 0, x) := by
  unfold malformed
  rw [h]
  rfl

theorem malformed_feeder (h : kind.toNat = 0x55) (f k : Byte) :
    malformed s kind [f, k] = if (feederOfByte f).isSome then (.badValue, 0, f) else (.badIndex, 0, f) := by
  unfold malformed
  rw [h]
  rfl

theorem malformed_truck (h : kind.toNat = 0x56) (t k : Byte) :
    malformed s kind [t, k] = if (s.slotOf t).isSome then (.badValue, 0, t) else (.unknownTruck, 0, t) := by
  unfold malformed
  rw [h]
  rfl

theorem malformed_length (h : kind.toNat = 0x54 ∨ kind.toNat = 0x55 ∨ kind.toNat = 0x56) (hl : payload.length ≠ 2) :
    malformed s kind payload = (.badKind, 0, 255) := by
  unfold malformed
  split <;> simp_all

theorem isTable_iff (t : Byte) : isTable t = true ↔ 1 ≤ t.toNat ∧ t.toNat ≤ 6 := decide_eq_true_iff

end

end Sys2Proof.Machine

open Sys2Proof Sys2Proof.Machine

/-- Settles O25: the NAK by the kind and the payload. -/
theorem malformedRequestsAreRefused : Obligations.MalformedRequestsAreRefused := by
  intro c kind payload s ht
  have hq := State.taken_room ht
  have he : exec (.unknownRequestKind c kind payload) s = .next (s.taken.answerMalformed c kind payload) := exec_taken (a := 0) rfl ht
  have refuse : ∀ k t i, malformed s.taken kind payload = (k, t, i) → exec (.unknownRequestKind c kind payload) s
      = .next (s.taken.withNak c (byte k.code) t i) := fun k t i h => by
    rw [he]
    unfold State.answerMalformed
    rw [h]
    exact congrArg Host.Outcome.next (State.nak_room hq c k t i)
  dsimp only
  refine ⟨fun h => ?_, fun h hp => ?_, fun t rest h hp ht => ?_, fun t rest h hp h1 h6 _ => ?_, fun h hp => ?_, fun t rest h hp hl => ?_,
    fun t rest h hp hl _ => ?_, fun x k h hp _ => ⟨fun hx => ?_, fun hx => ?_⟩, fun f k h hp _ => ⟨fun hf => ?_, fun hf => ?_⟩,
    fun t k h hp _ => ⟨fun hn => ?_, fun hn => ?_⟩, fun h hl => ?_, fun h _ => ?_⟩
  · exact refuse .badKind 0 255 (malformed_other (by simp; omega))
  · subst hp
    exact refuse .badKind 0 255 (malformed_empty (.inl (by rw [h]; rfl)))
  · subst hp
    exact refuse .badTable t 255 ((malformed_write (by rw [h]; rfl) t rest).trans (if_neg (by rw [isTable_iff]; omega)))
  · subst hp
    exact refuse .badKind t 255 ((malformed_write (by rw [h]; rfl) t rest).trans (if_pos ((isTable_iff t).2 ⟨h1, h6⟩)))
  · subst hp
    exact refuse .badKind 0 255 (malformed_empty (.inr (by rw [h]; rfl)))
  · subst hp
    exact refuse .badKind t 255 (malformed_read_length (by rw [h]; rfl) t hl)
  · subst hp
    exact refuse .badTable t 255 (malformed_read_table (by rw [h]; rfl) t hl)
  · subst hp
    exact refuse .badIndex 0 x ((malformed_section (by rw [h]; rfl) x k).trans (by rw [sectionOfByte_none hx]; rfl))
  · subst hp
    exact refuse .badValue 0 x ((malformed_section (by rw [h]; rfl) x k).trans (by rw [sectionOfByte_some hx]; rfl))
  · subst hp
    exact refuse .badIndex 0 f ((malformed_feeder (by rw [h]; rfl) f k).trans (by rw [feederOfByte_none hf]; rfl))
  · subst hp
    exact refuse .badValue 0 f ((malformed_feeder (by rw [h]; rfl) f k).trans (by rw [feederOfByte_some hf]; rfl))
  · subst hp
    exact refuse .unknownTruck 0 t ((malformed_truck (by rw [h]; rfl) t k).trans (by rw [State.taken_slotOf, hn]; rfl))
  · subst hp
    exact refuse .badValue 0 t ((malformed_truck (by rw [h]; rfl) t k).trans
      (by rw [State.taken_slotOf, if_pos (Option.isSome_iff_ne_none.2 hn)]))
  · exact refuse .badKind 0 255 (malformed_length (by simp only [List.mem_cons, List.not_mem_nil, or_false] at h; rcases h with h | h | h <;> rw [h] <;> decide) hl)
  · exact refuse .badKind 0 255 (malformed_other (by simp only [List.mem_cons, List.not_mem_nil, or_false] at h ⊢; rcases h with h | h | h | h | h | h | h | h | h | h | h | h <;> rw [h] <;> decide))

end

section
/-! PROOFS. The reads of the whole part: status, counters, contexts and queues (R21, R40, R70, R162, R163). -/

namespace Sys2Proof.Machine
open Sys2Proof

/-! ### Rows of equal length -/

/-- Rows of equal length laid end to end are found again at their places. -/
theorem take_drop_flatMap {α β : Type} {g : α → List β} {n : Nat} (hg : ∀ a, (g a).length = n) (l : List α) (i : Nat) (hi : i < l.length) :
    ((l.flatMap g).drop (n * i)).take n = g l[i] := by
  induction l generalizing i with
  | nil => exact absurd hi (Nat.not_lt_zero i)
  | cons a l ih =>
    rw [List.flatMap_cons]
    cases i with
    | zero =>
      rw [Nat.mul_zero, List.drop_zero, ← hg a, List.take_left']
      · rfl
      · rfl
    | succ i =>
      have hd : n * (i + 1) = (g a).length + n * i := by rw [hg]; ring
      rw [hd, ← List.drop_drop, List.drop_left']
      · exact ih i (Nat.lt_of_succ_lt_succ hi)
      · rfl

/-- The places of a row of eight: its first two bytes and the six behind them. -/
theorem List.places_of_take_drop {l q : List Byte} {n : Nat} {x y : Byte} (h : (l.drop n).take 8 = x :: y :: q) :
    l.getD n 0 = x ∧ l.getD (n + 1) 0 = y ∧ (l.drop (n + 2)).take 6 = q := by
  have at_ : ∀ j, j < 8 → l[n + j]? = (x :: y :: q)[j]? := fun j hj => by
    rw [← h, List.getElem?_take_of_lt hj, List.getElem?_drop]
  refine ⟨?_, ?_, ?_⟩
  · rw [List.getD_eq_getElem?_getD, show l[n]? = _ from at_ 0 (by decide)]
    rfl
  · rw [List.getD_eq_getElem?_getD, at_ 1 (by decide)]
    rfl
  · rw [← List.drop_drop]
    have := congrArg (List.drop 2) h
    rwa [List.drop_take] at this

/-! ### STATUS_DATA (R162) -/

theorem Meter.statusBytes_eq (m : Meter) (n : Nat) : ∃ q, m.statusBytes n = byte m.flags :: q ∧ q.length = 6
    ∧ ∀ u, m.latest = some u → q = [byte (breakerCode u.breaker), u.seq] ++ nat16 u.current ++ nat16 u.voltage := by
  unfold Meter.statusBytes
  cases hm : m.latest with
  | some u => exact ⟨_, rfl, rfl, fun v hv => by cases hv; rfl⟩
  | none => exact ⟨_, rfl, rfl, fun v hv => by cases hv⟩

theorem State.feederStatus_length (s : State) (f : FeederId) : (s.feederStatus f).length = 8 := by
  obtain ⟨q, hq, hl, -⟩ := (s.meter f).statusBytes_eq (s.fresh + 6 * f.val)
  unfold State.feederStatus
  rw [hq, List.length_cons, List.length_cons, hl]

/-- The status of a feeder stands at its place behind the first eight bytes. -/
theorem State.statusBytes_feeder (s : State) (f : FeederId) : (s.statusBytes.drop (8 + 8 * f.val)).take 8 = s.feederStatus f := by
  unfold State.statusBytes
  rw [← List.drop_drop, List.drop_left' (by rfl)]
  have h := take_drop_flatMap s.feederStatus_length allFeeders f.val (by simp [allFeeders])
  simpa [allFeeders] using h

/-- The first eight bytes of the status. -/
theorem State.statusBytes_head (s : State) : s.statusBytes.take 8 = [byte s.admission.code, byte s.active.code, byte s.swap.code,
    byte (secondsLeft s.swapTimer), s.linesByte] ++ s.latchBytes := by
  unfold State.statusBytes
  exact List.take_left' rfl

theorem State.statusBytes_length (s : State) : s.statusBytes.length = 136 := by
  unfold State.statusBytes
  rw [List.length_append, List.length_flatMap]
  simp only [State.feederStatus_length]
  rfl

theorem alertOf_zero (g : Globals) : alertOf g 0 = false := by simp [alertOf]

/-! ### QUEUE_DATA (R157) -/

/-- Records are taken while they fit. -/
theorem takeRecords_spec (room : Nat) (l : List (List Byte)) : ∃ more, l = takeRecords room l ++ more
    ∧ (takeRecords room l).flatten.length ≤ room
    ∧ ∀ r rest, more = r :: rest → room < (takeRecords room l).flatten.length + r.length := by
  induction l generalizing room with
  | nil => exact ⟨[], rfl, Nat.zero_le _, fun _ _ h => by cases h⟩
  | cons r l ih =>
    unfold takeRecords
    split
    · next hr =>
      obtain ⟨more, hl, hlen, hm⟩ := ih (room - r.length)
      refine ⟨more, by rw [List.cons_append, ← hl], ?_, fun q rest h => ?_⟩
      · rw [List.flatten_cons, List.length_append]
        omega
      · have := hm q rest h
        rw [List.flatten_cons, List.length_append]
        omega
    · next hr =>
      refine ⟨r :: l, rfl, Nat.zero_le _, fun q rest h => ?_⟩
      cases h
      simp only [List.flatten_nil, List.length_nil]
      omega

theorem slotOfByte_none {b : Byte} (h : 47 < b.toNat) : slotOfByte b = none := dif_neg (by omega)

theorem slotOfByte_of_val {b : Byte} {i : Slot} (h : i.val = b.toNat) : slotOfByte b = some i := by
  unfold slotOfByte
  rw [dif_pos (h ▸ i.isLt)]
  exact congrArg some (Fin.ext h.symm)

theorem State.taken_contextBytes (s : State) (i : Slot) : s.taken.contextBytes i = s.contextBytes i := by
  obtain ⟨a, k, hu⟩ := s.taken_rest
  rw [hu]
  rfl

theorem State.taken_queueBytes (s : State) (f : FeederId) (skip : Byte) : s.taken.queueBytes f skip = s.queueBytes f skip := by
  obtain ⟨a, k, hu⟩ := s.taken_rest
  rw [hu]
  rfl

end Sys2Proof.Machine

open Sys2Proof Sys2Proof.Machine

/-- Settles O32: the counters in their order; the status bytes by their places. -/
theorem statusAndCountersAreRead : Obligations.StatusAndCountersAreRead := by
  refine ⟨fun c s ht => ?_, fun c s ht => ?_⟩
  · have hq := State.taken_room ht
    have he : exec (.counterRead c) s = .next (s.taken.reply c 0x75 s.taken.counters.bytes) := exec_taken (a := 0) rfl ht
    rw [he, State.reply_room hq]
    simp only [Counters.bytes, LinkCounters.bytes, List.flatMap_append, List.flatMap_cons, List.flatMap_nil, List.append_assoc,
      List.append_nil]
    rfl
  · have hq := State.taken_room ht
    have he : exec (.statusRead c) s = .next (s.taken.readStatus c) := exec_taken (a := 0) rfl ht
    have ha : s.taken.linesByte = s.linesByte := by
      obtain ⟨a, k, hu⟩ := s.taken_rest
      rw [hu]
      rfl
    refine ⟨s.taken.statusBytes, s.taken.fresh + 96, ?_, s.taken.statusBytes_length, ?_, fun f => ?_⟩
    · rw [he]
      unfold State.readStatus
      rw [State.reply_room hq]
      exact congrArg (fun b => Host.Outcome.next { s.taken.withReply c 0x74 s.taken.statusBytes with
        latches := 0, alert := b, fresh := s.taken.fresh + 96 }) (alertOf_zero _)
    · rw [State.statusBytes_head, ha]
      unfold State.linesByte State.latchBytes
      rw [State.taken_admission, State.taken_active, State.taken_swap, State.taken_swapTimer, State.taken_latches]
      rfl
    · obtain ⟨q, hq, hl, hs⟩ := (s.taken.meter f).statusBytes_eq (s.taken.fresh + 6 * f.val)
      have hf := s.taken.statusBytes_feeder f
      unfold State.feederStatus at hf
      rw [hq, State.taken_fdr, State.taken_meter] at hf
      rw [State.taken_meter] at hs
      obtain ⟨h0, h1, h2⟩ := List.places_of_take_drop hf
      refine ⟨h0, ?_, fun m hm => ?_⟩
      · rw [show 9 + 8 * f.val = 8 + 8 * f.val + 1 by omega, h1]
        rfl
      rw [show 10 + 8 * f.val = 8 + 8 * f.val + 2 by omega, h2, hs m hm]

/-- Settles O33: the record of a context in its order; the records that fit behind the skip. -/
theorem contextsAndQueuesAreRead : Obligations.ContextsAndQueuesAreRead := by
  refine ⟨fun c selector value s ht => ?_, fun c feeder skip s ht => ?_⟩
  · have hq := State.taken_room ht
    have he : exec (.contextRead c selector value) s = .next (s.taken.readContext c selector value) := exec_taken (a := 0) rfl ht
    intro run id timer record
    have hr : ∀ i, s.contextBytes i = record i := fun i => by
      simp only [record, State.contextBytes, Context.positionBytes, Context.requestBytes, Context.grantBytes, Context.gapBytes,
        Context.disciplineBytes, List.append_assoc]
      rfl
    have hrun : run = .next (s.taken.readContext c selector value) := he
    rw [hrun]
    unfold State.readContext
    refine ⟨fun h => ?_, fun h hv => ?_, fun i h hv => ?_, fun h hv => ?_, fun i h hv => ?_⟩
    · rw [if_neg (by rintro rfl; simp at h), if_neg (by rintro rfl; simp at h)]
      exact congrArg Host.Outcome.next (State.nak_room hq c .badValue 0 255)
    · rw [if_pos h, slotOfByte_none hv]
      exact congrArg Host.Outcome.next (State.nak_room hq c .badIndex 0 value)
    · rw [if_pos h, slotOfByte_of_val hv]
      dsimp only
      rw [State.reply_room hq, State.taken_contextBytes, hr]
      rfl
    · rw [if_neg (by rw [h]; decide), if_pos h, State.taken_slotOf, hv]
      exact congrArg Host.Outcome.next (State.nak_room hq c .unknownTruck 0 value)
    · rw [if_neg (by rw [h]; decide), if_pos h, State.taken_slotOf, hv]
      dsimp only
      rw [State.reply_room hq, State.taken_contextBytes, hr]
      rfl
  · have hq := State.taken_room ht
    have he : exec (.queueRead c feeder skip) s = .next (s.taken.forFeeder c feeder (fun f => s.taken.reply c 0x77 (s.taken.queueBytes f skip))) :=
      exec_taken (a := 0) rfl ht
    rw [he]
    unfold State.forFeeder
    refine ⟨fun h => ?_, fun f hf => ?_⟩
    · rw [feederOfByte_none h]
      exact congrArg Host.Outcome.next (State.nak_room hq c .badIndex 0 feeder)
    · rw [feederOfByte_val hf]
      dsimp only
      rw [State.reply_room hq, State.taken_queueBytes]
      obtain ⟨more, hl, hlen, hm⟩ := takeRecords_spec 229 ((s.records f).drop skip.toNat)
      exact ⟨_, more, hl, hlen, hm, rfl⟩

end

section
/-! PROOFS. Resolution and validation against a bank, and the sample history (R6 to R8, R133, R136 to R138). -/

namespace Sys2Proof.Machine
open Sys2Proof

/-! ### The lowest index -/

/-- The lowest index of a property is found. -/
theorem find?_finRange_first {n : Nat} {p : Fin n → Bool} {k : Fin n} (h : p k = true) (hf : ∀ j, j < k → ¬p j = true) :
    (List.finRange n).find? p = some k := by
  refine List.find?_eq_some_iff_getElem.2 ⟨h, k.val, by simp, by simp, fun j hj => ?_⟩
  simpa using hf ⟨j, by omega⟩ hj

theorem find?_finRange_none {n : Nat} {p : Fin n → Bool} (h : ∀ k, ¬p k = true) : (List.finRange n).find? p = none :=
  List.find?_eq_none.2 fun k _ => h k

/-! ### Resolution (R7, R8) -/

theorem GapEntry.covers_iff (e : GapEntry) (n : Nat) : e.covers n = true ↔ e.valid = true ∧ e.low ≤ n ∧ n ≤ e.high := by
  unfold GapEntry.covers
  simp [and_assoc]

theorem SectionEntry.covers_iff (e : SectionEntry) (n : Nat) : e.covers n = true ↔ e.valid = true ∧ e.low ≤ n ∧ n ≤ e.high := by
  unfold SectionEntry.covers
  simp [and_assoc]

theorem Bank.resolve_gap {k : Bank} {n : Nat} {g : GapId} (h : (k.gap g).covers n = true) (hf : ∀ j, j < g → ¬(k.gap j).covers n = true) :
    k.resolve n = .gap g := by
  unfold Bank.resolve allGaps
  rw [find?_finRange_first h hf]

theorem Bank.resolve_sect {k : Bank} {n : Nat} {x : SectionId} (hg : ∀ g, ¬(k.gap g).covers n = true) (h : (k.sect x).covers n = true)
    (hf : ∀ y, y < x → ¬(k.sect y).covers n = true) : k.resolve n = .sect x := by
  unfold Bank.resolve allGaps allSections
  rw [find?_finRange_none hg]
  dsimp only
  rw [find?_finRange_first h hf]

theorem Bank.resolve_offMap {k : Bank} {n : Nat} (hg : ∀ g, ¬(k.gap g).covers n = true) (h : ∀ x, ¬(k.sect x).covers n = true) :
    k.resolve n = .offMap := by
  unfold Bank.resolve allGaps allSections
  rw [find?_finRange_none hg]
  dsimp only
  rw [find?_finRange_none h]

theorem GapEntry.approached_iff (e : GapEntry) (h : Heading) (x : SectionId) (n : Nat) : e.approached h x n = true ↔
    e.valid = true ∧ e.bridgeable = false ∧ (h = .up ∧ e.lower = x ∧ e.low - e.approach ≤ n ∧ n < e.low
      ∨ h = .down ∧ e.upper = x ∧ e.high < n ∧ n ≤ e.high + e.approach) := by
  unfold GapEntry.approached GapEntry.inLowerZone GapEntry.inUpperZone
  cases h <;> simp [and_assoc]

/-! ### Validation (R6) -/

theorem Bank.sectionFails_iff (k : Bank) (x : SectionId) : k.sectionFails x = true ↔ k.sections[x].valid = true ∧ ∃ y, y ≠ x
    ∧ k.sections[y].valid = true ∧ k.sections[x].low ≤ k.sections[y].high ∧ k.sections[y].low ≤ k.sections[x].high := by
  unfold Bank.sectionFails Bank.sect rangesMeet allSections
  simp [and_assoc]

theorem Bank.gapMisplaced_iff (k : Bank) (g : GapId) : k.gapMisplaced g = true ↔
    k.sections[k.gaps[g].lower].valid = false ∨ k.sections[k.gaps[g].upper].valid = false ∨ k.gaps[g].lower = k.gaps[g].upper
      ∨ ¬(k.sections[k.gaps[g].lower].low < k.gaps[g].low ∧ k.gaps[g].low ≤ k.sections[k.gaps[g].lower].high + 1)
      ∨ ¬(k.gaps[g].high < k.sections[k.gaps[g].upper].high ∧ k.sections[k.gaps[g].upper].low ≤ k.gaps[g].high + 1)
      ∨ (k.gaps[g].bridgeable = true ∧ k.sections[k.gaps[g].lower].feeder ≠ k.sections[k.gaps[g].upper].feeder) := by
  unfold Bank.gapMisplaced Bank.gap Bank.sect
  simp only [Bool.or_eq_true, Bool.not_eq_true', beq_iff_eq, Bool.and_eq_true, bne_iff_ne, or_assoc, ← Bool.decide_and,
    decide_eq_false_iff_not]

theorem Bank.gapFails_iff (k : Bank) (g : GapId) : k.gapFails g = true ↔ k.gaps[g].valid = true ∧
    ((∃ h, h ≠ g ∧ k.gaps[h].valid = true ∧ k.gaps[g].low ≤ k.gaps[h].high ∧ k.gaps[h].low ≤ k.gaps[g].high) ∨ k.gapMisplaced g = true) := by
  unfold Bank.gapFails Bank.gap rangesMeet allGaps
  simp [and_assoc]

/-! ### History (R133, R138) -/

/-- The address of an offset inside the ring: so many places and one before the write position, wrapping at the start. -/
theorem Ring.address_eq {r : Ring} (hs : r.desc.start ≤ r.writePos) (he : r.writePos < r.desc.start + r.desc.length) {k : Nat} (hk : k < r.desc.length) : r.address k =
    if r.desc.start + k + 1 ≤ r.writePos then r.writePos - (k + 1) else r.writePos + r.desc.length - (k + 1) := by
  unfold Ring.address
  split
  · rw [show r.writePos - r.desc.start + r.desc.length - 1 - k = r.writePos - r.desc.start - 1 - k + r.desc.length by omega,
      Nat.add_mod_right, Nat.mod_eq_of_lt (by omega)]
    omega
  · rw [Nat.mod_eq_of_lt (by omega)]
    omega

theorem State.taken_ringEntry (s : State) (f : FeederId) (k : Nat) : s.taken.ringEntry f k = s.ringEntry f k := by
  unfold State.ringEntry
  rw [State.taken_ring, State.taken_samples]

theorem State.history_bytes (s : State) {f : FeederId} {feeder : Byte} (hf : f.val = feeder.toNat) (offset : Word) (count : Byte) :
    s.historyBytes f offset.toNat (historyCount count) =
      let asked := if count = 0 then 32 else count.toNat
      let n := if offset.toNat < (s.ring f).fill then min asked ((s.ring f).fill - offset.toNat) else 0
      [feeder, byte (s.ring f).state.code] ++ nat16 (s.ring f).fill ++ be16 offset ++ [byte n, byte (asked - n)]
        ++ (List.range n).flatMap (fun k =>
          let e := s.ringEntry f (offset.toNat + k)
          nat16 e.current ++ nat16 e.voltage ++ [e.seq]) := by
  have hc : historyCount count = if count = 0 then 32 else count.toNat := by
    unfold historyCount
    simp only [byte_eq_zero_iff]
  unfold State.historyBytes
  rw [hc, hf, byte_toNat, nat16_toNat]
  rfl

/-! ### Freezing and release (R136, R137) -/

theorem Ring.released_kept {r : Ring} (h : r.state = .recording) : r.released = r := by
  unfold Ring.released
  rw [h]
  rfl

theorem Ring.released_of_frozen {r : Ring} (h : r.state = .frozen ∨ r.state = .postTrip) :
    r.released = { r with state := .recording, countdown := none } := by
  unfold Ring.released
  rcases h with h | h <;> rw [h] <;> rfl

theorem State.modRing_eq_self {s : State} {f : FeederId} {g : Ring → Ring} (h : g (s.ring f) = s.ring f) : s.modRing f g = s := by
  have hv : s.rings.set f.val (g (s.ring f)) f.isLt = s.rings := by
    rw [h]
    exact Vector.set_getElem_self f.isLt
  exact congrArg (fun v => { s with rings := v }) hv

theorem exec_postTripCountEnd {s : State} (hp : s.resetPin = false) (f : FeederId) :
    exec (.postTripCountEnd f) s = .next (if (s.ring f).countEnded then s.freezeRing f else s) := by
  unfold exec execPostTripCountEnd
  exact whileOutOfReset_of_released hp _

end Sys2Proof.Machine

open Sys2Proof Sys2Proof.Machine

/-- Settles O35: the lowest gap, else the lowest section; the lowest gap approached; the lowest failure. -/
theorem chainagesResolve : Obligations.ChainagesResolve := by
  refine ⟨fun k n => ⟨fun g hg hf => ?_, fun x hg hx hf => ?_, fun hg hx => ?_⟩, fun s h n => ⟨fun x g hg hf => ?_, fun x hg => ?_,
    fun _ => rfl, rfl⟩, fun k => ⟨fun x hx hf => ?_, fun hx g hg hf => ?_, fun hx hg => ?_⟩⟩
  · exact Bank.resolve_gap ((GapEntry.covers_iff _ _).2 hg) fun j hj => mt (GapEntry.covers_iff _ _).1 (hf j hj)
  · exact Bank.resolve_sect (fun g => mt (GapEntry.covers_iff _ _).1 (hg g)) ((SectionEntry.covers_iff _ _).2 hx)
      fun y hy => mt (SectionEntry.covers_iff _ _).1 (hf y hy)
  · exact Bank.resolve_offMap (fun g => mt (GapEntry.covers_iff _ _).1 (hg g)) fun x => mt (SectionEntry.covers_iff _ _).1 (hx x)
  · exact find?_finRange_first ((GapEntry.approached_iff _ h x n).2 hg) fun j hj => mt (GapEntry.approached_iff _ h x n).1 (hf j hj)
  · exact find?_finRange_none fun g => mt (GapEntry.approached_iff _ h x n).1 (hg g)
  · unfold Bank.invalid allSections
    rw [find?_finRange_first ((k.sectionFails_iff x).2 hx) fun y hy => mt (k.sectionFails_iff y).1 (hf y hy)]
  all_goals
    unfold Bank.invalid allSections allGaps
    rw [find?_finRange_none fun x => mt (k.sectionFails_iff x).1 (hx x)]
    dsimp only
  · rw [find?_finRange_first (k := g)]
    · rfl
    · rw [k.gapFails_iff, k.gapMisplaced_iff]; exact hg
    · intro j hj
      rw [k.gapFails_iff, k.gapMisplaced_iff]; exact hf j hj
  · rw [find?_finRange_none]
    · rfl
    · intro j
      rw [k.gapFails_iff, k.gapMisplaced_iff]; exact hg j

/-- Settles O36: the addresses of a sound ring, and the reply. -/
theorem historyIsReadNewestFirst : Obligations.HistoryIsReadNewestFirst := by
  refine ⟨fun f s hr hw => ⟨fun k hk => ?_, fun e t hm hd hp => ?_⟩, fun c feeder offset count s ht => ?_⟩
  · unfold State.ringEntry
    obtain ⟨-, -, -, -, hs, he, -⟩ := hr
    rw [Ring.address_eq hs he hk]
  · have hr' := hr
    obtain ⟨h16, -, -, -, hs, he, -⟩ := hr'
    have ht : (t.ring f).desc.start ≤ (t.ring f).writePos ∧ (t.ring f).writePos < (t.ring f).desc.start + (t.ring f).desc.length := by
      rw [hd, hp]
      split <;> omega
    have ha : ∀ k, k < (s.ring f).desc.length → t.ringEntry f k = if (t.ring f).address k = (s.ring f).writePos then e
        else s.samples.read ((t.ring f).address k) := fun k _ => by
      unfold State.ringEntry
      rw [hm, SampleMemory.read_store _ _ _ hw]
    refine ⟨?_, fun k hk => ?_⟩
    · rw [ha 0 (by omega), if_pos]
      rw [Ring.address_eq ht.1 ht.2 (by rw [hd]; omega), hd, hp]
      split <;> split <;> omega
    · have hk' : (t.ring f).address (k + 1) = (s.ring f).address k ∧ (s.ring f).address k ≠ (s.ring f).writePos := by
        rw [Ring.address_eq ht.1 ht.2 (by rw [hd]; omega), Ring.address_eq hs he (by omega), hd, hp]
        split <;> split <;> split <;> omega
      rw [ha (k + 1) hk, hk'.1, if_neg hk'.2]
      rfl
  · have hq := State.taken_room ht
    have he : exec (.historyRead c feeder offset count) s = .next (s.taken.history c feeder offset count) := exec_taken (a := 0) rfl ht
    simp only [he]
    unfold State.history
    refine ⟨fun h => ?_, fun f hf => ⟨fun hc => ?_, fun hc hd => ?_, fun hc hd => ?_⟩⟩
    · rw [feederOfByte_none h]
      exact congrArg Host.Outcome.next (State.nak_room hq c .badIndex 0 feeder)
    all_goals
      rw [feederOfByte_val hf]
      dsimp only
    · rw [if_pos hc]
      exact congrArg Host.Outcome.next (State.nak_room hq c .badValue 0 feeder)
    · rw [if_neg (by omega), if_pos (by simpa using hd)]
      exact congrArg Host.Outcome.next (State.nak_room hq c .badState 0 feeder)
    · rw [if_neg (by omega), if_neg (by simpa using hd), State.reply_room hq, State.history_bytes _ hf]
      simp only [State.taken_ring, State.taken_ringEntry]
      rfl

/-- Settles O37: the release by the ring's state; the end of a count. -/
theorem ringsAreFrozenAndReleased : Obligations.RingsAreFrozenAndReleased := by
  refine ⟨fun c feeder s ht => ?_, fun f s hp => ⟨fun hs hc => ?_, fun h => ?_⟩⟩
  · have hq := State.taken_room ht
    have he : exec (.historyRelease c feeder) s = .next (s.taken.forFeeder c feeder (fun f => s.taken.releaseRing c feeder f)) :=
      exec_taken (a := 0) rfl ht
    simp only [he]
    unfold State.forFeeder
    refine ⟨fun h => ?_, fun f hf => ⟨fun hs => ?_, fun hs => ?_, fun hs => ?_⟩⟩
    · rw [feederOfByte_none h]
      exact congrArg Host.Outcome.next (State.nak_room hq c .badIndex 0 feeder)
    all_goals
      rw [feederOfByte_val hf]
      dsimp only
      unfold State.releaseRing
      rw [State.taken_ring]
    · rw [if_pos (by simpa using hs)]
      exact congrArg Host.Outcome.next (State.nak_room hq c .badState 0 feeder)
    · rw [if_neg (by simp [hs]), State.modRing_eq_self (Ring.released_kept (by simpa using hs)), State.ack_room hq]
    · rw [if_neg (by rcases hs with h | h <;> simp [h]), State.ack_room (s := s.taken.modRing f _) hq]
      refine congrArg (fun u : State => Host.Outcome.next (u.withAck c)) (State.modRing_congr ?_)
      exact Ring.released_of_frozen (by simpa using hs)
  · rw [exec_postTripCountEnd hp, if_pos (by unfold Ring.countEnded; rw [hs, hc]; rfl)]
    rfl
  · rw [exec_postTripCountEnd hp, if_neg]
    unfold Ring.countEnded
    simpa [imp_iff_not_or] using h

end

section
/-! PROOFS. The ends of the timers as commands; a pending swap's ends; the section commands of WAKE and REST
(R14, R19, R110 to R112, R121). -/

namespace Sys2Proof.Machine
open Sys2Proof

/-! ### The ends of the timers (log 3) -/

section
variable {s : State} (hp : s.resetPin = false)
include hp

theorem exec_silenceExpiry (i : Slot) : exec (.silenceExpiry i) s = .next (s.expire (s.runs i (·.silenceTimer)) (fun s => s.silence i)) := by
  unfold exec execSilenceExpiry
  exact whileOutOfReset_of_released hp _

theorem exec_grantExpiry (i : Slot) : exec (.grantExpiry i) s = .next (s.expire (s.runs i (·.grantExpiry)) (fun s => s.expireGrant i)) := by
  unfold exec execGrantExpiry
  exact whileOutOfReset_of_released hp _

theorem exec_offerWindowExpiry (i : Slot) : exec (.offerWindowExpiry i) s = .next (s.expire (s.runs i (·.offerWindow)) (fun s => s.lapse i)) := by
  unfold exec execOfferWindowExpiry
  exact whileOutOfReset_of_released hp _

theorem exec_offerRepeatExpiry (i : Slot) : exec (.offerRepeatExpiry i) s = .next (s.expire (s.runs i (·.offerRepeat)) (fun s => s.repeatOffer i)) := by
  unfold exec execOfferRepeatExpiry
  exact whileOutOfReset_of_released hp _

theorem exec_dropDeadlineExpiry (i : Slot) : exec (.dropDeadlineExpiry i) s = .next (s.expire (s.runs i (·.dropDeadline)) (fun s => s.dropLate i)) := by
  unfold exec execDropDeadlineExpiry
  exact whileOutOfReset_of_released hp _

theorem exec_crossingTimerExpiry (i : Slot) : exec (.crossingTimerExpiry i) s = .next (s.expire (s.runs i (·.gap.crossing)) (fun s => s.crossingOut i)) := by
  unfold exec execCrossingTimerExpiry
  exact whileOutOfReset_of_released hp _

theorem exec_carriedHoldExpiry (i : Slot) : exec (.carriedHoldExpiry i) s
    = .next (s.expire (s.runs i (·.gap.carried)) (fun s => s.setGap i { (s.ctx i).gap with carried := none })) := by
  unfold exec execCarriedHoldExpiry
  exact whileOutOfReset_of_released hp _

theorem exec_swapTimerExpiry : exec .swapTimerExpiry s = .next (s.expire (s.swapTimer.isSome && s.swap == .pending) State.timeoutSwap) := by
  unfold exec execSwapTimerExpiry
  exact whileOutOfReset_of_released hp _

theorem exec_overloadTimerExpiry (f : FeederId) : exec (.overloadTimerExpiry f) s = .next (s.expire (s.fdr f).overload.isSome (fun s => s.shed f)) := by
  unfold exec execOverloadTimerExpiry
  exact whileOutOfReset_of_released hp _

theorem exec_meterSilenceExpiry (f : FeederId) : exec (.meterSilenceExpiry f) s = .next (s.expire (s.meter f).silence.isSome (fun s => s.meterSilent f)) := by
  unfold exec execMeterSilenceExpiry
  exact whileOutOfReset_of_released hp _

theorem exec_meterLostTimerExpiry (f : FeederId) : exec (.meterLostTimerExpiry f) s = .next (s.expire (s.fdr f).meterLost.isSome (fun s => s.meterLostOut f)) := by
  unfold exec execMeterLostTimerExpiry
  exact whileOutOfReset_of_released hp _

theorem exec_idleTimerExpiry (x : SectionId) : exec (.idleTimerExpiry x) s = .next (s.expire (s.sec x).idleTimer.isSome (fun s => s.idleOut x)) := by
  unfold exec execIdleTimerExpiry
  exact whileOutOfReset_of_released hp _

theorem exec_standbyTimerExpiry (x : SectionId) : exec (.standbyTimerExpiry x) s = .next (s.expire (s.sec x).standbyTimer.isSome (fun s => s.standbyOut x)) := by
  unfold exec execStandbyTimerExpiry
  exact whileOutOfReset_of_released hp _

theorem exec_raiseLimitExpiry (x : SectionId) : exec (.raiseLimitExpiry x) s = .next (s.expire (s.sec x).raiseTimer.isSome (fun s => s.raiseOut x)) := by
  unfold exec execRaiseLimitExpiry
  exact whileOutOfReset_of_released hp _

end

theorem State.expire_running {s : State} {b : Bool} (h : b = true) (g : State → State) : s.expire b g = g s := if_pos h

theorem State.expire_stopped {s : State} {b : Bool} (h : b = false) (g : State → State) : s.expire b g = s := if_neg (by simp [h])

/-- A stopped timer does not expire. -/
theorem State.expire_none {α : Type} {s : State} {t : Option α} (h : t = none) (g : State → State) : s.expire t.isSome g = s :=
  State.expire_stopped (by rw [h]; rfl) g

theorem State.expire_some {α : Type} {s : State} {t : Option α} (h : t ≠ none) (g : State → State) : s.expire t.isSome g = g s :=
  State.expire_running (Option.isSome_iff_ne_none.2 h) g

/-! ### Arbitration on several feeders -/

/-- Arbitration on several feeders changes records that hold and wait alone. -/
theorem State.arbitrateOn_cQueue (s : State) (w : FeederId → Bool) : (s.arbitrateOn w).cQueue = s.cQueue :=
  List.foldlRecOn (motive := fun t : State => t.cQueue = s.cQueue) _ _ rfl fun (t : State) ht f _ => (t.arbitrate_cQueue f).trans ht

theorem State.arbitrateAll_cQueue (s : State) : s.arbitrateAll.cQueue = s.cQueue := s.arbitrateOn_cQueue _

/-! ### Sections (R112, R121) -/

theorem codeTimer_eq (n : Nat) : codeTimer n = if n = 0 then none else if n ≤ 60 then some (n * 5000)
    else if n ≤ 115 then some ((n - 55) * 60000) else some ((n - 114) * 3600000) := by
  unfold codeTimer seconds
  simp only [Nat.mul_assoc]

section
variable {s : State} {x : SectionId} {f : FeederId} (hf : s.feederOf x = some f) (ho : (s.fdr f).state = .online)
include hf ho

/-- A wake of an IDLE section closes it (R112). -/
theorem State.wake_idle (h : (s.sec x).state = .idle) : s.wake x = s.startRaise x .idle .close (tenths s.globals.idleRaise) := by
  unfold State.wake
  rw [hf]
  dsimp only
  rw [ho, if_pos (beq_self_eq_true _), h]

/-- A wake of a section in STANDBY closes it, fast where the entry allows it and the voltage stands (R112). -/
theorem State.wake_standby (h : (s.sec x).state = .standby) : s.wake x =
    if (s.entry x).fastRaise && s.fastVoltage f then s.startRaise x .standby .closeFast (tenths s.globals.idleRaise)
    else s.startRaise x .standby .close (seconds s.globals.standbyRaise) := by
  unfold State.wake
  rw [hf]
  dsimp only
  rw [ho, if_pos (beq_self_eq_true _), h]

theorem State.feederStateOf_online : s.feederStateOf x = .online := by
  unfold State.feederStateOf
  rw [hf]
  exact ho

end

/-- A raise or a section that needs none stands under a wake. -/
theorem State.wake_raised {s : State} {x : SectionId} (h : (s.sec x).state = .raising ∨ (s.sec x).state = .energised) : s.wake x = s := by
  unfold State.wake
  split
  · rfl
  · split
    · rcases h with h | h <;> rw [h]
    · rfl

theorem State.feederStateOf_ne {s : State} {x : SectionId} (h : ∀ f, s.feederOf x = some f → (s.fdr f).state ≠ .online) :
    s.feederStateOf x ≠ .online := by
  unfold State.feederStateOf
  split
  · next f hf => exact h f hf
  · simp

theorem State.fastVoltage_iff (s : State) (f : FeederId) : s.fastVoltage f = true ↔
    ∃ m, (s.meter f).latest = some m ∧ (s.fdr f).config.fastVolts ≤ m.voltage := by
  unfold State.fastVoltage
  cases (s.meter f).latest <;> simp

theorem State.restRefused_iff (s : State) (x : SectionId) : s.restRefused x = true ↔
    (0 < s.load x ∨ ∃ f e, (e ∈ (s.fdr f).wait1 ∨ e ∈ (s.fdr f).wait2) ∧ e.sect = x) := by
  have hm : ∀ d, d ∈ s.feeders.toList ↔ ∃ f : FeederId, s.fdr f = d := fun d => by
    rw [Vector.mem_toList_iff, Vector.mem_iff_getElem]
    exact ⟨fun ⟨n, hn, h⟩ => ⟨⟨n, hn⟩, h⟩, fun ⟨f, h⟩ => ⟨f.val, f.isLt, h⟩⟩
  unfold State.restRefused
  simp only [Bool.or_eq_true, decide_eq_true_eq, List.any_eq_true, beq_iff_eq, hm]
  refine or_congr Iff.rfl ⟨?_, ?_⟩
  · rintro ⟨d, ⟨f, rfl⟩, ⟨e, he, hx⟩ | ⟨e, he, hx⟩⟩
    · exact ⟨f, e, .inl he, hx⟩
    · exact ⟨f, e, .inr he, hx⟩
  · rintro ⟨f, e, he | he, hx⟩
    · exact ⟨_, ⟨f, rfl⟩, .inl ⟨e, he, hx⟩⟩
    · exact ⟨_, ⟨f, rfl⟩, .inr ⟨e, he, hx⟩⟩

/-! Taking a request leaves what a section's checks look at. -/

@[simp] theorem State.taken_entry (s : State) (x : SectionId) : s.taken.entry x = s.entry x := by
  obtain ⟨a, k, hu⟩ := s.taken_rest
  rw [hu]
  rfl

@[simp] theorem State.taken_feederOf (s : State) (x : SectionId) : s.taken.feederOf x = s.feederOf x := by
  obtain ⟨a, k, hu⟩ := s.taken_rest
  rw [hu]
  rfl

@[simp] theorem State.taken_feederStateOf (s : State) (x : SectionId) : s.taken.feederStateOf x = s.feederStateOf x := by
  obtain ⟨a, k, hu⟩ := s.taken_rest
  rw [hu]
  rfl

@[simp] theorem State.taken_fastVoltage (s : State) (f : FeederId) : s.taken.fastVoltage f = s.fastVoltage f := by
  obtain ⟨a, k, hu⟩ := s.taken_rest
  rw [hu]
  rfl

@[simp] theorem State.taken_restRefused (s : State) (x : SectionId) : s.taken.restRefused x = s.restRefused x := by
  obtain ⟨a, k, hu⟩ := s.taken_rest
  rw [hu]
  rfl

end Sys2Proof.Machine

open Sys2Proof Sys2Proof.Machine

/-- Settles O39: the cancel, the end of the timer, and what neither does. -/
theorem pendingSwapsEndWithoutAFlip : Obligations.PendingSwapsEndWithoutAFlip := by
  refine fun s => ⟨fun c ht => ?_, fun hp => ⟨fun hs ht => ?_, fun h => ?_⟩⟩
  · have hq := State.taken_room ht
    have he : exec (.swapCancel c) s = .next (s.taken.cancelSwap c) := exec_taken (a := 0) rfl ht
    rw [he]
    unfold State.cancelSwap
    rw [State.taken_swapPending]
    refine ⟨fun h => ?_, fun h => ?_⟩
    · rw [State.swapPending_false h]
      exact congrArg Host.Outcome.next (State.nak_room hq c .badState 0 255)
    · rw [State.swapPending_true h, if_pos rfl]
      unfold State.abandonSwap
      rw [State.ack_room]
      rw [State.arbitrateAll_cQueue]
      exact hq
  · rw [exec_swapTimerExpiry hp, State.expire_running (by simp [hs, Option.isSome_iff_ne_none, ht])]
    rfl
  · rw [exec_swapTimerExpiry hp, State.expire_stopped]
    rcases h with h | h <;> simp [h]

/-- Settles O41: WAKE by its checks and the section's state; the rests by theirs; the two timers. -/
theorem sectionsAreWokenAndRested : Obligations.SectionsAreWokenAndRested := by
  refine ⟨fun c sect s ht => ?_, fun s => ?_⟩
  · have hq := State.taken_room ht
    have he : exec (.sectionCmdWake c sect) s = .next (s.taken.forSection c sect (fun x => s.taken.commandWake c sect x)) :=
      exec_taken (a := 0) rfl ht
    simp only [he]
    unfold State.forSection
    refine ⟨fun h => ?_, fun x hx => ?_⟩
    · rw [sectionOfByte_none h]
      exact congrArg Host.Outcome.next (State.nak_room hq c .badIndex 0 sect)
    rw [sectionOfByte_of_val hx]
    unfold State.commandWake State.wakeRefused
    simp only [State.taken_sec, State.taken_feederStateOf]
    refine ⟨fun h => ?_, fun h => ?_, fun h hn => ?_, fun f hf ho => ⟨fun h => ?_, fun h hfast => ?_, fun h hfast => ?_⟩⟩
    · rw [h]
      exact congrArg Host.Outcome.next (State.nak_room hq c .badState 0 sect)
    · have hw : s.taken.wake x = s.taken := State.wake_raised (by simpa using h)
      rcases h with h | h <;> (rw [h]; dsimp only; rw [hw, State.ack_room hq])
    · have hs := State.feederStateOf_ne hn
      rcases h with h | h <;>
        (rw [h]; dsimp only; rw [if_neg (by simpa using hs)]; exact congrArg Host.Outcome.next (State.nak_room hq c .notReady 0 sect))
    all_goals
      rw [h]
      dsimp only
      rw [State.feederStateOf_online hf ho, if_pos (beq_self_eq_true _)]
      dsimp only
    · rw [State.wake_idle (f := f) (by simpa using hf) (by simpa using ho) (by simpa using h), State.ack_room (s := s.taken.startRaise x _ _ _) hq,
        State.taken_globals]
      rfl
    · rw [State.wake_standby (f := f) (by simpa using hf) (by simpa using ho) (by simpa using h), if_pos (by simpa [State.fastVoltage_iff] using hfast),
        State.ack_room (s := s.taken.startRaise x _ _ _) hq, State.taken_globals]
      rfl
    · rw [State.wake_standby (f := f) (by simpa using hf) (by simpa using ho) (by simpa using h), if_neg (by simpa [State.fastVoltage_iff] using hfast),
        State.ack_room (s := s.taken.startRaise x _ _ _) hq, State.taken_globals]
      rfl
  · refine ⟨fun c sect ht => ?_, fun c sect ht => ?_, fun x hp => ⟨fun ht h => ?_, fun h => ?_, fun ht h => ?_, fun h => ?_⟩⟩
    · have hq := State.taken_room ht
      have he : exec (.sectionCmdRestIdle c sect) s = .next (s.taken.forSection c sect (fun x => s.taken.commandRestIdle c sect x)) :=
        exec_taken (a := 0) rfl ht
      simp only [he]
      unfold State.forSection
      refine ⟨fun h => ?_, fun x hx => ?_⟩
      · rw [sectionOfByte_none h]
        exact congrArg Host.Outcome.next (State.nak_room hq c .badIndex 0 sect)
      rw [sectionOfByte_of_val hx]
      unfold State.commandRestIdle
      simp only [State.taken_sec, State.taken_restRefused]
      rw [← State.restRefused_iff]
      refine ⟨fun h => ?_, fun hb h => ?_, fun hb h => ?_⟩
      · split
        · exact congrArg Host.Outcome.next (State.nak_room hq c .badState 0 sect)
        · have hs := h.resolve_left ‹_›
          simp only [List.mem_cons, List.not_mem_nil, or_false] at hs
          rcases hs with hs | hs | hs <;> (rw [hs]; exact congrArg Host.Outcome.next (State.nak_room hq c .badState 0 sect))
      · rw [if_neg hb, h]
        exact congrArg Host.Outcome.next (State.ack_room hq c)
      · rw [if_neg hb, h]
        dsimp only
        rw [State.ack_room (s := s.taken.restIdle x) hq]
        unfold State.restIdle
        rw [codeTimer_eq, State.taken_entry]
    · have hq := State.taken_room ht
      have he : exec (.sectionCmdRestStandby c sect) s = .next (s.taken.forSection c sect (fun x => s.taken.commandRestStandby c sect x)) :=
        exec_taken (a := 0) rfl ht
      simp only [he]
      unfold State.forSection
      refine ⟨fun h => ?_, fun x hx => ?_⟩
      · rw [sectionOfByte_none h]
        exact congrArg Host.Outcome.next (State.nak_room hq c .badIndex 0 sect)
      rw [sectionOfByte_of_val hx]
      unfold State.commandRestStandby
      simp only [State.taken_sec, State.taken_restRefused]
      rw [← State.restRefused_iff]
      refine ⟨fun h => ?_, fun hb h => ?_, fun hb h => ?_⟩
      · split
        · exact congrArg Host.Outcome.next (State.nak_room hq c .badState 0 sect)
        · rw [h.resolve_left ‹_›]
          exact congrArg Host.Outcome.next (State.nak_room hq c .badState 0 sect)
      · rw [if_neg hb, h]
        exact congrArg Host.Outcome.next (State.ack_room hq c)
      · simp only [List.mem_cons, List.not_mem_nil, or_false] at h
        rw [if_neg hb]
        rcases h with h | h | h <;> (rw [h]; exact congrArg Host.Outcome.next (State.ack_room (s := s.taken.openToStandby x) hq c))
    · rw [exec_idleTimerExpiry hp, State.expire_some ht]
      unfold State.idleOut State.restIdle
      rw [if_pos (by simp [h]), codeTimer_eq]
    · rw [exec_idleTimerExpiry hp, State.expire_none h]
    · rw [exec_standbyTimerExpiry hp, State.expire_some ht]
      unfold State.standbyOut
      rw [if_pos (by simp [h])]
      rfl
    · rw [exec_standbyTimerExpiry hp, State.expire_none h]

end

section
/-! PROOFS. The transmitters: what starts on each line, and when a rate takes effect (R140, R148, R149, R155). -/

namespace Sys2Proof.Machine
open Sys2Proof

/-! ### The commands of the transmitters -/

section
variable {s : State} (hp : s.resetPin = false)
include hp

theorem exec_broadcastWithdrawal : exec .broadcastWithdrawal s = .next s.sendBroadcast := by
  unfold exec execBroadcastWithdrawal
  exact whileOutOfReset_of_released hp _

theorem exec_wdrTransmit : exec .wdrTransmit s = .next s.sendWdr := by
  unfold exec execWdrTransmit
  exact whileOutOfReset_of_released hp _

theorem exec_scmTransmit : exec .scmTransmit s = .next s.sendScm := by
  unfold exec execScmTransmit
  exact whileOutOfReset_of_released hp _

theorem exec_normalQueueTransmit : exec .normalQueueTransmit s = .next s.sendQueued := by
  unfold exec execNormalQueueTransmit
  exact whileOutOfReset_of_released hp _

theorem exec_cLinkTransmit : exec .cLinkTransmit s = .next s.sendC := by
  unfold exec execCLinkTransmit
  exact whileOutOfReset_of_released hp _

theorem exec_wLinkRateChange : exec .wLinkRateChange s = .next s.changeWRate := by
  unfold exec execWLinkRateChange
  exact whileOutOfReset_of_released hp _

theorem exec_cLinkRateChange : exec .cLinkRateChange s = .next s.changeCRate := by
  unfold exec execCLinkRateChange
  exact whileOutOfReset_of_released hp _

end

/-! ### When a line is free, and what is ready -/

theorem State.wFree_iff (s : State) : s.wFree = true ↔ s.wSending = none ∧ s.asmW.phase = .hunt := by
  simp [State.wFree]

theorem State.cFree_iff (s : State) : s.cFree = true ↔ s.cSending = none ∧ s.asmC.phase = .hunt := by
  simp [State.cFree]

theorem State.withdrawSlot_none {s : State} (h : ∀ i, (s.ctx i).withdraw = none) : s.withdrawSlot = none :=
  find?_finRange_none (fun i => by simp [h i])

theorem State.withdrawSlot_first {s : State} {i : Slot} {w : Withdrawal} (h : (s.ctx i).withdraw = some w)
    (hl : ∀ j, j < i → (s.ctx j).withdraw = none) : s.withdrawSlot = some i :=
  find?_finRange_first (by simp [h]) (fun j hj => by simp [hl j hj])

theorem State.withdrawSlot_isNone {s : State} (h : ¬∀ i, (s.ctx i).withdraw = none) : s.withdrawSlot.isNone = false := by
  obtain ⟨i, hi⟩ := not_forall.1 h
  unfold State.withdrawSlot
  rw [Option.isNone_eq_false_iff, List.find?_isSome]
  exact ⟨i, List.mem_finRange i, Option.isSome_iff_ne_none.2 hi⟩

theorem State.commandSection_none {s : State} (h : ∀ x, (s.sec x).command = none) : s.commandSection = none :=
  find?_finRange_none (fun x => by simp [h x])

theorem State.commandSection_first {s : State} {x : SectionId} {k : SecCommand} (h : (s.sec x).command = some k)
    (hl : ∀ y, y < x → (s.sec y).command = none) : s.commandSection = some x :=
  find?_finRange_first (by simp [h]) (fun y hy => by simp [hl y hy])

theorem State.commandSection_isNone {s : State} (h : ¬∀ x, (s.sec x).command = none) : s.commandSection.isNone = false := by
  obtain ⟨x, hx⟩ := not_forall.1 h
  unfold State.commandSection
  rw [Option.isNone_eq_false_iff, List.find?_isSome]
  exact ⟨x, List.mem_finRange x, Option.isSome_iff_ne_none.2 hx⟩

/-! ### A frame started on the W-link -/

/-- A frame started on the W-link: the rate of the GLOBAL table, the frame on its way, its MIRROR copy. -/
theorem State.startW_eq (s : State) (f : Frame) : s.startW f =
    if s.globals.mirror = 1 ∧ f.kind ∈ [0x20, 0x23, 0x24] then
      ({ s with wRate := s.globals.wRate, wSending := some ⟨f, 100 * (10 + f.payload.length)⟩ } : State).offerC
        ⟨0x83, 0, s.cAddress, f.tag, [f.dest, f.kind] ++ f.payload⟩
    else { s with wRate := s.globals.wRate, wSending := some ⟨f, 100 * (10 + f.payload.length)⟩ } := by
  have hm : (s.globals.mirror == 1 && mirrored f.kind) = true ↔ s.globals.mirror = 1 ∧ f.kind ∈ [0x20, 0x23, 0x24] := by
    simp [mirrored, or_assoc]
  unfold State.startW State.mirror State.settleW
  exact if_congr hm rfl rfl

theorem tenthsLeft_eq (t : Timer) : tenthsLeft t = (t.getD 0 + 99) / 100 := by
  cases t with
  | none => rfl
  | some n => rfl

/-- The WDR of a withdrawal: its reason, and 0 or the time left of the drop in tenths of a second (R149). -/
theorem Context.wdr_eq (c : Context) (w : Withdrawal) : c.wdr w = ⟨0x23, c.truck.getD 0, 0, c.req.tag.getD 0,
    [byte w.reason.code, byte (if w.immediate then 0 else (c.dropDeadline.getD 0 + 99) / 100)]⟩ := by
  unfold Context.wdr Context.withdrawDeadline wdrFrame wFrame
  rw [tenthsLeft_eq]
  rfl

/-! ### The sources of the W-link transmitter -/

section
variable {s : State}

theorem State.sendBroadcast_ready (hf : s.wFree = true) (hb : s.broadcast = true) :
    s.sendBroadcast = ({ s with broadcast := false } : State).startW broadcastFrame := by
  unfold State.sendBroadcast
  exact if_pos (by rw [hf, hb]; rfl)

theorem State.sendBroadcast_waits (h : s.wFree = false ∨ s.broadcast = false) : s.sendBroadcast = s := by
  unfold State.sendBroadcast
  exact if_neg (by rcases h with h | h <;> simp [h])

theorem State.sendWdr_ready (hf : s.wFree = true) (hb : s.broadcast = false) {i : Slot} {w : Withdrawal}
    (hi : s.withdrawSlot = some i) (hw : (s.ctx i).withdraw = some w) :
    s.sendWdr = (s.modCtx i (fun c => { c with withdraw := none })).startW ((s.ctx i).wdr w) := by
  unfold State.sendWdr
  rw [if_pos (by rw [hf, hb]; rfl), hi]
  dsimp only
  rw [hw]

theorem State.sendWdr_waits (h : s.wFree = false ∨ s.broadcast = true ∨ s.withdrawSlot = none) : s.sendWdr = s := by
  unfold State.sendWdr
  rcases h with h | h | h
  · exact if_neg (by simp [h])
  · exact if_neg (by simp [h])
  · rw [h]
    exact ite_self _

theorem State.sendScm_ready (hf : s.wFree = true) (hb : s.broadcast = false) (hw : s.withdrawSlot = none) {x : SectionId}
    {k : SecCommand} (hx : s.commandSection = some x) (hk : (s.sec x).command = some k) :
    s.sendScm = (s.modSec x (fun r => { r with command := none })).startW (scmFrame x k) := by
  unfold State.sendScm
  rw [if_pos (by rw [hf, hb, hw]; rfl), hx]
  dsimp only
  rw [hk]

theorem State.sendScm_waits (h : s.wFree = false ∨ s.broadcast = true ∨ s.withdrawSlot.isNone = false ∨ s.commandSection = none) :
    s.sendScm = s := by
  unfold State.sendScm
  rcases h with h | h | h | h
  · exact if_neg (by simp [h])
  · exact if_neg (by simp [h])
  · exact if_neg (by simp [h])
  · rw [h]
    exact ite_self _

theorem State.sendQueued_ready (hf : s.wFree = true) (hb : s.broadcast = false) (hw : s.withdrawSlot = none)
    (hx : s.commandSection = none) {f : Frame} {fs : List Frame} (hq : s.normalQueue = f :: fs) :
    s.sendQueued = ({ s with normalQueue := fs } : State).startW f := by
  unfold State.sendQueued State.nothingUrgent
  rw [if_pos (by rw [hf, hb, hw, hx]; rfl), hq]

theorem State.sendQueued_waits (h : s.wFree = false ∨ s.broadcast = true ∨ s.withdrawSlot.isNone = false
    ∨ s.commandSection.isNone = false ∨ s.normalQueue = []) : s.sendQueued = s := by
  unfold State.sendQueued State.nothingUrgent
  rcases h with h | h | h | h | h
  · exact if_neg (by simp [h])
  · exact if_neg (by simp [h])
  · exact if_neg (by simp [h])
  · exact if_neg (by simp [h])
  · rw [h]
    exact ite_self _

theorem State.sendC_ready (h : s.cFree = true) {f : Frame} {fs : List Frame} (hq : s.cQueue = f :: fs) :
    s.sendC = { s.settleC with
      cQueue := fs, cRatePending := nearer s.settleC.cRatePending, cSending := some ⟨f, 100 * (10 + f.payload.length)⟩ } := by
  unfold State.sendC
  rw [if_pos h, hq]
  rfl

theorem State.sendC_waits (h : s.cFree = false ∨ s.cQueue = []) : s.sendC = s := by
  unfold State.sendC
  rcases h with h | h
  · exact if_neg (by simp [h])
  · rw [h]
    exact ite_self _

theorem State.cRateDue_iff (s : State) : s.cRateDue = true ↔ ∃ v ps, s.cRatePending = (0, v) :: ps := by
  unfold State.cRateDue
  split
  · next v ps h => simp [h]
  · next h => simpa using h

end

end Sys2Proof.Machine

open Sys2Proof Sys2Proof.Machine

/-- Settles O59, by the sources in their order: each starts its frame where the line is free and no source before it is ready. -/
theorem framesAreSentInOrder : Obligations.FramesAreSentInOrder := by
  intro s hp time sent free noWdr noScm
  have hfree : free ↔ s.wFree = true := (s.wFree_iff).symm
  have hbusy : ¬free → s.wFree = false := fun h => by rwa [hfree, Bool.not_eq_true] at h
  have hsent : ∀ {t : State} (f : Frame), t.globals = s.globals → t.cAddress = s.cAddress → t.startW f = sent t f := fun f hg hc => by
    rw [State.startW_eq]
    simp only [sent, time, ← hg, ← hc]
  have hlast : ∀ {b : Bool}, b ≠ true → b = false := fun h => by simpa using h
  refine ⟨fun hf hb => ?_, fun h => ?_, fun hf hb i w hi hl => ?_, fun h => ?_, fun hf hb hn x k hx hl => ?_, fun h => ?_,
    fun hf hb hn hx f fs hq => ?_, fun h => ?_, fun hn hh f fs hq => ?_, fun h => ?_, fun hf => ?_, fun hf => ?_, fun hn v hv => ?_, fun h => ?_⟩
  · rw [exec_broadcastWithdrawal hp, State.sendBroadcast_ready (hfree.1 hf) hb]
    exact congrArg Host.Outcome.next (hsent _ rfl rfl)
  · rw [exec_broadcastWithdrawal hp, State.sendBroadcast_waits (h.imp_left hbusy)]
  · rw [exec_wdrTransmit hp, State.sendWdr_ready (hfree.1 hf) hb (State.withdrawSlot_first hi hl) hi, Context.wdr_eq]
    exact congrArg Host.Outcome.next (hsent _ rfl rfl)
  · rw [exec_wdrTransmit hp, State.sendWdr_waits (h.imp hbusy (Or.imp_right State.withdrawSlot_none))]
  · rw [exec_scmTransmit hp, State.sendScm_ready (hfree.1 hf) hb (State.withdrawSlot_none hn) (State.commandSection_first hx hl) hx]
    exact congrArg Host.Outcome.next (hsent _ rfl rfl)
  · rw [exec_scmTransmit hp, State.sendScm_waits (h.imp hbusy (Or.imp_right (Or.imp State.withdrawSlot_isNone State.commandSection_none)))]
  · rw [exec_normalQueueTransmit hp,
      State.sendQueued_ready (hfree.1 hf) hb (State.withdrawSlot_none hn) (State.commandSection_none hx) hq]
    exact congrArg Host.Outcome.next (hsent _ rfl rfl)
  · rw [exec_normalQueueTransmit hp, State.sendQueued_waits
      (h.imp hbusy (Or.imp_right (Or.imp State.withdrawSlot_isNone (Or.imp_left State.commandSection_isNone))))]
  · exact ⟨s.sendC, exec_cLinkTransmit hp, by rw [State.sendC_ready (s.cFree_iff.2 ⟨hn, hh⟩) hq],
      by rw [State.sendC_ready (s.cFree_iff.2 ⟨hn, hh⟩) hq], by rw [State.sendC_ready (s.cFree_iff.2 ⟨hn, hh⟩) hq]; rfl⟩
  · have hw : s.cFree = false ∨ s.cQueue = [] := by
      rw [← Bool.not_eq_true, s.cFree_iff]
      tauto
    rw [exec_cLinkTransmit hp, State.sendC_waits hw]
  · rw [exec_wLinkRateChange hp, State.changeWRate, if_pos (hfree.1 hf)]
    rfl
  · rw [exec_wLinkRateChange hp, State.changeWRate, if_neg (by simp [hbusy hf])]
  · rw [exec_cLinkRateChange hp, State.changeCRate, if_pos (by simp [hn, State.cRateDue, hv])]
    unfold State.settleC
    rw [hv]
    rfl
  · have hd : ¬(s.cSending.isNone && s.cRateDue) = true := by
      rw [Bool.and_eq_true, State.cRateDue_iff, Option.isNone_iff_eq_none]
      rintro ⟨hn, v, ps, hv⟩
      exact h.elim (fun h => h hn) (fun h => h v ps hv)
    rw [exec_cLinkRateChange hp, State.changeCRate, if_neg hd]

end

section
/-! PROOFS. The frames of the field stations as their dispatch; data in both directions; draw requests and their checks;
acceptances (R31, R42 to R45, R52, R143, R144, R152, R158). -/

namespace Sys2Proof.Machine
open Sys2Proof

/-! ### A frame that is heard on the W-link -/

/-- A frame unfinished before it has ended as a runt, and the frame is counted as a good one (R142, R143, log 20). -/
def State.goodW (s : State) : State := (s.endRunt .w).countGood .w

/-- Hearing a frame changes the W-link assembler and the W-link counters alone. -/
theorem State.goodW_rest (s : State) : ∃ a k, s.goodW = { s with asmW := a, counters := { s.counters with w := k } } := by
  unfold State.goodW State.endRunt
  split
  · exact ⟨_, _, rfl⟩
  · exact ⟨_, _, rfl⟩

section
variable (s : State)

@[simp] theorem State.goodW_cAddress : s.goodW.cAddress = s.cAddress := by obtain ⟨a, k, h⟩ := s.goodW_rest; rw [h]
@[simp] theorem State.goodW_globals : s.goodW.globals = s.globals := by obtain ⟨a, k, h⟩ := s.goodW_rest; rw [h]
@[simp] theorem State.goodW_swap : s.goodW.swap = s.swap := by obtain ⟨a, k, h⟩ := s.goodW_rest; rw [h]
@[simp] theorem State.goodW_admission : s.goodW.admission = s.admission := by obtain ⟨a, k, h⟩ := s.goodW_rest; rw [h]
@[simp] theorem State.goodW_normalQueue : s.goodW.normalQueue = s.normalQueue := by obtain ⟨a, k, h⟩ := s.goodW_rest; rw [h]
@[simp] theorem State.goodW_latches : s.goodW.latches = s.latches := by obtain ⟨a, k, h⟩ := s.goodW_rest; rw [h]
@[simp] theorem State.goodW_contexts : s.goodW.contexts = s.contexts := by obtain ⟨a, k, h⟩ := s.goodW_rest; rw [h]
@[simp] theorem State.goodW_feeders : s.goodW.feeders = s.feeders := by obtain ⟨a, k, h⟩ := s.goodW_rest; rw [h]
@[simp] theorem State.goodW_sections : s.goodW.sections = s.sections := by obtain ⟨a, k, h⟩ := s.goodW_rest; rw [h]
@[simp] theorem State.goodW_loads : s.goodW.loads = s.loads := by obtain ⟨a, k, h⟩ := s.goodW_rest; rw [h]
@[simp] theorem State.goodW_ctx (i : Slot) : s.goodW.ctx i = s.ctx i := by obtain ⟨a, k, h⟩ := s.goodW_rest; rw [h]; rfl
@[simp] theorem State.goodW_fdr (f : FeederId) : s.goodW.fdr f = s.fdr f := by obtain ⟨a, k, h⟩ := s.goodW_rest; rw [h]; rfl
@[simp] theorem State.goodW_sec (x : SectionId) : s.goodW.sec x = s.sec x := by obtain ⟨a, k, h⟩ := s.goodW_rest; rw [h]; rfl
@[simp] theorem State.goodW_load (x : SectionId) : s.goodW.load x = s.load x := by obtain ⟨a, k, h⟩ := s.goodW_rest; rw [h]; rfl
@[simp] theorem State.goodW_meter (f : FeederId) : s.goodW.meter f = s.meter f := by obtain ⟨a, k, h⟩ := s.goodW_rest; rw [h]; rfl
@[simp] theorem State.goodW_entry (x : SectionId) : s.goodW.entry x = s.entry x := by obtain ⟨a, k, h⟩ := s.goodW_rest; rw [h]; rfl
@[simp] theorem State.goodW_gapEntry (g : GapId) : s.goodW.gapEntry g = s.gapEntry g := by obtain ⟨a, k, h⟩ := s.goodW_rest; rw [h]; rfl
@[simp] theorem State.goodW_feederOf (x : SectionId) : s.goodW.feederOf x = s.feederOf x := by
  obtain ⟨a, k, h⟩ := s.goodW_rest; rw [h]; rfl
@[simp] theorem State.goodW_resolve (n : Nat) : s.goodW.resolve n = s.resolve n := by obtain ⟨a, k, h⟩ := s.goodW_rest; rw [h]; rfl
@[simp] theorem State.goodW_slotOf (t : Byte) : s.goodW.slotOf t = s.slotOf t := by obtain ⟨a, k, h⟩ := s.goodW_rest; rw [h]; rfl
@[simp] theorem State.goodW_resolveClass (t : Byte) : s.goodW.resolveClass t = s.resolveClass t := by
  obtain ⟨a, k, h⟩ := s.goodW_rest; rw [h]; rfl
@[simp] theorem State.goodW_memberOf (i : Slot) : s.goodW.memberOf i = s.memberOf i := by obtain ⟨a, k, h⟩ := s.goodW_rest; rw [h]; rfl
@[simp] theorem State.goodW_contextFits (i : Slot) : s.goodW.contextFits i = s.contextFits i := by
  obtain ⟨a, k, h⟩ := s.goodW_rest; rw [h]; rfl

end

/-! ### The frames of trucks and section switch units as commands -/

section
variable {s : State} {truck : Byte}

theorem drives_w_of_none (hw : s.wSending = none) : s.drives .w = false := by rw [State.drives, hw]; rfl

theorem fromTruck_good (h1 : 1 ≤ truck.toNat) (h2 : truck.toNat ≤ 127) (w : WFrame) : s.fromTruck truck w = s.goodW.dispatchW w := by
  unfold State.fromTruck
  exact if_pos (decide_eq_true ⟨h1, h2⟩)

variable (hp : s.resetPin = false) (hw : s.wSending = none)
include hp hw

section
variable (h1 : 1 ≤ truck.toNat) (h2 : truck.toNat ≤ 127)
include h1 h2

theorem exec_psn (tag : Byte) (chainage : Word) (h : Heading) (p : Pantograph) (l : Bool) (drawn : Word) :
    exec (.psn truck tag chainage h p l drawn) s = .next (s.goodW.dispatchPsn truck
      { tag := tag, chainage := chainage.toNat, heading := h, pantograph := p, loaded := l, drawn := drawn.toNat }) := by
  unfold exec execPsn
  exact (whileListening_of_idle hp (drives_w_of_none hw) _).trans (congrArg Host.Outcome.next (fromTruck_good h1 h2 _))

theorem exec_drq (tag : Byte) (requested minimum : Word) (hold : Byte) : exec (.drq truck tag requested minimum hold) s
    = .next (s.goodW.dispatchDrq truck { tag := tag, requested := requested.toNat, minimum := minimum.toNat, hold := hold.toNat }) := by
  unfold exec execDrq
  exact (whileListening_of_idle hp (drives_w_of_none hw) _).trans (congrArg Host.Outcome.next (fromTruck_good h1 h2 _))

theorem exec_acc (tag : Byte) : exec (.acc truck tag) s = .next (s.goodW.dispatchAcc truck tag) := by
  unfold exec execAcc
  exact (whileListening_of_idle hp (drives_w_of_none hw) _).trans (congrArg Host.Outcome.next (fromTruck_good h1 h2 _))

theorem exec_rel (tag : Byte) : exec (.rel truck tag) s = .next (s.goodW.dispatchRel truck tag) := by
  unfold exec execRel
  exact (whileListening_of_idle hp (drives_w_of_none hw) _).trans (congrArg Host.Outcome.next (fromTruck_good h1 h2 _))

theorem exec_dat (tag : Byte) {payload : List Byte} (hl : payload.length ≤ 240) :
    exec (.dat truck tag payload) s = .next (s.goodW.dispatchDat truck tag payload) := by
  unfold exec execDat
  exact (whileListening_of_idle hp (drives_w_of_none hw) _).trans
    (congrArg Host.Outcome.next ((if_pos (decide_eq_true hl)).trans (fromTruck_good h1 h2 _)))

end

theorem exec_sst {sect : Byte} {x : SectionId} (h : x.val = sect.toNat) (closed voltage fault : Bool) :
    exec (.sst sect closed voltage fault) s
      = .next (s.goodW.takeStatus x { closed := closed, voltage := voltage, fault := fault }).evalSwap := by
  unfold exec execSst
  refine (whileListening_of_idle hp (drives_w_of_none hw) _).trans (congrArg Host.Outcome.next ?_)
  rw [sectionOfByte_of_val h]
  rfl

theorem exec_sst_foreign {sect : Byte} (h : 63 < sect.toNat) (closed voltage fault : Bool) :
    exec (.sst sect closed voltage fault) s = .next ((s.endRunt .w).countForeign .w) := by
  unfold exec execSst
  refine (whileListening_of_idle hp (drives_w_of_none hw) _).trans (congrArg Host.Outcome.next ?_)
  rw [sectionOfByte_none h]

end

/-! ### The context of a truck -/

theorem State.slotOf_spec {s : State} {truck : Byte} {i : Slot} (h : s.slotOf truck = some i) :
    (s.ctx i).state ≠ .free ∧ (s.ctx i).truck = some truck := by
  have := List.find?_some h
  simpa using this

theorem State.slotOf_address {s : State} {truck : Byte} {i : Slot} (h : s.slotOf truck = some i) : (s.ctx i).address = truck := by
  unfold Context.address
  rw [(State.slotOf_spec h).2]
  rfl

theorem State.modCtx_modCtx (s : State) (i : Slot) (g h : Context → Context) :
    (s.modCtx i g).modCtx i h = s.modCtx i (fun c => h (g c)) := by
  unfold State.modCtx State.setCtx
  dsimp only
  rw [show ({ s with contexts := s.contexts.set i (g (s.ctx i)) } : State).ctx i = g (s.ctx i) from by simp [State.ctx],
    Vector.set_set]

theorem State.modCtx_congr {s : State} {i : Slot} {g h : Context → Context} (e : g (s.ctx i) = h (s.ctx i)) :
    s.modCtx i g = s.modCtx i h := by
  unfold State.modCtx
  rw [e]

/-! ### Where a request may be placed (R45) -/

/-- The code of the refusal that a resolution gives a request, none where it may be placed. -/
def State.refusalOf (s : State) (r : Resolution) : Option Byte :=
  match r with
  | .gap _ => some 4
  | .offMap => some 3
  | .sect y => if (s.sec y).state = .isolated then some 5
    else if ∃ f, s.feederOf y = some f ∧ ((s.fdr f).state = .online ∨ (s.fdr f).state = .suspect) then none else some 6

theorem State.place_isolated {s : State} {y : SectionId} (h : (s.sec y).state = .isolated) : s.place (.sect y) = .refused .sectionDown := by
  unfold State.place
  exact if_pos (by simp [h])

theorem State.place_down {s : State} {y : SectionId} (h : (s.sec y).state ≠ .isolated)
    (hf : ¬∃ f, s.feederOf y = some f ∧ ((s.fdr f).state = .online ∨ (s.fdr f).state = .suspect)) :
    s.place (.sect y) = .refused .feederDown := by
  unfold State.place
  dsimp only
  rw [if_neg (by simpa using h)]
  split
  · rfl
  · next f hy => exact if_neg (fun hc => hf ⟨f, hy, by simpa using hc⟩)

theorem State.place_up {s : State} {y : SectionId} {f : FeederId} (h : (s.sec y).state ≠ .isolated) (hy : s.feederOf y = some f)
    (hf : (s.fdr f).state = .online ∨ (s.fdr f).state = .suspect) : s.place (.sect y) = .placed y f := by
  unfold State.place
  dsimp only
  rw [if_neg (by simpa using h), hy]
  exact if_pos (by simpa using hf)

theorem State.place_refused {s : State} {r : Resolution} {code : Byte} (h : s.refusalOf r = some code) :
    ∃ q, s.place r = .refused q ∧ byte q.code = code := by
  unfold State.refusalOf at h
  split at h
  · exact ⟨.inGap, rfl, by simpa [Refuse.code, byte] using h⟩
  · exact ⟨.offMap, rfl, by simpa [Refuse.code, byte] using h⟩
  · next y =>
    split at h
    · next hs => exact ⟨.sectionDown, State.place_isolated hs, by simpa [Refuse.code, byte] using h⟩
    · next hs =>
      split at h
      · cases h
      · next hf => exact ⟨.feederDown, State.place_down hs hf, by simpa [Refuse.code, byte] using h⟩

theorem State.place_placed {s : State} {y : SectionId} {f : FeederId} (h : s.refusalOf (.sect y) = none) (hy : s.feederOf y = some f) :
    s.place (.sect y) = .placed y f := by
  unfold State.refusalOf at h
  dsimp only at h
  split at h
  · cases h
  · next hs =>
    split at h
    · next hf =>
      obtain ⟨g, hg, hu⟩ := hf
      rw [hy] at hg
      exact State.place_up hs hy (Option.some.inj hg ▸ hu)
    · cases h

theorem rfsFrame_eq (truck tag : Byte) (r : Refuse) : rfsFrame truck tag r = ⟨0x24, truck, 0, tag, [byte r.code]⟩ := rfl

/-! ### Draw requests (R42 to R45) -/

theorem Terms.checked_none {t : Terms} {k : TruckClass} (h : t.requested = 0 ∨ t.requested < t.minimum ∨ k.cap < t.minimum) :
    t.checked k = none := by
  unfold Terms.checked
  by_cases h0 : t.requested = 0 ∨ t.requested < t.minimum
  · exact if_pos h0
  · have hc : k.cap < t.minimum := (or_assoc.2 h).resolve_left h0
    have hm : t.minimum ≠ 0 := by omega
    rw [if_neg h0]
    dsimp only
    rw [if_neg hm, if_pos hc]

section
variable {u : State} {i : Slot} {t : Terms}

theorem State.placeRequest_approaching {x : SectionId} (hr : (u.ctx i).pos.resolution = .sect x) (ha : (u.ctx i).pos.approach ≠ none) :
    u.placeRequest i = .refused .inGap := by
  unfold State.placeRequest
  dsimp only
  rw [hr]
  exact if_pos (Option.isSome_iff_ne_none.2 ha)

theorem State.placeRequest_clear {x : SectionId} (hr : (u.ctx i).pos.resolution = .sect x) (ha : (u.ctx i).pos.approach = none) :
    u.placeRequest i = u.place (.sect x) := by
  unfold State.placeRequest
  dsimp only
  rw [hr, ha]
  rfl

theorem State.requestFromTracked_refused {r : Refuse} (h : u.placeRequest i = .refused r) :
    u.requestFromTracked i t = u.answer i t.tag r := by
  unfold State.requestFromTracked
  rw [h]

theorem State.requestFromTracked_held {x : SectionId} {f : FeederId} (h : u.placeRequest i = .placed x f)
    (hh : (u.ctx i).holdFlag = true) : u.requestFromTracked i t = u.answer i t.tag .held := by
  unfold State.requestFromTracked
  rw [h]
  exact if_pos hh

theorem State.requestFromTracked_bad {x : SectionId} {f : FeederId} (h : u.placeRequest i = .placed x f)
    (hh : (u.ctx i).holdFlag = false) (hb : t.checked (u.ctx i).cls = none) : u.requestFromTracked i t = u.answer i t.tag .badAmount := by
  unfold State.requestFromTracked
  rw [h]
  dsimp only
  rw [if_neg (by simp [hh]), hb]

theorem State.requestFromTracked_good {x : SectionId} {f : FeederId} {v : Terms} (h : u.placeRequest i = .placed x f)
    (hh : (u.ctx i).holdFlag = false) (hv : t.checked (u.ctx i).cls = some v) :
    u.requestFromTracked i t = u.acceptRequest i v (u.effectiveLevel i) x f := by
  unfold State.requestFromTracked
  rw [h]
  dsimp only
  rw [if_neg (by simp [hh]), hv]

end

/-- The context of a truck that sends a DRQ: its silence timer restarted, its class resolved (R29, R31, R42). -/
def State.asked (s : State) (i : Slot) (truck : Byte) : State :=
  s.modCtx i (fun c => { c with
    silenceTimer := some (s.globals.silenceTime * 1000), silenceAge := 0, silenceCount := 0, cls := s.resolveClass truck })

theorem State.dispatchDrq_stranger {s : State} {truck : Byte} (h : s.slotOf truck = none) (t : Terms) :
    s.dispatchDrq truck t = s.sendNormal ⟨0x24, truck, 0, t.tag, [2]⟩ := by
  unfold State.dispatchDrq
  rw [h]
  rfl

section
variable {s : State} {truck : Byte} {i : Slot} (h : s.slotOf truck = some i)
include h

theorem State.dispatchDrq_known (t : Terms) : s.dispatchDrq truck t = ((s.heard i).takeDrq i t).evalSwap := by
  unfold State.dispatchDrq
  rw [h]

theorem State.heard_modCtx_class :
    (s.heard i).modCtx i (fun c => { c with cls := (s.heard i).resolveClass c.address }) = s.asked i truck := by
  have ha : (s.ctx i).address = truck := State.slotOf_address h
  unfold State.heard State.asked
  rw [State.modCtx_modCtx]
  refine State.modCtx_congr ?_
  rw [← ha]
  rfl

theorem State.takeDrq_stopped (ha : s.admission ≠ .running) (t : Terms) :
    (s.heard i).takeDrq i t = (s.asked i truck).answer i t.tag .stopped := by
  unfold State.takeDrq
  dsimp only
  rw [State.heard_modCtx_class h]
  exact if_neg (fun h => ha (beq_iff_eq.1 h))

theorem State.takeDrq_running (ha : s.admission = .running) (t : Terms) :
    (s.heard i).takeDrq i t = match (s.ctx i).state with
      | .tracked => (s.asked i truck).requestFromTracked i t
      | .queued => if (s.ctx i).hasTag t.tag then (s.asked i truck).sendDfr i t.tag else (s.asked i truck).updateRequest i t
      | .offered => if (s.ctx i).hasTag t.tag then (s.asked i truck).sendOfr i t.tag else (s.asked i truck).declineAndAsk i t
      | .drawing => if (s.ctx i).hasTag t.tag then (s.asked i truck).sendGrt i t.tag else (s.asked i truck).renew i t
      | .dropping => (s.asked i truck).answer i t.tag .dropping
      | .crossing => (s.asked i truck).answer i t.tag .inGap
      | .faulted => (s.asked i truck).answer i t.tag .faulted
      | .free => s.asked i truck := by
  unfold State.takeDrq
  dsimp only
  rw [State.heard_modCtx_class h, if_pos (by simpa [State.asked] using ha)]
  have hc : (s.asked i truck).ctx i = { s.ctx i with
      silenceTimer := some (s.globals.silenceTime * 1000), silenceAge := 0, silenceCount := 0, cls := s.resolveClass truck } :=
    State.modCtx_ctx_self _ _ _
  rw [hc]
  rfl

theorem State.asked_answer (tag : Byte) (r : Refuse) :
    (s.asked i truck).answer i tag r = (s.asked i truck).sendNormal ⟨0x24, truck, 0, tag, [byte r.code]⟩ := by
  have ha : ((s.asked i truck).ctx i).address = truck := by
    rw [State.asked, State.modCtx_ctx_self]
    exact State.slotOf_address h
  unfold State.answer State.refuseTruck
  rw [ha, rfsFrame_eq]

end

theorem State.hasTag_iff (c : Context) (tag : Byte) : c.hasTag tag = true ↔ c.req.tag = some tag := by simp [Context.hasTag]

theorem State.asked_ctx (s : State) (i : Slot) (truck : Byte) : (s.asked i truck).ctx i = { s.ctx i with
    silenceTimer := some (s.globals.silenceTime * 1000), silenceAge := 0, silenceCount := 0, cls := s.resolveClass truck } :=
  State.modCtx_ctx_self _ _ _

theorem State.asked_ctx_other (s : State) {i j : Slot} (truck : Byte) (h : j ≠ i) : (s.asked i truck).ctx j = s.ctx j :=
  State.modCtx_ctx_other _ _ (Ne.symm h)

theorem State.asked_place (s : State) (i : Slot) (truck : Byte) (r : Resolution) : (s.asked i truck).place r = s.place r := rfl

theorem State.renew_held {u : State} {i : Slot} {t : Terms} (hh : (u.ctx i).hold ≠ none) (hf : (u.ctx i).holdFlag = true) :
    u.renew i t = u.answer i t.tag .held := by
  unfold State.renew
  split
  · next h => exact absurd h hh
  · exact if_pos hf

theorem State.renew_bad {u : State} {i : Slot} {t : Terms} (hh : (u.ctx i).hold ≠ none) (hf : (u.ctx i).holdFlag = false)
    (hb : t.checked (u.ctx i).cls = none) : u.renew i t = u.answer i t.tag .badAmount := by
  unfold State.renew
  split
  · next h => exact absurd h hh
  · rw [if_neg (by simp [hf]), hb]

/-! ### Data (R152, R158) -/

theorem State.copyDat_eq (s : State) (truck tag : Byte) (payload : List Byte) : s.copyDat truck tag payload =
    if s.globals.datForward = 1 then s.offerC ⟨0x82, 0, s.cAddress, tag, truck :: payload.take 239⟩ else s := by
  unfold State.copyDat
  exact if_congr (by simp) rfl rfl

theorem State.sendNormal_room {s : State} (h : s.cQueue.length < 32) (f : Frame) : (s.sendNormal f).cQueue.length < 32 := by
  rw [State.sendNormal_cQueue]
  exact h

theorem State.pass_passed {s : State} {c : Caller} {truck tag : Byte} {data : List Byte} (hl : data.length ≤ 239)
    (hq : s.cQueue.length < 32) (h : s.passTag truck = some tag) :
    s.pass c truck data = (s.sendNormal ⟨0x14, truck, 0, tag, data⟩).withAck c := by
  unfold State.pass
  rw [if_neg (by omega), h]
  exact State.ack_room (State.sendNormal_room hq _) c

theorem State.pass_refused {s : State} {c : Caller} {truck : Byte} {data : List Byte} (hl : data.length ≤ 239)
    (hq : s.cQueue.length < 32) (h : s.passTag truck = none) : s.pass c truck data = s.withNak c 8 0 truck := by
  unfold State.pass
  rw [if_neg (by omega), h]
  exact State.nak_room hq c .unknownTruck 0 truck

/-! ### Acceptances (R52) -/

section
variable {u : State} {i : Slot} {tag : Byte}

theorem State.takeAcc_stale (h : u.admission ≠ .running ∨ (u.ctx i).req.tag ≠ some tag
    ∨ ((u.ctx i).state ≠ .offered ∧ (u.ctx i).state ≠ .drawing)) : u.takeAcc i tag = u.answer i tag .stale := by
  unfold State.takeAcc
  dsimp only
  by_cases hr : (u.admission == .running && (u.ctx i).hasTag tag) = true
  · rw [if_pos hr]
    simp only [Bool.and_eq_true, beq_iff_eq, State.hasTag_iff] at hr
    obtain ⟨ho, hd⟩ := (h.resolve_left (fun h => h hr.1)).resolve_left (fun h => h hr.2)
    split
    · next h1 _ => exact absurd h1 ho
    · next h1 _ => exact absurd h1 hd
    · rfl
  · exact if_neg hr

theorem State.takeAcc_drawing (ha : u.admission = .running) (ht : (u.ctx i).req.tag = some tag) (hs : (u.ctx i).state = .drawing)
    (hh : (u.ctx i).hold ≠ none) : u.takeAcc i tag = u.sendGrt i tag := by
  obtain ⟨h, hh⟩ := Option.ne_none_iff_exists'.1 hh
  unfold State.takeAcc
  dsimp only
  rw [if_pos (by simp [ha, Context.hasTag, ht]), hs, hh]

theorem State.takeAcc_offered (ha : u.admission = .running) (ht : (u.ctx i).req.tag = some tag) (hs : (u.ctx i).state = .offered)
    {h : Holding} (hh : (u.ctx i).hold = some h) : u.takeAcc i tag = (u.acceptOffer i h).sendGrt i tag := by
  unfold State.takeAcc
  dsimp only
  rw [if_pos (by simp [ha, Context.hasTag, ht]), hs, hh]

end

end Sys2Proof.Machine

open Sys2Proof Sys2Proof.Machine

/-- Settles O55: a DAT is heard and copied; PASS_DATA goes through the tag it carries. -/
theorem truckDataIsPassed : Obligations.TruckDataIsPassed := by
  refine ⟨?_, ?_⟩
  · intro truck tag payload s hp hw h1 h2 hl q copied
    have hcopy : ∀ {t : State}, t.globals = s.globals → t.cAddress = s.cAddress → t.copyDat truck tag payload = copied t := fun hg hc => by
      rw [State.copyDat_eq, hg, hc]
    rw [exec_dat hp hw h1 h2 tag hl]
    unfold State.dispatchDat
    rw [State.goodW_slotOf]
    refine ⟨fun hn => ?_, fun i hi => ?_⟩
    · rw [hn]
      exact congrArg Host.Outcome.next (hcopy s.goodW_globals s.goodW_cAddress)
    · rw [hi]
      have hh : s.goodW.heard i = q.modCtx i (fun c => { c with
          silenceTimer := some (s.globals.silenceTime * 1000), silenceAge := 0, silenceCount := 0 }) := by
        unfold State.heard
        rw [State.goodW_globals]
        rfl
      rw [← hh]
      exact congrArg Host.Outcome.next (hcopy s.goodW_globals s.goodW_cAddress)
  · intro c truck data s ht hl run passed
    have hq : s.taken.cQueue.length < 32 := State.taken_room ht
    have he : run = .next (s.taken.pass c truck data) := exec_taken (a := 0) rfl ht
    refine ⟨fun h255 => ?_, fun h255 hn => ?_, fun i h1 h2 hi => ?_⟩
    · exact he.trans (congrArg Host.Outcome.next (State.pass_passed hl hq (by unfold State.passTag; exact if_pos h255)))
    · have hnone : s.taken.passTag truck = none := by
        unfold State.passTag
        rw [if_neg h255, State.taken_slotOf]
        rcases hn with hn | hn | hn
        · exact if_neg (by subst hn; decide)
        · exact if_neg (by simp [isTruckAddress]; omega)
        · rw [hn]
          exact ite_self _
      rw [he, State.pass_refused hl hq hnone]
    · have h255 : truck ≠ 255 := fun h => by subst h; exact absurd h2 (by decide)
      have hsome : s.taken.passTag truck = some ((s.ctx i).req.tag.getD 0) := by
        unfold State.passTag
        rw [if_neg h255, if_pos (show isTruckAddress truck = true from decide_eq_true ⟨h1, h2⟩), State.taken_slotOf, hi, Option.map_some, State.taken_ctx]
        rfl
      exact he.trans (congrArg Host.Outcome.next (State.pass_passed hl hq hsome))

/-- Settles O51, by the state of the context and then by the checks in their order. -/
theorem drawRequestsAreChecked : Obligations.DrawRequestsAreChecked := by
  intro truck tag requested minimum hold s hp hw h1 h2 run q refusal
  have he := exec_drq hp hw h1 h2 tag requested minimum hold
  refine ⟨fun hn => ?_, ?_⟩
  · exact he.trans (congrArg Host.Outcome.next (State.dispatchDrq_stranger (s.goodW_slotOf truck ▸ hn) _))
  · intro i hi c k u refused bad
    have hg : s.goodW.slotOf truck = some i := (s.goodW_slotOf truck).trans hi
    have hu : s.goodW.asked i truck = u := by
      unfold State.asked
      rw [State.goodW_globals, State.goodW_resolveClass]
      rfl
    have hd : ∀ v, (s.goodW.heard i).takeDrq i ⟨tag, requested.toNat, minimum.toNat, hold.toNat⟩ = v → run = .next v.evalSwap := fun v hv =>
      he.trans (by rw [State.dispatchDrq_known hg, hv])
    have hr : ∀ r : Refuse, (s.goodW.heard i).takeDrq i ⟨tag, requested.toNat, minimum.toNat, hold.toNat⟩
        = (s.goodW.asked i truck).answer i tag r → refused (byte r.code) := fun r hv => by
      rw [State.asked_answer hg, hu] at hv
      exact hd _ hv
    have hcx : (s.goodW.asked i truck).ctx i = { s.ctx i with
        silenceTimer := some (s.globals.silenceTime * 1000), silenceAge := 0, silenceCount := 0, cls := k } := by
      rw [State.asked_ctx, State.goodW_ctx, State.goodW_globals, State.goodW_resolveClass]
    refine ⟨fun ha => hr .stopped (State.takeDrq_stopped hg (by rwa [State.goodW_admission]) _), fun ha => ?_⟩
    have hrun := State.takeDrq_running hg (by rwa [State.goodW_admission]) ⟨tag, requested.toNat, minimum.toNat, hold.toNat⟩
    rw [State.goodW_ctx] at hrun
    have hbad : bad → Terms.checked ⟨tag, requested.toNat, minimum.toNat, hold.toNat⟩ k = none := fun hb =>
      Terms.checked_none (hb.imp_left (fun h0 => by rw [h0]; rfl))
    have htag : ∀ {a b : State}, c.req.tag = some tag → (if (s.ctx i).hasTag tag then a else b) = a := fun ht =>
      if_pos ((State.hasTag_iff _ _).2 ht)
    have hnot : ∀ {a b : State}, c.req.tag ≠ some tag → (if (s.ctx i).hasTag tag then a else b) = b := fun ht =>
      if_neg (fun h => ht ((State.hasTag_iff _ _).1 h))
    refine ⟨fun hs => hr .dropping (by rw [hrun, hs]), fun hs => hr .inGap (by rw [hrun, hs]), fun hs => hr .faulted (by rw [hrun, hs]),
      fun hs ht => hd _ (by rw [hrun, hs, ← hu]; exact htag ht), fun hs ht => hd _ (by rw [hrun, hs, ← hu]; exact htag ht),
      fun hs ht => hd _ (by rw [hrun, hs, ← hu]; exact htag ht), fun hs ht hh => ⟨fun hf => ?_, fun hf hb => ?_⟩, fun hs => ?_⟩
    · refine hr .held ?_
      rw [hrun, hs]
      exact (hnot ht).trans (State.renew_held (by rw [hcx]; exact hh) (by rw [hcx]; exact hf))
    · refine hr .badAmount ?_
      rw [hrun, hs]
      exact (hnot ht).trans (State.renew_bad (by rw [hcx]; exact hh) (by rw [hcx]; exact hf) (by rw [hcx]; exact hbad hb))
    · have hfrom : (s.goodW.heard i).takeDrq i ⟨tag, requested.toNat, minimum.toNat, hold.toNat⟩
          = (s.goodW.asked i truck).requestFromTracked i ⟨tag, requested.toNat, minimum.toNat, hold.toNat⟩ := by rw [hrun, hs]
      have hpl : ∀ r, (s.goodW.asked i truck).placeRequest i = .refused r → refused (byte r.code) := fun r h =>
        hr r (hfrom.trans (State.requestFromTracked_refused h))
      refine ⟨fun ho => hpl .offMap ?_, fun g ho => hpl .inGap ?_, ?_⟩
      · unfold State.placeRequest
        rw [hcx]
        dsimp only
        rw [ho]
      · unfold State.placeRequest
        rw [hcx]
        dsimp only
        rw [ho]
      · intro x hx up
        have hres : ((s.goodW.asked i truck).ctx i).pos.resolution = .sect x := by rw [hcx]; exact hx
        have hclear : c.pos.approach = none → (s.goodW.asked i truck).placeRequest i = s.goodW.place (.sect x) := fun hn => by
          rw [State.placeRequest_clear hres (by rw [hcx]; exact hn), State.asked_place]
        have hplaced : c.pos.approach = none → (s.sec x).state ≠ .isolated → up → ∃ f, (s.goodW.asked i truck).placeRequest i = .placed x f := by
          rintro hn hi ⟨f, hf, hu⟩
          exact ⟨f, (hclear hn).trans (State.place_up (by rwa [State.goodW_sec]) (by rwa [State.goodW_feederOf]) (by rwa [State.goodW_fdr]))⟩
        refine ⟨fun hn => hpl .inGap (State.placeRequest_approaching hres (by rw [hcx]; exact hn)),
          fun hn hi => hpl .sectionDown ((hclear hn).trans (State.place_isolated (by rwa [State.goodW_sec]))),
          fun hn hi hu => hpl .feederDown ((hclear hn).trans (State.place_down (by rwa [State.goodW_sec]) ?_)),
          fun hn hi hu hf => ?_, fun hn hi hu hf hb => ?_⟩
        · simp only [State.goodW_feederOf, State.goodW_fdr]
          exact hu
        · obtain ⟨f, hpf⟩ := hplaced hn hi hu
          exact hr .held (hfrom.trans (State.requestFromTracked_held hpf (by rw [hcx]; exact hf)))
        · obtain ⟨f, hpf⟩ := hplaced hn hi hu
          exact hr .badAmount (hfrom.trans (State.requestFromTracked_bad hpf (by rw [hcx]; exact hf) (by rw [hcx]; exact hbad hb)))

end

section
/-! PROOFS. What goes on: no operation of a report, a request, a release, a withdrawal, a section or a swap takes a frame from a
queue, clears a latch, counts a frame heard, or writes a table, a meter, a ring or the sample memory. -/

namespace Sys2Proof.Machine
open Sys2Proof

/-! ### The feeders' records after a change of a grant, offer or reservation -/

theorem State.tellHold_fdr (s s0 : State) (h : Option Holding) (f : FeederId) : (s.tellHold s0 h).fdr f = s.fdr f := by
  unfold State.fdr
  rw [(State.tellHold_same _ _ _).2.1]

theorem State.commitHold_record (s : State) (h : Option Holding) (f : FeederId) :
    (s.commitHold h).fdr f = { s.fdr f with committed := (s.fdr f).committed + heldOn f h } := by
  cases h with
  | none => rfl
  | some g =>
    by_cases hf : g.feeder = f
    · subst hf; simp [State.commitHold, State.commit, heldOn]
    · simp [State.commitHold, State.commit, heldOn, hf, State.modFdr_fdr_other _ _ hf]

theorem State.uncommitHold_record (s : State) (h : Option Holding) (f : FeederId) :
    (s.uncommitHold h).fdr f = { s.fdr f with committed := (s.fdr f).committed - heldOn f h } := by
  cases h with
  | none => rfl
  | some g =>
    by_cases hf : g.feeder = f
    · subst hf; simp [State.uncommitHold, State.uncommit, heldOn]
    · simp [State.uncommitHold, State.uncommit, heldOn, hf, State.modFdr_fdr_other _ _ hf]

/-- A change of a grant or offer changes committed current alone (R66). -/
theorem State.setHold_record (s : State) (i : Slot) (h : Option Holding) (f : FeederId) :
    (s.setHold i h).fdr f = { s.fdr f with committed := (s.fdr f).committed + heldOn f h - heldOn f (s.ctx i).hold } := by
  unfold State.setHold
  dsimp only
  rw [State.tellHold_fdr, State.tellHold_fdr, State.modCtx_fdr', State.uncommitHold_record, State.commitHold_record]

/-- A change of the gap fields changes committed current alone (R66). -/
theorem State.setGap_record (s : State) (i : Slot) (g : GapFields) (f : FeederId) :
    (s.setGap i g).fdr f
      = { s.fdr f with committed := (s.fdr f).committed + heldOn f g.reserved - heldOn f (s.ctx i).gap.reserved } := by
  unfold State.setGap
  dsimp only
  rw [State.tellHold_fdr, State.tellHold_fdr, State.modCtx_fdr', State.uncommitHold_record, State.commitHold_record]

/-! ### A property that every round of arbitration keeps -/

theorem State.arbitrate_keeps {P : State → Prop} {s : State} (f : FeederId)
    (hP : ∀ s e, s.nextEntry f = some e → s.candidateFits f e = true → P s → P (s.afterRound f e)) (h : P s) : P (s.arbitrate f) := by
  unfold State.arbitrate
  generalize (s.fdr f).wait1.length + (s.fdr f).wait2.length + 1 = n
  induction n generalizing s with
  | zero => exact h
  | succ n ih =>
    cases hn : s.nextEntry f with
    | none => rw [State.rounds_none hn]; exact h
    | some e =>
      by_cases hf : s.candidateFits f e = true
      · rw [State.rounds_serves hn hf]
        exact ih (hP s e hn hf h)
      · rw [State.rounds_stuck hn hf]; exact h

theorem State.arbitrateOn_keeps {P : State → Prop} {w : FeederId → Bool} (hP : ∀ s f e, w f = true → s.nextEntry f = some e →
    s.candidateFits f e = true → P s → P (s.afterRound f e)) {s : State} (h : P s) : P (s.arbitrateOn w) := by
  unfold State.arbitrateOn
  have hw : ∀ f ∈ allFeeders.filter w, w f = true := fun f hf => (List.mem_filter.1 hf).2
  generalize allFeeders.filter w = fs at hw
  induction fs generalizing s with
  | nil => exact h
  | cons f fs ih =>
    exact ih (State.arbitrate_keeps f (fun s e => hP s f e (hw f (List.mem_cons_self ..))) h) fun g hg => hw g (List.mem_cons_of_mem _ hg)

/-! ### What goes on -/

/-- The limit that a bank gives a section, 0 where its entry is not valid (R67). -/
def State.limitIn (s : State) (k : BankId) (x : SectionId) : Nat := if ((s.bank k).sect x).valid then ((s.bank k).sect x).limit else 0

theorem State.limitIn_congr {s t : State} (ha : t.bankA = s.bankA) (hb : t.bankB = s.bankB) : t.limitIn = s.limitIn := by
  funext k x
  unfold State.limitIn
  have hk : t.bank k = s.bank k := by cases k; exacts [ha, hb]
  rw [hk]

theorem State.spares_of_same {s t : State} (hf : ∀ f, (t.fdr f).committed = (s.fdr f).committed) (hx : ∀ x, t.load x = s.load x) :
    s.spares t :=
  ⟨fun f => (hf f).trans_le (Nat.le_max_left _ _), fun x => (hx x).trans_le (Nat.le_max_left _ _)⟩

/-- A reservation that turns into a grant spares the limits (R99). -/
theorem spares_turnGrant {s : State} {i : Slot} {r : Holding} (hr : (s.ctx i).gap.reserved = some r) :
    s.spares ((s.setHold i (some r)).setGap i GapFields.clear) := by
  have hc : (((s.setHold i (some r)).ctx i).gap.reserved) = some r := by rw [State.setHold_ctx, if_pos rfl]; exact hr
  refine ⟨fun f => ?_, fun x => ?_⟩
  · rw [State.setGap_committed, State.setHold_committed, hc]
    simp only [GapFields.clear, GapFields.reserved, heldOn]
    omega
  · rw [State.setGap_load, State.setHold_load, hc]
    simp only [GapFields.clear, GapFields.reserved, heldIn]
    omega

/-- From `s` to `t` the lines, the tables, the meters, the rings and the sample memory stand, a latch that was set stays set, the
counters but those of frames discarded stand, the queues grow at their tails, a swap stands or, where one was pending, is
completed, and neither a committed current nor a load passes both what it was and the limits in force (R68). -/
structure Onward (s t : State) : Prop where
  rest : t = { s with
    active := t.active, swap := t.swap, swapTimer := t.swapTimer, contexts := t.contexts, feeders := t.feeders, loads := t.loads
    sections := t.sections, normalQueue := t.normalQueue, cQueue := t.cQueue, counters := t.counters, latches := t.latches
    eventSeq := t.eventSeq, alert := t.alert }
  latches : ∀ k, s.latches.getLsbD k = true → t.latches.getLsbD k = true
  counts : t.counters = { s.counters with
    w := { s.counters.w with txDrops := t.counters.w.txDrops }, c := { s.counters.c with txDrops := t.counters.c.txDrops } }
  normal : s.normalQueue <+: t.normalQueue
  frames : s.cQueue <+: t.cQueue
  swapping : t.swap = s.swap ∧ t.swapTimer = s.swapTimer ∧ t.active = s.active
    ∨ s.swap ≠ .none ∧ t.swap = .none ∧ t.swapTimer = none ∧ t.active = s.active.other
  records : ∀ f, (t.fdr f).config = (s.fdr f).config ∧ (t.fdr f).committed ≤ max (s.fdr f).committed (s.fdr f).config.limit
  loads : ∀ x, t.load x ≤ max (s.load x) (max (s.limitIn s.active x) (s.limitIn t.active x))

namespace Onward
variable {s t u : State}

theorem refl (s : State) : Onward s s := ⟨rfl, fun _ h => h, rfl, List.prefix_refl _, List.prefix_refl _, .inl ⟨rfl, rfl, rfl⟩, fun _ => ⟨rfl, Nat.le_max_left _ _⟩, fun _ => Nat.le_max_left _ _⟩

theorem trans (h : Onward s t) (k : Onward t u) : Onward s u where
  rest := by rw [k.rest, h.rest]
  latches := fun n hn => k.latches n (h.latches n hn)
  counts := by rw [k.counts, h.counts]
  normal := h.normal.trans k.normal
  frames := h.frames.trans k.frames
  swapping := by
    rcases k.swapping with ⟨k1, k2, k3⟩ | ⟨k0, k1, k2, k3⟩
    · rw [k1, k2, k3]
      exact h.swapping
    · rcases h.swapping with ⟨h1, h2, h3⟩ | ⟨h0, h1, h2, h3⟩
      · exact .inr ⟨h1 ▸ k0, k1, k2, k3.trans (congrArg BankId.other h3)⟩
      · exact absurd h1 k0
  records := fun f => by
    obtain ⟨hc, hn⟩ := h.records f
    obtain ⟨kc, kn⟩ := k.records f
    rw [hc] at kn
    exact ⟨kc.trans hc, by omega⟩
  loads := fun x => by
    have hx := h.loads x
    have kx := k.loads x
    rw [State.limitIn_congr (s := s) (t := t) (by rw [h.rest]) (by rw [h.rest])] at kx
    rcases h.swapping with ⟨-, -, ha⟩ | ⟨-, h1, -⟩
    · rw [ha] at hx kx
      omega
    · rcases k.swapping with ⟨-, -, ka⟩ | ⟨k0, -⟩
      · rw [ka] at kx ⊢
        omega
      · exact absurd h1 k0

/-! ### What `Onward` says of each field -/

theorem globals (h : Onward s t) : t.globals = s.globals := by rw [h.rest]
theorem bankA (h : Onward s t) : t.bankA = s.bankA := by rw [h.rest]
theorem bankB (h : Onward s t) : t.bankB = s.bankB := by rw [h.rest]
theorem classes (h : Onward s t) : t.classes = s.classes := by rw [h.rest]
theorem rings (h : Onward s t) : t.rings = s.rings := by rw [h.rest]
theorem meters (h : Onward s t) : t.meters = s.meters := by rw [h.rest]
theorem samples (h : Onward s t) : t.samples = s.samples := by rw [h.rest]
theorem admission (h : Onward s t) : t.admission = s.admission := by rw [h.rest]
theorem cAddress (h : Onward s t) : t.cAddress = s.cAddress := by rw [h.rest]
theorem lapsed (h : Onward s t) : t.counters.lapsed = s.counters.lapsed := by rw [h.counts]
theorem sheds (h : Onward s t) : t.counters.sheds = s.counters.sheds := by rw [h.counts]
/-- With no swap pending none is afterwards, and the selector stands. -/
theorem swap_none (h : Onward s t) (hs : s.swap = .none) : t.swap = .none ∧ t.swapTimer = s.swapTimer ∧ t.active = s.active := by
  rcases h.swapping with ⟨h1, h2, h3⟩ | ⟨h0, -⟩
  · exact ⟨h1.trans hs, h2, h3⟩
  · exact absurd hs h0
theorem missed (h : Onward s t) : t.counters.missed = s.counters.missed := by rw [h.counts]

/-! ### The primitive changes -/

theorem ofHolders (h : HoldersOnly s t) (hf : ∀ f, (t.fdr f).config = (s.fdr f).config) (hs : s.spares t) : Onward s t where
  rest := by rw [h.rest]
  latches := fun k hk => by rw [h.rest]; exact hk
  counts := by rw [h.rest]
  normal := by rw [h.rest]
  frames := by rw [h.rest]
  swapping := by rw [h.rest]; exact .inl ⟨rfl, rfl, rfl⟩
  records := fun f => ⟨hf f, hs.1 f⟩
  loads := fun x => by
    rw [show t.active = s.active by rw [h.rest], max_self]
    exact hs.2 x

section
variable {s0 : State} (h : Onward s0 s)
include h

theorem holders (k : HoldersOnly s t) (hf : ∀ f, (t.fdr f).config = (s.fdr f).config) (hs : s.spares t) : Onward s0 t :=
  h.trans (ofHolders k hf hs)

theorem setCtx (i : Slot) (c : Context) : Onward s0 (s.setCtx i c) :=
  h.holders (.setCtx _ _ _) (fun _ => rfl) (State.spares_of_same (fun _ => rfl) fun _ => rfl)

theorem modCtx (i : Slot) (g : Context → Context) : Onward s0 (s.modCtx i g) := h.setCtx _ _

theorem modFdr (f : FeederId) (g : Feeder → Feeder)
    (hg : ∀ d, (g d).committed = d.committed ∧ (g d).config = d.config := by exact fun _ => ⟨rfl, rfl⟩) : Onward s0 (s.modFdr f g) := by
  have hk : ∀ k, ((s.modFdr f g).fdr k).committed = (s.fdr k).committed ∧ ((s.modFdr f g).fdr k).config = (s.fdr k).config := fun k => by
    rw [State.modFdr_fdr]
    split
    · next e => subst e; exact hg _
    · exact ⟨rfl, rfl⟩
  exact h.holders (.modFdr _ _ _) (fun k => (hk k).2) (State.spares_of_same (fun k => (hk k).1) fun _ => rfl)

theorem tellHolder (s1 : State) (x : SectionId) : Onward s0 (s.tellHolder s1 x) := by
  obtain ⟨-, hf, hl⟩ := State.tellHolder_same s s1 x
  exact h.holders (.tellHolder _ _ _) (fun f => by simp only [State.fdr, hf])
    (State.spares_of_same (fun f => by simp only [State.fdr, hf]) fun y => by simp only [State.load, hl])

theorem modSec (x : SectionId) (g : SectionRec → SectionRec) : Onward s0 (s.modSec x g) :=
  h.trans ⟨rfl, fun _ hk => hk, rfl, List.prefix_refl _, List.prefix_refl _, .inl ⟨rfl, rfl, rfl⟩, fun _ => ⟨rfl, Nat.le_max_left _ _⟩, fun _ => Nat.le_max_left _ _⟩

theorem sendNormal (f : Frame) : Onward s0 (s.sendNormal f) := by
  refine h.trans ?_
  unfold State.sendNormal
  split
  · exact ⟨rfl, fun _ hk => hk, rfl, ⟨[f], rfl⟩, List.prefix_refl _, .inl ⟨rfl, rfl, rfl⟩, fun _ => ⟨rfl, Nat.le_max_left _ _⟩, fun _ => Nat.le_max_left _ _⟩
  · exact ⟨rfl, fun _ hk => hk, rfl, List.prefix_refl _, List.prefix_refl _, .inl ⟨rfl, rfl, rfl⟩, fun _ => ⟨rfl, Nat.le_max_left _ _⟩, fun _ => Nat.le_max_left _ _⟩

theorem offerC (f : Frame) : Onward s0 (s.offerC f) := by
  refine h.trans ?_
  unfold State.offerC
  split
  · exact ⟨rfl, fun _ hk => hk, rfl, List.prefix_refl _, ⟨[f], rfl⟩, .inl ⟨rfl, rfl, rfl⟩, fun _ => ⟨rfl, Nat.le_max_left _ _⟩, fun _ => Nat.le_max_left _ _⟩
  · exact ⟨rfl, fun _ hk => hk, rfl, List.prefix_refl _, List.prefix_refl _, .inl ⟨rfl, rfl, rfl⟩, fun _ => ⟨rfl, Nat.le_max_left _ _⟩, fun _ => Nat.le_max_left _ _⟩

theorem emitEvent (k : EventKind) (a b : Nat) : Onward s0 (s.emitEvent k a b) := by
  have h1 : Onward s0 { s with eventSeq := s.eventSeq + 1 } := h.trans ⟨rfl, fun _ hk => hk, rfl, List.prefix_refl _, List.prefix_refl _, .inl ⟨rfl, rfl, rfl⟩, fun _ => ⟨rfl, Nat.le_max_left _ _⟩, fun _ => Nat.le_max_left _ _⟩
  unfold State.emitEvent
  split
  · exact h1.offerC _
  · exact h

theorem setLatch (p : Fin 22) : Onward s0 (s.setLatch p) := by
  refine h.trans ⟨rfl, fun n hn => ?_, rfl, List.prefix_refl _, List.prefix_refl _, .inl ⟨rfl, rfl, rfl⟩, fun _ => ⟨rfl, Nat.le_max_left _ _⟩, fun _ => Nat.le_max_left _ _⟩
  show (s.latches ||| _).getLsbD n = true
  rw [BitVec.getLsbD_or, hn]
  rfl

theorem report (k : EventKind) (a b : Nat) : Onward s0 (s.report k a b) :=
  ((h.setLatch k.place).emitEvent k a b).trans ⟨rfl, fun _ hk => hk, rfl, List.prefix_refl _, List.prefix_refl _, .inl ⟨rfl, rfl, rfl⟩, fun _ => ⟨rfl, Nat.le_max_left _ _⟩, fun _ => Nat.le_max_left _ _⟩

theorem flip (hp : s.swap ≠ .none) : Onward s0 s.flip :=
  h.trans ⟨rfl, fun _ hk => hk, rfl, List.prefix_refl _, List.prefix_refl _, .inr ⟨hp, rfl, rfl, rfl⟩, fun _ => ⟨rfl, Nat.le_max_left _ _⟩, fun _ => Nat.le_max_left _ _⟩

end

/-! ### Passes -/

theorem fold {α : Type} {s0 : State} {g : State → α → State} (hg : ∀ t a, Onward s0 t → Onward s0 (g t a)) (l : List α) {s : State}
    (h : Onward s0 s) : Onward s0 (l.foldl g s) := by
  induction l generalizing s with
  | nil => exact h
  | cons a l ih => exact ih (hg s a h)

theorem eachSlot {s0 : State} {g : State → Slot → State} (hg : ∀ t i, Onward s0 t → Onward s0 (g t i)) (h : Onward s0 s) :
    Onward s0 (s.eachSlot g) := fold hg _ h

theorem eachSection {s0 : State} {g : State → SectionId → State} (hg : ∀ t x, Onward s0 t → Onward s0 (g t x)) (h : Onward s0 s) :
    Onward s0 (s.eachSection g) := fold hg _ h

section
variable {s0 : State} (h : Onward s0 s)
include h

/-! ### Frames -/

theorem refuseTruck (t g : Byte) (r : Refuse) : Onward s0 (s.refuseTruck t g r) := h.sendNormal _

theorem refuse (i : Slot) (r : Refuse) : Onward s0 (s.refuse i r) := h.sendNormal _

theorem answer (i : Slot) (g : Byte) (r : Refuse) : Onward s0 (s.answer i g r) := h.sendNormal _

theorem sendGrt (i : Slot) (g : Byte) : Onward s0 (s.sendGrt i g) := by
  unfold State.sendGrt
  dsimp only
  split
  · exact h
  · exact h.sendNormal _

theorem sendOfr (i : Slot) (g : Byte) : Onward s0 (s.sendOfr i g) := by
  unfold State.sendOfr
  dsimp only
  split
  · exact h
  · exact h.sendNormal _

theorem sendDfr (i : Slot) (g : Byte) : Onward s0 (s.sendDfr i g) := by
  unfold State.sendDfr
  split
  · exact h
  · exact h.sendNormal _

theorem deferIfQueued (i : Slot) (g : Byte) : Onward s0 (s.deferIfQueued i g) := by
  unfold State.deferIfQueued
  split
  · exact h.sendDfr i g
  · exact h

/-! ### Holdings, entries and arbitration -/

theorem setHold (i : Slot) (k : Option Holding) (hs : s.spares (s.setHold i k)) : Onward s0 (s.setHold i k) :=
  h.holders (.setHold _ _ _) (fun f => by rw [State.setHold_record]) hs

theorem setGap (i : Slot) (k : GapFields) (hs : s.spares (s.setGap i k) := by exact spares_unreserved _ _ rfl) : Onward s0 (s.setGap i k) :=
  h.holders (.setGap _ _ _) (fun f => by rw [State.setGap_record]) hs

theorem releaseHold (i : Slot) : Onward s0 (s.releaseHold i) := by
  unfold State.releaseHold
  split
  · exact h
  · exact (h.setHold _ _ (spares_release _ _)).modFdr _ _

theorem joinOrder (i : Slot) (f : FeederId) : Onward s0 (s.joinOrder i f) := h.modFdr _ _

theorem dropEntry (i : Slot) : Onward s0 (s.dropEntry i) := by
  unfold State.dropEntry
  split
  · exact h
  · exact (h.modFdr _ _ fun _ => Keeps.setWait_committed _ _ _).tellHolder _ _

theorem addEntry (i : Slot) (f : FeederId) (l : Level) (x : SectionId) (k : Mark) : Onward s0 (s.addEntry i f l x k) :=
  ((h.dropEntry i).modFdr _ _ fun _ => Keeps.setWait_committed _ _ _).tellHolder _ _

theorem moveEntry (i : Slot) (x : SectionId) : Onward s0 (s.moveEntry i x) := by
  unfold State.moveEntry
  split
  · exact h
  · exact ((h.modFdr _ _ fun _ => Keeps.setWait_committed _ _ _).tellHolder _ _).tellHolder _ _

theorem modCtxTold (i : Slot) (g : Context → Context) : Onward s0 (s.modCtxTold i g) := by
  unfold State.modCtxTold
  split
  · exact h.modCtx _ _
  · exact (h.modCtx _ _).tellHolder _ _

theorem giveUp (i : Slot) (st : CtxState) : Onward s0 (s.giveUp i st) := (((h.releaseHold i).setGap i _).dropEntry i).modCtx i _

theorem freeQuiet (i : Slot) : Onward s0 (s.freeQuiet i) := (((h.releaseHold i).setGap i _).dropEntry i).setCtx i _

theorem queueAt (i : Slot) (f : FeederId) (l : Level) (x : SectionId) (k : Mark) : Onward s0 (s.queueAt i f l x k) :=
  (h.modCtxTold _ _).addEntry _ _ _ _ _

theorem makeOffer (i : Slot) (f : FeederId) (x : SectionId) : Onward s0 (s.makeOffer i f x) :=
  (((h.setHold _ _ (spares_candidate _ _ _ _)).dropEntry i).modCtx i _).sendOfr i _

theorem makeReservation (i : Slot) (f : FeederId) {x : SectionId} (hf : s.reserveFits i f x = true)
    (hx : ∀ y, (s.ctx i).gap.target = some y → y = x) : Onward s0 (s.makeReservation i f) := h.setGap _ _ (spares_reservation hf hx)

theorem serve (f : FeederId) (e : Entry) (hf : s.candidateFits f e = true) : Onward s0 (s.serve f e) := by
  unfold State.candidateFits at hf
  unfold State.serve
  split
  · next hx =>
    rw [if_pos hx] at hf
    exact (h.makeReservation _ _ hf fun y hy => by rw [hy]; rfl).dropEntry _
  · exact h.makeOffer _ _ _

theorem arbitrate (f : FeederId) : Onward s0 (s.arbitrate f) :=
  State.arbitrate_keeps f (fun _ e _ hf k => (k.serve f e hf).modFdr f _) h

theorem arbitrateOn (w : FeederId → Bool) : Onward s0 (s.arbitrateOn w) :=
  State.arbitrateOn_keeps (fun _ f e _ _ hf k => (k.serve f e hf).modFdr f _) h

theorem arbitrateAll : Onward s0 (s.arbitrateAll) := h.arbitrateOn _

theorem arbitrateSection (x : SectionId) : Onward s0 (s.arbitrateSection x) := by
  unfold State.arbitrateSection
  split
  · exact h.arbitrate _
  · exact h

theorem endHolding (i : Slot) (st : CtxState) : Onward s0 (s.endHolding i st) := (h.giveUp _ _).arbitrateOn _

theorem freeCtx (i : Slot) : Onward s0 (s.freeCtx i) := (h.freeQuiet _).arbitrateOn _

/-! ### Withdrawals and strikes -/

theorem setWithdraw (i : Slot) (r : Reason) (b : Bool) : Onward s0 (s.setWithdraw i r b) := h.modCtx _ _

theorem startDrop (i : Slot) (r : Reason) (n : Nat) : Onward s0 (s.startDrop i r n) := h.modCtx _ _

theorem withdrawNow (i : Slot) (r : Reason) (st : CtxState) : Onward s0 (s.withdrawNow i r st) := (h.giveUp i st).setWithdraw i r true

theorem turnDrop (i : Slot) (r : Reason) : Onward s0 (s.turnDrop i r) := (h.modCtx i _).setWithdraw i r false

theorem releaseTarget (i : Slot) : Onward s0 (s.releaseTarget i) := (h.dropEntry _).setGap _ _

theorem redirectDrop (i : Slot) (r : Reason) : Onward s0 (s.redirectDrop i r) := by
  unfold State.redirectDrop
  split
  · exact (h.releaseTarget i).turnDrop i r
  · exact h.turnDrop i r

theorem enterCrossing (i : Slot) : Onward s0 (s.enterCrossing i) := by
  unfold State.enterCrossing
  refine Onward.modCtx (Onward.setGap (h.releaseHold i) i _ ?_) i _
  exact spares_sameGap _ _ rfl

theorem faultContext (i : Slot) : Onward s0 (s.faultContext i) := by
  unfold State.faultContext
  split
  · exact h.startDrop _ _ _
  · exact h.redirectDrop _ _
  · exact h.withdrawNow _ _ _
  · exact h.giveUp _ _
  · exact h.giveUp _ _
  · exact h.giveUp _ _
  · exact h
  · exact h

theorem faultLate (i : Slot) : Onward s0 (s.faultLate i) := by
  unfold State.faultLate
  split
  · exact h.giveUp _ _
  · exact h.faultContext i

theorem strikeBy (i : Slot) {g : State → State} (hg : ∀ t, Onward s0 t → Onward s0 (g t)) : Onward s0 (s.strikeBy i g) := by
  unfold State.strikeBy
  dsimp only
  split
  · exact hg _ ((h.modCtx _ _).report _ _ _)
  · split
    · exact (h.modCtx _ _).report _ _ _
    · exact h.modCtx _ _

theorem strikeQuiet (i : Slot) : Onward s0 (s.strikeQuiet i) := h.strikeBy i (fun _ k => k.faultContext i)

theorem strikeLate (i : Slot) : Onward s0 (s.strikeLate i) := by
  unfold State.strikeLate
  dsimp only
  split
  · exact (h.strikeBy i (fun _ k => k.faultLate i)).arbitrateOn _
  · exact h.strikeBy i (fun _ k => k.faultLate i)

theorem strike (i : Slot) : Onward s0 (s.strike i) := by
  unfold State.strike
  dsimp only
  split
  · exact (h.strikeQuiet i).arbitrateOn _
  · exact h.strikeQuiet i

/-! ### Sections -/

theorem openToStandby (x : SectionId) : Onward s0 (s.openToStandby x) := h.modSec _ _

theorem restIdle (x : SectionId) : Onward s0 (s.restIdle x) := h.modSec _ _

theorem writeOpen (x : SectionId) : Onward s0 (s.writeOpen x) := h.modSec _ _

theorem wake (x : SectionId) : Onward s0 (s.wake x) := by
  unfold State.wake
  split
  · exact h
  · split
    · split
      · exact h.modSec _ _
      · split
        · exact h.modSec _ _
        · exact h.modSec _ _
      · exact h
      · exact h
      · exact h
    · exact h

theorem approachWake (i : Slot) : Onward s0 (s.approachWake i) := by
  unfold State.approachWake
  dsimp only
  split
  · exact h
  · exact h
  · exact fold (fun _ x k => k.wake x) _ h
  · exact h
  · exact h

theorem stripTarget (i : Slot) (x : SectionId) : Onward s0 (s.stripTarget i x) := by
  unfold State.stripTarget
  dsimp only
  split
  · split
    · exact (h.setGap i _).dropEntry i
    · exact h.setGap i _
  · split
    · exact h.dropEntry i
    · exact h

theorem isolateContext (x : SectionId) (i : Slot) : Onward s0 (State.isolateContext x s i) := by
  unfold State.isolateContext
  dsimp only
  split
  · split
    · exact h.startDrop _ _ _
    · exact h
  · split
    · exact (h.giveUp _ _).refuse _ _
    · exact h
  · split
    · exact (h.giveUp _ _).refuse _ _
    · exact h
  · exact h.stripTarget i x
  · exact h.stripTarget i x
  · exact h
  · exact h
  · exact h

theorem lockOut (x : SectionId) : Onward s0 (s.lockOut x) := h.modSec _ _

theorem isolate (x : SectionId) : Onward s0 (s.isolate x) := by
  have ht : Onward s0 ((s.lockOut x).eachSlot (State.isolateContext x)) := eachSlot (fun _ i k => k.isolateContext x i) (h.lockOut x)
  unfold State.isolate
  dsimp only
  split
  · exact ht.arbitrateSection x
  · exact ht

theorem completeRaise (x : SectionId) : Onward s0 (s.completeRaise x) := (h.modSec _ _).arbitrateSection x

theorem failRaise (x : SectionId) (b : Bool) : Onward s0 (s.failRaise x b) := (h.isolate x).report _ _ _

theorem reportMismatch (x : SectionId) (n : Nat) : Onward s0 (s.reportMismatch x n) := h.report _ _ _

theorem takeStatus (x : SectionId) (u : SsuStatus) : Onward s0 (s.takeStatus x u) := by
  have h1 := h.modSec x (fun r => { r with ssu := some u })
  unfold State.takeStatus
  dsimp only
  split
  · split
    · exact h1
    · exact (h1.isolate x).reportMismatch _ _
  · split
    · exact h1
    · split
      · exact (h1.isolate x).reportMismatch _ _
      · exact (h1.openToStandby x).reportMismatch _ _
  · split
    · exact h1.completeRaise x
    · split
      · exact h1.failRaise x true
      · exact h1
  · split
    · exact (h1.isolate x).reportMismatch _ _
    · split
      · exact (h1.writeOpen x).reportMismatch _ _
      · exact h1
  · have h2 := h1.modSec x (fun r => { r with lockout := true })
    split
    · split
      · split
        · exact h2.writeOpen x
        · exact h2
      · split
        · exact (h2.writeOpen x).reportMismatch _ _
        · exact h2.reportMismatch _ _
    · split
      · exact (h1.writeOpen x).reportMismatch _ _
      · exact h1

theorem sectionsSuspect (f : FeederId) : Onward s0 (s.sectionsSuspect f) := by
  unfold State.sectionsSuspect
  refine eachSection (fun t x k => ?_) h
  split
  · exact k.openToStandby x
  · exact k

theorem sectionsDown (f : FeederId) : Onward s0 (s.sectionsDown f) := by
  unfold State.sectionsDown
  refine eachSection (fun t x k => ?_) h
  split
  · exact k.openToStandby x
  · exact k

theorem sectionsBack (f : FeederId) : Onward s0 (s.sectionsBack f) := by
  unfold State.sectionsBack
  refine eachSection (fun t x k => ?_) h
  split
  · exact k.wake x
  · exact k

theorem sectionAfterSwap (x : SectionId) : Onward s0 (s.sectionAfterSwap x) := by
  unfold State.sectionAfterSwap
  split
  · split
    · exact h
    · exact h.openToStandby x
  · split
    · exact h.openToStandby x
    · exact h
  · split
    · exact h.openToStandby x
    · exact h
  · exact h
  · exact h

/-! ### The swap -/

theorem resettle (i : Slot) : Onward s0 (s.resettle i) := by
  unfold State.resettle
  dsimp only
  split
  · exact h
  · exact h.modCtx _ _

theorem rehome (i : Slot) : Onward s0 (s.rehome i) := by
  unfold State.rehome
  split
  · exact h
  · split
    · exact (h.giveUp _ _).refuse _ _
    · split
      · exact (h.moveEntry _ _).wake _
      · exact (h.queueAt _ _ _ _ _).wake _

end

/-- What follows the flip of the selector. -/
theorem completed (s : State) : Onward s.flip s.completeSwap := by
  have h1 : Onward s.flip (s.flip.eachSlot State.resettle).sectionsAfterSwap :=
    eachSection (fun _ x k => k.sectionAfterSwap x) (eachSlot (fun _ i k => k.resettle i) (.refl _))
  unfold State.completeSwap
  dsimp only
  refine eachSlot (fun t i k => ?_) (Onward.arbitrateAll (Onward.report (eachSlot (fun t i k => ?_) h1) _ _ _))
  · unfold State.tellRehomed
    split
    · exact k.deferIfQueued _ _
    · exact k
  · unfold State.rehomeQueued
    split
    · exact k.rehome i
    · exact k

theorem completeSwap {s0 : State} (h : Onward s0 s) (hp : s.swap ≠ .none) : Onward s0 s.completeSwap := (h.flip hp).trans (completed s)

theorem evalSwap {s0 : State} (h : Onward s0 s) : Onward s0 s.evalSwap := by
  unfold State.evalSwap
  split
  · next hc =>
    rw [Bool.and_eq_true] at hc
    exact h.completeSwap (by simpa [State.swapPending] using hc.1)
  · exact h

end Onward

/-! ### What the end of a swap does to the contexts (R17, R18) -/

/-- A context is as it was but for the place that its last chainage resolves to. -/
def Context.Resettled (c d : Context) : Prop :=
  (c.state = .free → d = c) ∧ ∃ r a, d = { c with pos := { c.pos with resolution := r, approach := a } }

theorem Context.Resettled.refl (c : Context) : c.Resettled c := ⟨fun _ => rfl, c.pos.resolution, c.pos.approach, rfl⟩

theorem Context.Resettled.state {c d : Context} (h : c.Resettled d) : d.state = c.state := by obtain ⟨-, r, a, rfl⟩ := h; rfl

theorem Context.Resettled.trans {c d e : Context} (h : c.Resettled d) (k : d.Resettled e) : c.Resettled e := by
  have hs := h.state
  obtain ⟨hf, r, a, hd⟩ := h
  obtain ⟨kf, q, b, he⟩ := k
  exact ⟨fun h0 => (kf (hs.trans h0)).trans (hf h0), q, b, by rw [he, hd]⟩

theorem State.resettle_ctx (s : State) (i j : Slot) : (s.ctx j).Resettled ((s.resettle i).ctx j) := by
  unfold State.resettle
  dsimp only
  split
  · exact .refl _
  · next hf =>
    by_cases h : i = j
    · subst h
      rw [State.modCtx_ctx_self]
      exact ⟨fun h0 => absurd (beq_iff_eq.2 h0) hf, _, _, rfl⟩
    · rw [State.modCtx_ctx_other _ _ h]
      exact .refl _

theorem State.sectionAfterSwap_ctx (s : State) (x : SectionId) (j : Slot) : (s.sectionAfterSwap x).ctx j = s.ctx j := by
  unfold State.sectionAfterSwap State.openToStandby
  split
  · split
    · rfl
    · exact State.modSec_ctx' _ _ _ _
  · split
    · exact State.modSec_ctx' _ _ _ _
    · rfl
  · split
    · exact State.modSec_ctx' _ _ _ _
    · rfl
  · rfl
  · rfl

theorem State.eachSection_ctx {g : State → SectionId → State} (hg : ∀ t x j, (g t x).ctx j = t.ctx j) (s : State) (j : Slot) :
    (s.eachSection g).ctx j = s.ctx j := by
  unfold State.eachSection
  generalize allSections = l
  induction l generalizing s with
  | nil => rfl
  | cons x l ih => exact (ih _).trans (hg s x j)

theorem State.rehome_ctx_other (s : State) {i j : Slot} (h : i ≠ j) : (s.rehome i).ctx j = s.ctx j := by
  unfold State.rehome
  split
  · rfl
  · split
    · rw [State.refuse_ctx, State.giveUp_ctx, if_neg h]
    · split
      · rw [State.wake_ctx, State.moveEntry_ctx]
      · rw [State.wake_ctx, State.queueAt_ctx, if_neg h]

theorem State.tellRehomed_ctx (moved : Slot → Bool) (s : State) (i j : Slot) : (State.tellRehomed moved s i).ctx j = s.ctx j := by
  unfold State.tellRehomed
  split
  · exact State.deferIfQueued_ctx _ _ _ _
  · rfl

/-- No context is CROSSING while a swap completes: one in CROSSING is in conflict (R11). -/
theorem State.not_crossing_of_conflicts {s : State} (hp : s.swapPending = true) (hc : s.conflicts = 0) (i : Slot) :
    (s.ctx i).state ≠ .crossing := fun h => by
  have hi : s.inConflict i = true := by unfold State.inConflict; rw [h]; exact hp
  have : 0 < s.conflicts := List.length_pos_of_mem (List.mem_filter.2 ⟨mem_allSlots i, hi⟩)
  omega

/-- The completion of a swap resettles a context that does not wait. -/
theorem State.completeSwap_ctx {s : State} {i : Slot} (hq : (s.ctx i).state ≠ .queued) (hx : (s.ctx i).state ≠ .crossing) :
    (s.ctx i).Resettled (s.completeSwap.ctx i) := by
  have h1 : (s.ctx i).Resettled ((s.flip.eachSlot State.resettle).sectionsAfterSwap.ctx i) := by
    rw [State.sectionsAfterSwap, State.eachSection_ctx State.sectionAfterSwap_ctx]
    exact State.eachSlot_induction (P := fun t => (s.ctx i).Resettled (t.ctx i)) (fun t j k => k.trans (t.resettle_ctx j i)) (.refl _)
  unfold State.completeSwap
  dsimp only
  refine State.eachSlot_induction (P := fun t => (s.ctx i).Resettled (t.ctx i)) (fun t j k => ?_) ?_
  · rw [State.tellRehomed_ctx]
    exact k
  · have h2 : (s.ctx i).Resettled (((s.flip.eachSlot State.resettle).sectionsAfterSwap.eachSlot State.rehomeQueued).ctx i) := by
      refine State.eachSlot_induction (P := fun t => (s.ctx i).Resettled (t.ctx i)) (fun t j k => ?_) h1
      unfold State.rehomeQueued
      split
      · next hj =>
        have hne : j ≠ i := by
          rintro rfl
          exact hq (k.state.symm.trans (beq_iff_eq.1 hj))
        rw [State.rehome_ctx_other _ hne]
        exact k
      · exact k
    generalize ((s.flip.eachSlot State.resettle).sectionsAfterSwap.eachSlot State.rehomeQueued) = u at h2
    have h3 : (u.report .swapDone (s.flip.eachSlot State.resettle).sectionsAfterSwap.active.code
        (allSlots.filter (fun i => ((s.flip.eachSlot State.resettle).sectionsAfterSwap.ctx i).state == .queued
          && (s.flip.eachSlot State.resettle).sectionsAfterSwap.rehomeLeaves i)).length).arbitrateAll.ctx i = u.ctx i := by
      rw [State.arbitrateAll, (Served.arbitrateOn _ _).others i, State.report_ctx]
      rw [Served.waits_iff, State.report_ctx, h2.state]
      exact ⟨hq, hx⟩
    rw [h3]
    exact h2

/-- The evaluation of a swap resettles, at most, a context that is not QUEUED. -/
theorem State.evalSwap_ctx {s : State} {i : Slot} (hq : (s.ctx i).state ≠ .queued) : (s.ctx i).Resettled (s.evalSwap.ctx i) := by
  unfold State.evalSwap
  split
  · next h =>
    simp only [Bool.and_eq_true, beq_iff_eq] at h
    exact State.completeSwap_ctx hq (State.not_crossing_of_conflicts h.1 h.2 i)
  · exact .refl _

end Sys2Proof.Machine
end

section
/-! PROOFS. What a context keeps through arbitration and the evaluation of a swap; the timers of a context (R29, R51, R54, R58,
R62, R103) and the overload timer (R86). -/

namespace Sys2Proof.Machine
open Sys2Proof

/-! ### What a waiting context keeps -/

/-- What arbitration and the completion of a swap leave of a context, a waiting one too. -/
structure Context.Stays (c d : Context) : Prop where
  truck : d.truck = c.truck
  cls : d.cls = c.cls
  req : d.req = c.req
  strikes : d.strikes = c.strikes
  holdFlag : d.holdFlag = c.holdFlag
  withdraw : d.withdraw = c.withdraw
  silence : d.silenceAge = c.silenceAge ∧ d.silenceCount = c.silenceCount ∧ d.silenceTimer = c.silenceTimer
  deadline : c.dropDeadline = none → d.dropDeadline = none

namespace Context.Stays
variable {c d e : Context}

theorem refl (c : Context) : c.Stays c := ⟨rfl, rfl, rfl, rfl, rfl, rfl, ⟨rfl, rfl, rfl⟩, fun h => h⟩

theorem trans (h : c.Stays d) (k : d.Stays e) : c.Stays e where
  truck := k.truck.trans h.truck
  cls := k.cls.trans h.cls
  req := k.req.trans h.req
  strikes := k.strikes.trans h.strikes
  holdFlag := k.holdFlag.trans h.holdFlag
  withdraw := k.withdraw.trans h.withdraw
  silence := ⟨k.silence.1.trans h.silence.1, k.silence.2.1.trans h.silence.2.1, k.silence.2.2.trans h.silence.2.2⟩
  deadline := fun h0 => k.deadline (h.deadline h0)

theorem settled (c : Context) (st : CtxState) : c.Stays (c.settled st) := ⟨rfl, rfl, rfl, rfl, rfl, rfl, ⟨rfl, rfl, rfl⟩, fun _ => rfl⟩

theorem givenUp (c : Context) (st : CtxState) : c.Stays (Context.settled { c with hold := none, gap := GapFields.clear } st) :=
  ⟨rfl, rfl, rfl, rfl, rfl, rfl, ⟨rfl, rfl, rfl⟩, fun _ => rfl⟩

theorem resettled (h : c.Resettled d) : c.Stays d := by
  obtain ⟨-, r, a, rfl⟩ := h
  exact ⟨rfl, rfl, rfl, rfl, rfl, rfl, ⟨rfl, rfl, rfl⟩, fun h => h⟩

end Context.Stays

theorem Waited.stays {s t : State} (h : Waited s t) (i : Slot) : (s.ctx i).Stays (t.ctx i) := by
  by_cases hw : (s.ctx i).waits = true
  · have hs : (s.ctx i).state = .queued ∨ (s.ctx i).state = .crossing := by simpa [Context.waits] using hw
    rcases hs with hs | hs
    · rcases h.queued i hs with e | ⟨k, w, r, e⟩
      · rw [e]
        exact .refl _
      · rw [e]
        exact ⟨rfl, rfl, rfl, rfl, rfl, rfl, ⟨rfl, rfl, rfl⟩, fun _ => rfl⟩
    · obtain ⟨f, e⟩ := h.crossing i hs
      rw [e]
      exact ⟨rfl, rfl, rfl, rfl, rfl, rfl, ⟨rfl, rfl, rfl⟩, fun h => h⟩
  · rw [h.others i (by simpa using hw)]
    exact .refl _

theorem State.rehome_stays (s : State) (i j : Slot) : (s.ctx j).Stays ((s.rehome i).ctx j) := by
  by_cases e : i = j
  · subst e
    unfold State.rehome
    split
    · exact .refl _
    · split
      · rw [State.refuse_ctx, State.giveUp_ctx, if_pos rfl]
        exact .givenUp _ _
      · split
        · rw [State.wake_ctx, State.moveEntry_ctx]
          exact .refl _
        · rw [State.wake_ctx, State.queueAt_ctx, if_pos rfl]
          exact .settled _ _
  · rw [State.rehome_ctx_other _ e]
    exact .refl _

theorem State.completeSwap_stays (s : State) (i : Slot) : (s.ctx i).Stays (s.completeSwap.ctx i) := by
  have step : ∀ {t u : State}, (s.ctx i).Stays (t.ctx i) → u.ctx i = t.ctx i → (s.ctx i).Stays (u.ctx i) := fun h e => by rwa [e]
  have h1 : (s.ctx i).Stays ((s.flip.eachSlot State.resettle).sectionsAfterSwap.ctx i) := by
    rw [State.sectionsAfterSwap, State.eachSection_ctx State.sectionAfterSwap_ctx]
    exact State.eachSlot_induction (P := fun t => (s.ctx i).Stays (t.ctx i)) (fun t j k => k.trans (.resettled (t.resettle_ctx j i))) (.refl _)
  unfold State.completeSwap
  dsimp only
  refine State.eachSlot_induction (P := fun t => (s.ctx i).Stays (t.ctx i)) (fun t j k => step k (State.tellRehomed_ctx _ _ _ _)) ?_
  refine Context.Stays.trans ?_ ((Waited.arbitrateOn _ _).stays i)
  refine step ?_ (State.report_ctx _ _ _ _ _)
  refine State.eachSlot_induction (P := fun t => (s.ctx i).Stays (t.ctx i)) (fun t j k => ?_) h1
  unfold State.rehomeQueued
  split
  · exact k.trans (t.rehome_stays j i)
  · exact k

theorem State.evalSwap_stays (s : State) (i : Slot) : (s.ctx i).Stays (s.evalSwap.ctx i) := by
  unfold State.evalSwap
  split
  · exact s.completeSwap_stays i
  · exact .refl _

/-! ### Arbitration and the swap after an operation -/

section
variable {s : State} {i : Slot} (hq : (s.ctx i).state ≠ .queued) (hx : (s.ctx i).state ≠ .crossing)
include hq hx

/-- A context that does not wait stands through arbitration. -/
theorem State.arbitrateOn_ctx (w : FeederId → Bool) : (s.arbitrateOn w).ctx i = s.ctx i :=
  (Served.arbitrateOn s w).others i ((Served.waits_iff _).2 ⟨hq, hx⟩)

theorem State.arbitrate_ctx (f : FeederId) : (s.arbitrate f).ctx i = s.ctx i :=
  (Served.arbitrate s f).others i ((Served.waits_iff _).2 ⟨hq, hx⟩)

/-- A context that does not wait is resettled, at most, by the arbitration and the evaluation of a swap that follow. -/
theorem State.arbitrateOn_evalSwap_ctx (w : FeederId → Bool) : (s.ctx i).Resettled ((s.arbitrateOn w).evalSwap.ctx i) := by
  have e := State.arbitrateOn_ctx hq hx w
  have := State.evalSwap_ctx (s := s.arbitrateOn w) (i := i) (by rwa [e])
  rwa [e] at this

end

/-- A change that leaves what the conflict test reads of a context leaves a swap settled. -/
theorem State.swapSettled_modCtx {s : State} (h : s.swapSettled) {i : Slot} {g : Context → Context}
    (hg : (g (s.ctx i)).state = (s.ctx i).state ∧ (g (s.ctx i)).hold = (s.ctx i).hold ∧ (g (s.ctx i)).pos = (s.ctx i).pos) :
    (s.modCtx i g).swapSettled := by
  have hc : ∀ j, (s.modCtx i g).inConflict j = s.inConflict j := fun j => by
    have hj : ((s.modCtx i g).ctx j).state = (s.ctx j).state ∧ ((s.modCtx i g).ctx j).hold = (s.ctx j).hold
        ∧ ((s.modCtx i g).ctx j).pos = (s.ctx j).pos := by
      by_cases e : i = j
      · subst e
        rw [State.modCtx_ctx_self]
        exact hg
      · rw [State.modCtx_ctx_other _ _ e]
        exact ⟨rfl, rfl, rfl⟩
    obtain ⟨h1, h2, h3⟩ := hj
    unfold State.inConflict State.wouldConflict
    rw [h1, h2, h3]
    rfl
  rcases h with h | ⟨j, hj⟩
  · exact .inl h
  · exact .inr ⟨j, (hc j).trans hj⟩

/-! ### Gap fields that leave the reservation -/

theorem State.modFdr_modFdr (s : State) (f : FeederId) (g h : Feeder → Feeder) :
    (s.modFdr f g).modFdr f h = s.modFdr f (fun d => h (g d)) := by
  unfold State.modFdr
  rw [show ({ s with feeders := s.feeders.set f (g (s.fdr f)) } : State).fdr f = g (s.fdr f) from by simp [State.fdr], Vector.set_set]

theorem State.modFdr_eq_self {s : State} {f : FeederId} {g : Feeder → Feeder} (h : g (s.fdr f) = s.fdr f) : s.modFdr f g = s := by
  unfold State.modFdr
  rw [h]
  unfold State.fdr
  rw [show s.feeders.set f s.feeders[f] = s.feeders from by simp]

theorem State.modLoad_modLoad (s : State) (x : SectionId) (g h : Nat → Nat) : (s.modLoad x g).modLoad x h = s.modLoad x (fun n => h (g n)) := by
  unfold State.modLoad
  rw [show ({ s with loads := s.loads.set x (g (s.load x)) } : State).load x = g (s.load x) from by simp [State.load], Vector.set_set]

theorem State.modLoad_eq_self {s : State} {x : SectionId} {g : Nat → Nat} (h : g (s.load x) = s.load x) : s.modLoad x g = s := by
  unfold State.modLoad
  rw [h]
  unfold State.load
  rw [show s.loads.set x s.loads[x] = s.loads from by simp]

/-- What is committed and taken back leaves the budgets. -/
theorem State.uncommit_commit (s : State) (f : FeederId) (x : SectionId) (a : Nat) : (s.commit f x a).uncommit f x a = s := by
  unfold State.commit State.uncommit
  rw [show (s.modFdr f (fun r => { r with committed := r.committed + a })).modLoad x (· + a)
      = (s.modLoad x (· + a)).modFdr f (fun r => { r with committed := r.committed + a }) from rfl, State.modFdr_modFdr,
    State.modFdr_eq_self (by simp), State.modLoad_modLoad, State.modLoad_eq_self (by simp)]

/-- A section whose holders stand is told nothing. -/
theorem State.tellHolder_stands {s s0 : State} {x : SectionId} (h : s.hasHolder x = s0.hasHolder x) : s.tellHolder s0 x = s := by
  unfold State.tellHolder
  rw [h]
  cases s0.hasHolder x <;> rfl

/-- A context whose state stands changes no section's holders. -/
theorem State.hasHolder_modCtx {s : State} {i : Slot} {g : Context → Context} (hg : (g (s.ctx i)).state = (s.ctx i).state) (x : SectionId) :
    (s.modCtx i g).hasHolder x = s.hasHolder x := by
  have hs : ∀ j, ((s.modCtx i g).ctx j).state = (s.ctx j).state := fun j => by
    by_cases e : i = j
    · subst e
      rw [State.modCtx_ctx_self, hg]
    · rw [State.modCtx_ctx_other _ _ e]
  have hq : (s.modCtx i g).queuedEntryFor x = s.queuedEntryFor x := by
    funext e
    unfold State.queuedEntryFor
    rw [hs]
  unfold State.hasHolder
  rw [hq]
  rfl

/-- Gap fields that refer to the same reservation replace the gap fields alone. -/
theorem State.setGap_sameReserved {s : State} {i : Slot} {g : GapFields} (h : g.reserved = (s.ctx i).gap.reserved) :
    s.setGap i g = s.modCtx i (fun c => { c with gap := g }) := by
  have hh : ∀ x, (s.modCtx i (fun c => { c with gap := g })).hasHolder x = s.hasHolder x := State.hasHolder_modCtx rfl
  have hb : (s.commitHold g.reserved).uncommitHold g.reserved = s := by
    cases g.reserved with
    | none => rfl
    | some r => exact s.uncommit_commit _ _ _
  have ht : ∀ k : Option Holding, (s.modCtx i (fun c => { c with gap := g })).tellHold s k = s.modCtx i (fun c => { c with gap := g }) := fun k => by
    cases k with
    | none => rfl
    | some r => exact State.tellHolder_stands (hh _)
  unfold State.setGap
  dsimp only
  rw [← h, hb, ht, ht]

/-! ### The overload timer (R86) -/

theorem State.newest_eq (s : State) (f : FeederId) (p : Context → Bool) : s.newest f p =
    (((s.fdr f).grantOrder.filter (fun i => (s.ctx i).state = .drawing)).filter (fun i => p (s.ctx i))).getLast? := by
  unfold State.newest
  rw [List.filter_filter]
  congr 2
  funext i
  rw [Bool.and_comm]
  rfl

theorem exec_overload_running {s : State} {f : FeederId} (hp : s.resetPin = false) (h : (s.fdr f).overload ≠ none) :
    exec (.overloadTimerExpiry f) s = .next (s.shed f) := by
  rw [exec_overloadTimerExpiry hp, State.expire_some h]

theorem State.report_counters_sheds (s : State) (k : EventKind) (a b : Nat) : (s.report k a b).counters.sheds = s.counters.sheds :=
  ((Onward.refl s).report k a b).sheds

/-! ### The offer timers (R51, R54) -/

section
variable {s : State} {i : Slot}

theorem exec_running {timer : Context → Timer} (h : timer (s.ctx i) ≠ none) (g : State → State) :
    s.expire (s.runs i timer) g = g s := State.expire_some h g

theorem exec_stopped {timer : Context → Timer} (h : timer (s.ctx i) = none) (g : State → State) :
    s.expire (s.runs i timer) g = s := State.expire_none h g

theorem State.lapse_offered (h : (s.ctx i).state = .offered) : s.lapse i =
    ((((s.giveUp i .tracked).report .offerLapsed (s.ctx i).address.toNat (((s.ctx i).hold.map (·.amount)).getD 0)).countLapsed).arbitrateOn
      (s.touches i)).evalSwap := by
  unfold State.lapse
  dsimp only
  exact if_pos (beq_iff_eq.2 h)

theorem State.countLapsed_ctx (s : State) (j : Slot) : s.countLapsed.ctx j = s.ctx j := rfl

/-- The lapse of an offer leaves its context TRACKED with nothing held. -/
theorem State.lapse_ctx (h : (s.ctx i).state = .offered) :
    (Context.settled { s.ctx i with hold := none, gap := GapFields.clear } .tracked).Resettled ((s.lapse i).ctx i) := by
  rw [State.lapse_offered h]
  have e : (((s.giveUp i .tracked).report .offerLapsed (s.ctx i).address.toNat (((s.ctx i).hold.map (·.amount)).getD 0)).countLapsed).ctx i
      = Context.settled { s.ctx i with hold := none, gap := GapFields.clear } .tracked := by
    rw [State.countLapsed_ctx, State.report_ctx, State.giveUp_ctx, if_pos rfl]
  rw [← e]
  exact State.arbitrateOn_evalSwap_ctx (by rw [e]; simp [Context.settled]) (by rw [e]; simp [Context.settled]) _

/-- The lapse of an offer is reported and counted. -/
theorem State.lapse_counts (h : (s.ctx i).state = .offered) : (s.lapse i).latches.getLsbD 8 = true
    ∧ (s.lapse i).counters.lapsed = min 65535 (s.counters.lapsed + 1) := by
  rw [State.lapse_offered h]
  have hr := (Onward.refl s).giveUp i .tracked
  generalize s.giveUp i .tracked = t at hr
  have hc : (t.report .offerLapsed (s.ctx i).address.toNat (((s.ctx i).hold.map (·.amount)).getD 0)).counters.lapsed = s.counters.lapsed :=
    (hr.report _ _ _).lapsed
  have hl : (t.report .offerLapsed (s.ctx i).address.toNat (((s.ctx i).hold.map (·.amount)).getD 0)).latches.getLsbD 8 = true := by
    rw [State.report_latches, BitVec.getLsbD_or]
    simp [EventKind.place]
  generalize t.report .offerLapsed (s.ctx i).address.toNat (((s.ctx i).hold.map (·.amount)).getD 0) = u at hc hl
  have ho := ((Onward.refl u.countLapsed).arbitrateOn (s.touches i)).evalSwap
  exact ⟨ho.latches 8 hl, ho.lapsed.trans (by rw [← hc]; rfl)⟩

theorem State.repeatOffer_over (h : (s.ctx i).state = .offered) (hw : (s.ctx i).offerWindow = some 0) : s.repeatOffer i = s.lapse i := by
  unfold State.repeatOffer
  exact if_pos (by rw [h, hw]; rfl)

theorem State.repeatOffer_again (h : (s.ctx i).state = .offered) (hw : (s.ctx i).offerWindow ≠ some 0)
    (hl : s.globals.repeatLimit = 0 ∨ (s.ctx i).repeatCount < s.globals.repeatLimit) :
    s.repeatOffer i = (s.modCtx i (fun k => { k with
      repeatCount := min 15 (k.repeatCount + 1), offerRepeat := some (s.globals.offerRepeat * 250) })).sendOfr i ((s.ctx i).req.tag.getD 0) := by
  unfold State.repeatOffer
  rw [if_neg (by simp [hw]), if_pos (by simpa [h] using hl)]
  rfl

theorem State.repeatOffer_stops (h : (s.ctx i).state ≠ .offered ∨ (s.ctx i).offerWindow ≠ some 0)
    (h0 : s.globals.repeatLimit ≠ 0) (hl : s.globals.repeatLimit ≤ (s.ctx i).repeatCount) :
    s.repeatOffer i = s.modCtx i (fun k => { k with offerRepeat := none }) := by
  unfold State.repeatOffer
  rw [if_neg (by simpa [imp_iff_not_or] using h), if_neg (by simp [h0, hl])]

end

end Sys2Proof.Machine

open Sys2Proof Sys2Proof.Machine

/-- Settles O45, by whether a group has a victim. -/
theorem overloadsShedTheNewestGrant : Obligations.OverloadsShedTheNewestGrant := by
  intro f s hp current drawing group victim restarted
  have hvictim : s.victim f = victim := by
    show s.victim f = (Option.or _ _).or _
    rw [Option.or_assoc]
    unfold State.victim
    simp only [State.newest_eq]
    congr 4
    all_goals
      funext i
      exact Bool.eq_iff_iff.2 (by simp)
  have hrest : ∀ {t : State}, t.meters = s.meters → t.restartOverload f = restarted t := fun hm => by
    unfold State.restartOverload State.latestCurrent State.meter
    rw [hm]
    rfl
  refine ⟨fun h => ?_, fun h hv => ?_, fun i h hv => ?_⟩
  · rw [exec_overloadTimerExpiry hp, State.expire_none h]
  · rw [exec_overload_running hp h, State.shed, hvictim, hv]
    exact congrArg Host.Outcome.next (hrest (State.report_meters _ _ _ _))
  · intro t
    rw [exec_overload_running hp h, State.shed, hvictim, hv]
    have ht : ((s.startDrop i .shed s.globals.shedDrop).report .overloadShed (s.ctx i).address.toNat (s.latestCurrent f)) = t := rfl
    have hc : t.counters.sheds = s.counters.sheds := State.report_counters_sheds _ _ _ _
    have hm : t.countShed.meters = s.meters := State.report_meters (s.startDrop i .shed s.globals.shedDrop) _ _ _
    have hs : t.countShed = { t with counters := { t.counters with sheds := min 65535 (s.counters.sheds + 1) } } := by
      unfold State.countShed holdAdd
      rw [hc]
    exact congrArg Host.Outcome.next ((hrest hm).trans (congrArg restarted hs))

/-- Settles O57, timer by timer. -/
theorem grantAndOfferTimersRunOut : Obligations.GrantAndOfferTimersRunOut := by
  intro i s hp c
  refine ⟨fun h => ?_, fun h hs => ?_, fun h => ?_, fun h hs => ?_, fun h => ?_, fun h hs hw => ?_, fun h hs hw hl => ?_,
    fun h hs h0 hl => ?_, fun h => ?_, fun h => ?_⟩
  · rw [exec_grantExpiry hp, exec_stopped h]
  · rw [exec_grantExpiry hp, exec_running h, State.expireGrant, if_pos (beq_iff_eq.2 hs)]
    rfl
  · rw [exec_offerWindowExpiry hp, exec_stopped h]
  · obtain ⟨-, r, a, hctx⟩ := State.lapse_ctx hs
    refine ⟨s.lapse i, by rw [exec_offerWindowExpiry hp, exec_running h], ?_, ?_, ?_, ?_, ?_, State.lapse_counts hs⟩
    all_goals rw [hctx]; rfl
  · rw [exec_offerRepeatExpiry hp, exec_stopped h]
  · rw [exec_offerRepeatExpiry hp, exec_running h, State.repeatOffer_over hs hw, exec_offerWindowExpiry hp,
      exec_running (by rw [show (s.ctx i).offerWindow = some 0 from hw]; exact Option.some_ne_none _)]
  · rw [exec_offerRepeatExpiry hp, exec_running h, State.repeatOffer_again hs hw hl]
  · rw [exec_offerRepeatExpiry hp, exec_running h, State.repeatOffer_stops hs h0 hl]
  · rw [exec_carriedHoldExpiry hp, exec_stopped h]
  · have hg : s.setGap i { (s.ctx i).gap with carried := none }
        = s.modCtx i (fun k => { k with gap := { (s.ctx i).gap with carried := none } }) := State.setGap_sameReserved rfl
    refine ⟨s.setGap i { (s.ctx i).gap with carried := none }, by rw [exec_carriedHoldExpiry hp, exec_running h], ?_⟩
    rw [hg]
    exact ⟨State.modCtx_ctx_self _ _ _, fun j hj => State.modCtx_ctx_other _ _ (Ne.symm hj), fun _ => rfl, fun _ => rfl, fun _ => rfl⟩

end

section
/-! PROOFS. The ends of a drop, of a crossing and of a silence: the drop deadline, the crossing timer, the silence timer
(R29, R33, R34, R61 to R63, R96, R103). -/

namespace Sys2Proof.Machine
open Sys2Proof

/-! ### Operations that go on -/

namespace Onward
variable {s0 s : State} (h : Onward s0 s)
include h

theorem endGapDrop (i : Slot) : Onward s0 (s.endGapDrop i) := (h.enterCrossing i).arbitrateOn _

theorem endShedDrop (i : Slot) : Onward s0 (s.endShedDrop i) := by
  have ht : Onward s0 ((s.askForHeld i).giveUp i .tracked) := Onward.giveUp (h.modCtx i _) i .tracked
  unfold State.endShedDrop
  split
  · exact h.endHolding i .tracked
  · dsimp only
    split
    · exact (ht.refuse i _).arbitrateOn _
    · exact (((ht.queueAt _ _ _ _ _).wake _).arbitrateOn _).deferIfQueued _ _

theorem endDrop (i : Slot) : Onward s0 (s.endDrop i) := by
  unfold State.endDrop
  split
  · exact h.endGapDrop i
  · exact h.endShedDrop i
  · exact h.endHolding i .faulted
  · exact h.endHolding i .tracked

theorem stall (i : Slot) : Onward s0 (s.stall i) := ((h.giveUp i .tracked).report _ _ _).arbitrateOn _

end Onward

/-! ### The end of a drop (R61, R63, R96) -/

/-- The context that a giving up leaves. -/
def Context.left (c : Context) (st : CtxState) : Context := Context.settled { c with hold := none, gap := GapFields.clear } st

theorem State.giveUp_self (s : State) (i : Slot) (st : CtxState) : (s.giveUp i st).ctx i = (s.ctx i).left st := by
  rw [State.giveUp_ctx, if_pos rfl]
  rfl

theorem State.endHolding_ctx (s : State) (i : Slot) {st : CtxState} (hq : st ≠ .queued) (hx : st ≠ .crossing) :
    (s.endHolding i st).ctx i = (s.ctx i).left st := by
  unfold State.endHolding
  rw [State.arbitrateOn_ctx, State.giveUp_self]
  · rw [State.giveUp_self]
    exact hq
  · rw [State.giveUp_self]
    exact hx

/-- A gap drop that ends goes on as a crossing; the arbitration may reserve its target (R61, R96). -/
theorem State.endGapDrop_ctx (s : State) (i : Slot) : ∃ f, (s.endGapDrop i).ctx i = { s.ctx i with
    state := .crossing, hold := none, grantExpiry := none, overdraw := 0, dropReason := none, dropDeadline := none
    gap := { (s.ctx i).gap with feeder := f, crossing := seconds (s.crossingLimit i) } } := by
  have e : (s.enterCrossing i).ctx i = { s.ctx i with
      state := .crossing, hold := none, grantExpiry := none, overdraw := 0, dropReason := none, dropDeadline := none
      gap := { (s.ctx i).gap with crossing := seconds (s.crossingLimit i) } } := by rw [State.enterCrossing_ctx, if_pos rfl]
  obtain ⟨f, hf⟩ := (Waited.arbitrateOn (s.enterCrossing i) (fun f =>
    ((s.ctx i).hold.map (·.feeder)) == some f || ((s.memberOf i).map (·.feeder)) == some f)).crossing i (by rw [e])
  exact ⟨f, by unfold State.endGapDrop; rw [hf, e]⟩

/-- What the end of a drop leaves of its context. -/
structure Context.Ended (c d : Context) : Prop where
  truck : d.truck = c.truck
  strikes : d.strikes = c.strikes
  withdraw : d.withdraw = c.withdraw
  deadline : d.dropDeadline = none
  states : d.state = .crossing ∨ d.state = .faulted ∨ d.state = .tracked ∨ d.state = .queued ∨ d.state = .offered
  faulted : d.state = .faulted → d.hold = none ∧ d.gap = GapFields.clear
  successor : c.dropReason ≠ some .shed → d.hold = none
    ∧ d.state = if c.dropReason = some .gap then .crossing else if c.dropReason = some .fault then .faulted else .tracked

theorem Context.Ended.of_left {c d : Context} {st : CtxState} (h : d = c.left st) (hs : st = .tracked ∨ st = .faulted)
    (hr : c.dropReason ≠ some .shed → c.dropReason ≠ some .gap ∧ (st = .faulted ↔ c.dropReason = some .fault)) : c.Ended d := by
  subst h
  refine ⟨rfl, rfl, rfl, rfl, ?_, fun _ => ⟨rfl, rfl⟩, fun hn => ⟨rfl, ?_⟩⟩
  · show st = _ ∨ st = _ ∨ st = _ ∨ st = _ ∨ st = _
    tauto
  · obtain ⟨hg, hf⟩ := hr hn
    show st = _
    rw [if_neg hg]
    split
    · next h => exact hf.2 h
    · next h => exact hs.resolve_right (fun e => h (hf.1 e))

/-- The waiting, or the offer, that a context comes to where it was placed. -/
theorem Waited.of_queued {s t : State} (h : Waited s t) {i : Slot} (hq : (s.ctx i).state = .queued) :
    (t.ctx i).state = .queued ∨ (t.ctx i).state = .offered := by
  rcases h.queued i hq with e | ⟨k, w, r, e⟩
  · exact .inl (by rw [e, hq])
  · exact .inr (by rw [e]; rfl)

theorem State.endShedDrop_ended {s : State} {i : Slot} (hs : (s.ctx i).dropReason = some .shed) :
    (s.ctx i).Ended ((s.endShedDrop i).ctx i) := by
  have hn : (s.ctx i).dropReason ≠ some .shed → False := fun h => h hs
  unfold State.endShedDrop
  split
  · exact .of_left (State.endHolding_ctx s i (by decide) (by decide)) (.inl rfl) (fun h => (hn h).elim)
  · have ht : ((s.askForHeld i).giveUp i .tracked).ctx i
        = Context.left { s.ctx i with req := { (s.ctx i).req with requested := ((s.ctx i).hold.map (·.amount)).getD 0 } } .tracked := by
      rw [State.giveUp_self, State.askForHeld, State.modCtx_ctx_self]
    dsimp only
    split
    · rw [State.arbitrateOn_ctx, State.refuse_ctx, ht]
      · exact ⟨rfl, rfl, rfl, rfl, .inr (.inr (.inl rfl)), fun _ => ⟨rfl, rfl⟩, fun h => (hn h).elim⟩
      · rw [State.refuse_ctx, ht]
        exact CtxState.noConfusion
      · rw [State.refuse_ctx, ht]
        exact CtxState.noConfusion
    · next x f _ =>
      have hu : ((((s.askForHeld i).giveUp i .tracked).queueAt i f
          (((s.askForHeld i).giveUp i .tracked).ctx i).req.level x .ordinary).wake x).ctx i
          = (((s.askForHeld i).giveUp i .tracked).ctx i).settled .queued := by
        rw [State.wake_ctx, State.queueAt_ctx, if_pos rfl]
      rw [State.deferIfQueued_ctx]
      generalize (((s.askForHeld i).giveUp i .tracked).queueAt i f
          (((s.askForHeld i).giveUp i .tracked).ctx i).req.level x .ordinary).wake x = u at hu
      rw [ht] at hu
      have hw := Waited.arbitrateOn u (fun g => s.touches i g || g == f)
      have hst := hw.stays i
      rw [hu] at hst
      have hq := hw.of_queued (i := i) (by rw [hu]; rfl)
      refine ⟨hst.truck, hst.strikes, hst.withdraw, hst.deadline rfl, .inr (.inr (.inr hq)), fun hf => ?_, fun h => (hn h).elim⟩
      rw [hf] at hq
      exact hq.elim CtxState.noConfusion CtxState.noConfusion

theorem State.endDrop_ended (s : State) (i : Slot) : (s.ctx i).Ended ((s.endDrop i).ctx i) := by
  unfold State.endDrop
  split
  · next hr =>
    obtain ⟨f, e⟩ := s.endGapDrop_ctx i
    rw [e]
    exact ⟨rfl, rfl, rfl, rfl, .inl rfl, CtxState.noConfusion, fun _ => ⟨rfl, by rw [if_pos hr]⟩⟩
  · next hr => exact State.endShedDrop_ended hr
  · next hr =>
    exact .of_left (State.endHolding_ctx s i (by decide) (by decide)) (.inr rfl) (fun _ => ⟨by rw [hr]; decide, by simp [hr]⟩)
  · next h1 h2 h3 =>
    exact .of_left (State.endHolding_ctx s i (by decide) (by decide)) (.inl rfl) (fun _ => ⟨h1, ⟨CtxState.noConfusion, fun e => (h3 e).elim⟩⟩)

/-! ### Strikes (R33, R34) -/

/-- A context with one strike more. -/
def Context.struck (c : Context) (threshold : Nat) : Context := { c with strikes := strikeCount c.strikes threshold }

/-- One strike more brings the context to the threshold, with exclusion enabled (R33). -/
abbrev Context.excludedBy (c : Context) (g : Globals) : Prop :=
  (c.struck g.strikeThreshold).strikes = g.strikeThreshold ∧ g.exclusion = 1

/-- A context outside DRAWING and DROPPING that is struck: FAULTED with nothing held where the strike excludes it (R34). -/
def Context.struckOut (c : Context) (g : Globals) : Context :=
  if c.excludedBy g ∧ c.state ≠ .faulted then (c.struck g.strikeThreshold).left .faulted else c.struck g.strikeThreshold

theorem Context.struckOut_excluded {c : Context} {g : Globals} (h : c.excludedBy g) (hs : c.state ≠ .faulted) :
    c.struckOut g = (c.struck g.strikeThreshold).left .faulted := if_pos ⟨h, hs⟩

theorem Context.struckOut_mild {c : Context} {g : Globals} (h : ¬c.excludedBy g ∨ c.state = .faulted) :
    c.struckOut g = c.struck g.strikeThreshold := if_neg (fun hx => h.elim (fun h => h hx.1) hx.2)

theorem Context.struckOut_keeps (c : Context) (g : Globals) : (c.struckOut g).strikes = strikeCount c.strikes g.strikeThreshold
    ∧ (c.struckOut g).withdraw = c.withdraw ∧ (c.dropDeadline = none → (c.struckOut g).dropDeadline = none)
    ∧ (c.hold = none → (c.struckOut g).hold = none) := by
  unfold Context.struckOut
  split
  · exact ⟨rfl, rfl, fun _ => rfl, fun _ => rfl⟩
  · exact ⟨rfl, rfl, fun h => h, fun h => h⟩

theorem Context.struckOut_ne_queued (c : Context) (g : Globals) (h : c.state ≠ .queued) : (c.struckOut g).state ≠ .queued := by
  unfold Context.struckOut
  split
  · exact CtxState.noConfusion
  · exact h

theorem State.strikeFaults_iff (s : State) (i : Slot) : s.strikeFaults i = true ↔
    strikeCount (s.ctx i).strikes s.globals.strikeThreshold = s.globals.strikeThreshold ∧ s.globals.exclusion = 1
      ∧ (s.ctx i).state ≠ .faulted ∧ ¬((s.ctx i).state = .dropping ∧ (s.ctx i).dropReason = some .fault) := by
  unfold State.strikeFaults State.strikeReaches
  simp only [Bool.and_eq_true, beq_iff_eq, bne_iff_ne, Bool.not_eq_true', and_assoc, ne_eq]
  refine and_congr Iff.rfl (and_congr Iff.rfl (and_congr Iff.rfl ?_))
  rw [← Bool.not_eq_true, Bool.and_eq_true, beq_iff_eq, beq_iff_eq]

theorem State.strikeLate_mild {s : State} {i : Slot} (h : ¬s.strikeFaults i = true) :
    (s.strikeLate i).ctx i = (s.ctx i).struck s.globals.strikeThreshold := by
  unfold State.strikeLate
  dsimp only
  rw [if_neg h, State.strikeBy_ctx s i i (fun t => t.faultLate_ctx i i), if_pos rfl, if_neg h]
  rfl

theorem Context.faultedLate_left {c : Context} (n : Nat) (h : c.state = .crossing ∨ c.state = .tracked ∨ c.state = .queued ∨ c.state = .offered) :
    c.faultedLate n = c.left .faulted := by
  unfold Context.faultedLate
  split
  · rfl
  · next hx =>
    unfold Context.faulted
    rcases h with h | h | h | h
    · exact absurd h hx
    · rw [h]; rfl
    · rw [h]; rfl
    · rw [h]; rfl

/-- A late strike that reaches the threshold leaves a context outside DRAWING and DROPPING FAULTED with nothing held. -/
theorem State.strikeLate_severe {s : State} {i : Slot} (h : s.strikeFaults i = true)
    (hs : (s.ctx i).state = .crossing ∨ (s.ctx i).state = .tracked ∨ (s.ctx i).state = .queued ∨ (s.ctx i).state = .offered) :
    (s.strikeLate i).ctx i = ((s.ctx i).struck s.globals.strikeThreshold).left .faulted := by
  have e : (s.strikeBy i (fun t => t.faultLate i)).ctx i = ((s.ctx i).struck s.globals.strikeThreshold).left .faulted := by
    rw [State.strikeBy_ctx s i i (fun t => t.faultLate_ctx i i), if_pos rfl, if_pos h]
    exact Context.faultedLate_left _ hs
  unfold State.strikeLate
  dsimp only
  rw [if_pos h, State.arbitrateOn_ctx, e]
  · rw [e]
    exact CtxState.noConfusion
  · rw [e]
    exact CtxState.noConfusion

theorem State.strike_mild {s : State} {i : Slot} (h : ¬s.strikeFaults i = true) :
    (s.strike i).ctx i = (s.ctx i).struck s.globals.strikeThreshold := by
  unfold State.strike State.strikeQuiet
  dsimp only
  rw [if_neg h, State.strikeBy_ctx s i i (fun t => t.faultContext_ctx i i), if_pos rfl, if_neg h]
  rfl

/-- A strike that reaches the threshold, with what the treatment leaves of the context no longer waiting. -/
theorem State.strike_severe {s : State} {i : Slot} (h : s.strikeFaults i = true)
    (hq : (((s.ctx i).struck s.globals.strikeThreshold).faulted s.globals.ordinaryDrop).waits = false) :
    (s.strike i).ctx i = ((s.ctx i).struck s.globals.strikeThreshold).faulted s.globals.ordinaryDrop := by
  have e : (s.strikeQuiet i).ctx i = ((s.ctx i).struck s.globals.strikeThreshold).faulted s.globals.ordinaryDrop := by
    unfold State.strikeQuiet
    rw [State.strikeBy_ctx s i i (fun t => t.faultContext_ctx i i), if_pos rfl, if_pos h]
    rfl
  unfold State.strike
  dsimp only
  rw [if_pos h, (Served.arbitrateOn _ _).others i (by rw [e]; exact hq), e]

/-! ### The drop deadline (R62) -/

/-- DROP_LATE is reported and the drop ended. -/
def State.endedLate (s : State) (i : Slot) : State := (s.report .dropLate (s.ctx i).address.toNat (s.ctx i).pos.drawn).endDrop i

theorem State.endedLate_ended (s : State) (i : Slot) : (s.ctx i).Ended ((s.endedLate i).ctx i) := by
  have := (s.report .dropLate (s.ctx i).address.toNat (s.ctx i).pos.drawn).endDrop_ended i
  rwa [State.report_ctx] at this

theorem State.dropLate_dropping {s : State} {i : Slot} (h : (s.ctx i).state = .dropping) :
    s.dropLate i = ((s.endedLate i).strikeLate i).evalSwap := by
  unfold State.dropLate
  exact if_pos (beq_iff_eq.2 h)

theorem State.dropLate_latches {s : State} {i : Slot} (h : (s.ctx i).state = .dropping) : (s.dropLate i).latches.getLsbD 6 = true := by
  rw [State.dropLate_dropping h]
  refine ((((Onward.refl _).endDrop i).strikeLate i).evalSwap).latches 6 ?_
  rw [State.report_latches, BitVec.getLsbD_or]
  simp [EventKind.place]

/-- The late strike on a context outside DRAWING and DROPPING. -/
theorem State.strikeLate_ctx {s : State} {i : Slot}
    (hs : (s.ctx i).state = .crossing ∨ (s.ctx i).state = .faulted ∨ (s.ctx i).state = .tracked ∨ (s.ctx i).state = .queued
      ∨ (s.ctx i).state = .offered) : (s.strikeLate i).ctx i = (s.ctx i).struckOut s.globals := by
  have hd : ¬((s.ctx i).state = .dropping ∧ (s.ctx i).dropReason = some .fault) := by
    rintro ⟨h0, -⟩
    rcases hs with h1 | h1 | h1 | h1 | h1 <;> rw [h1] at h0 <;> cases h0
  by_cases hc : s.strikeFaults i = true
  · obtain ⟨ht, hx, hf, -⟩ := (s.strikeFaults_iff i).1 hc
    rw [State.strikeLate_severe hc (by tauto), Context.struckOut_excluded ⟨ht, hx⟩ hf]
  · have hm : ¬(s.ctx i).excludedBy s.globals ∨ (s.ctx i).state = .faulted := by
      by_contra hn
      rw [not_or, not_not] at hn
      exact hc ((s.strikeFaults_iff i).2 ⟨hn.1.1, hn.1.2, hn.2, hd⟩)
    rw [State.strikeLate_mild hc, Context.struckOut_mild hm]

/-- The strike on a TRACKED context. -/
theorem State.strike_tracked {s : State} {i : Slot} (hs : (s.ctx i).state = .tracked) : (s.strike i).ctx i = (s.ctx i).struckOut s.globals := by
  by_cases hc : s.strikeFaults i = true
  · obtain ⟨ht, hx, hf, -⟩ := (s.strikeFaults_iff i).1 hc
    have hl : ((s.ctx i).struck s.globals.strikeThreshold).faulted s.globals.ordinaryDrop
        = ((s.ctx i).struck s.globals.strikeThreshold).left .faulted := by
      unfold Context.faulted
      rw [show ((s.ctx i).struck s.globals.strikeThreshold).state = .tracked from hs]
      rfl
    rw [State.strike_severe hc (by rw [hl]; rfl), hl, Context.struckOut_excluded ⟨ht, hx⟩ hf]
  · have hm : ¬(s.ctx i).excludedBy s.globals := fun hx =>
      hc ((s.strikeFaults_iff i).2 ⟨hx.1, hx.2, by rw [hs]; exact CtxState.noConfusion, fun h => by rw [hs] at h; cases h.1⟩)
    rw [State.strike_mild hc, Context.struckOut_mild (.inl hm)]

/-- What a late drop leaves of its context: the end of the drop, struck (R62). -/
theorem State.dropLate_ctx {s : State} {i : Slot} (h : (s.ctx i).state = .dropping) : ∃ d, (s.ctx i).Ended d
    ∧ (d.struckOut s.globals).Stays ((s.dropLate i).ctx i)
    ∧ ((d.struckOut s.globals).state ≠ .queued → (d.struckOut s.globals).Resettled ((s.dropLate i).ctx i)) := by
  have hd := s.endedLate_ended i
  have hg : (s.endedLate i).globals = s.globals := ((Onward.report (Onward.refl s) _ _ _).endDrop i).globals
  have he : ((s.endedLate i).strikeLate i).ctx i = ((s.endedLate i).ctx i).struckOut s.globals := by
    rw [State.strikeLate_ctx hd.states, hg]
  refine ⟨(s.endedLate i).ctx i, hd, ?_⟩
  rw [State.dropLate_dropping h]
  generalize (s.endedLate i).strikeLate i = u at he
  rw [← he]
  exact ⟨u.evalSwap_stays i, State.evalSwap_ctx⟩

/-! ### The crossing timer (R103) -/

theorem State.crossingOut_ctx {s : State} {i : Slot} (h : (s.ctx i).state = .crossing) :
    ((s.ctx i).left .tracked).Resettled ((s.crossingOut i).ctx i) := by
  unfold State.crossingOut State.stall
  rw [if_pos (beq_iff_eq.2 h)]
  have e : ∀ a b, ((s.giveUp i .tracked).report .gapStall a b).ctx i = (s.ctx i).left .tracked := fun a b => by
    rw [State.report_ctx, State.giveUp_self]
  rw [← e]
  exact State.arbitrateOn_evalSwap_ctx (by rw [e]; exact CtxState.noConfusion) (by rw [e]; exact CtxState.noConfusion) _

theorem State.crossingOut_latches {s : State} {i : Slot} (h : (s.ctx i).state = .crossing) :
    (s.crossingOut i).latches.getLsbD 7 = true := by
  unfold State.crossingOut State.stall
  rw [if_pos (beq_iff_eq.2 h)]
  refine (((Onward.refl _).arbitrateOn _).evalSwap).latches 7 ?_
  rw [State.report_latches, BitVec.getLsbD_or]
  simp [EventKind.place]

/-! ### The silence timer (R29) -/

/-- The context of a silence that was counted. -/
def Context.silent (c : Context) (time : Nat) : Context :=
  { c with silenceCount := min 2 (c.silenceCount + 1), silenceTimer := some (time * 1000) }

section
variable {s : State} {i : Slot}

theorem State.countSilence_ctx (s : State) (i : Slot) : (s.countSilence i).ctx i = (s.ctx i).silent s.globals.silenceTime :=
  State.modCtx_ctx_self _ _ _

theorem State.countSilence_eq (s : State) (i : Slot) : s.countSilence i = s.setCtx i ((s.ctx i).silent s.globals.silenceTime) := rfl

theorem State.countSilence_settled (h : s.swapSettled) (i : Slot) : (s.countSilence i).swapSettled :=
  State.swapSettled_modCtx h ⟨rfl, rfl, rfl⟩

/-- A silence that acts on nothing but the count. -/
theorem State.silence_counted (h : s.swapSettled) (ha : (s.countSilence i).actOnSilence i = s.countSilence i) :
    s.silence i = s.setCtx i ((s.ctx i).silent s.globals.silenceTime) := by
  unfold State.silence
  rw [ha, State.evalSwap_settled (State.countSilence_settled h i), State.countSilence_eq]

theorem State.silence_waiting (h : (s.ctx i).state = .queued ∨ (s.ctx i).state = .offered) :
    (((s.ctx i).silent s.globals.silenceTime).left .tracked).Resettled ((s.silence i).ctx i) := by
  have ha : (s.countSilence i).actOnSilence i = (s.countSilence i).endHolding i .tracked := by
    unfold State.actOnSilence
    rw [State.countSilence_ctx]
    rcases h with h | h
    · rw [show ((s.ctx i).silent s.globals.silenceTime).state = .queued from h]
    · rw [show ((s.ctx i).silent s.globals.silenceTime).state = .offered from h]
  have e : ((s.countSilence i).endHolding i .tracked).ctx i = ((s.ctx i).silent s.globals.silenceTime).left .tracked := by
    rw [State.endHolding_ctx _ _ (by decide) (by decide), State.countSilence_ctx]
  unfold State.silence
  rw [ha, ← e]
  exact State.evalSwap_ctx (by rw [e]; exact CtxState.noConfusion)

/-- The context of a DRAWING truck whose grant a silence took (R29). -/
def Context.silenced (c : Context) (time : Nat) : Context :=
  { (c.silent time).left .tracked with withdraw := some ⟨.silent, true⟩ }

/-- A DRAWING truck that falls silent loses its grant, and is struck (R29, R33). -/
theorem State.silence_drawing (h : (s.ctx i).state = .drawing) :
    (((s.ctx i).silenced s.globals.silenceTime).struckOut s.globals).Resettled ((s.silence i).ctx i) := by
  have ha : (s.countSilence i).actOnSilence i = (((s.countSilence i).withdrawNow i .silent .tracked).arbitrateOn
      ((s.countSilence i).touches i)).strike i := by
    unfold State.actOnSilence
    rw [State.countSilence_ctx, show ((s.ctx i).silent s.globals.silenceTime).state = .drawing from h]
  have hw : ((s.countSilence i).withdrawNow i .silent .tracked).ctx i = (s.ctx i).silenced s.globals.silenceTime := by
    rw [State.withdrawNow_ctx, if_pos rfl, State.countSilence_ctx]
    rfl
  have hg : (((s.countSilence i).withdrawNow i .silent .tracked).arbitrateOn ((s.countSilence i).touches i)).globals = s.globals :=
    (((Onward.modCtx (Onward.refl s) i _).withdrawNow i .silent .tracked).arbitrateOn _).globals
  have hd : (((s.countSilence i).withdrawNow i .silent .tracked).arbitrateOn ((s.countSilence i).touches i)).ctx i
      = (s.ctx i).silenced s.globals.silenceTime := by
    rw [State.arbitrateOn_ctx (by rw [hw]; exact CtxState.noConfusion) (by rw [hw]; exact CtxState.noConfusion), hw]
  unfold State.silence
  rw [ha]
  generalize ((s.countSilence i).withdrawNow i .silent .tracked).arbitrateOn ((s.countSilence i).touches i) = u at hg hd
  have he : (u.strike i).ctx i = ((s.ctx i).silenced s.globals.silenceTime).struckOut s.globals := by
    rw [State.strike_tracked (by rw [hd]; rfl), hd, hg]
  rw [← he]
  refine State.evalSwap_ctx ?_
  rw [he]
  unfold Context.struckOut
  split
  · exact CtxState.noConfusion
  · exact CtxState.noConfusion

/-- A TRACKED or FAULTED truck silent for the second time is freed (R29). -/
theorem State.silence_freed (h : (s.ctx i).state = .tracked ∨ (s.ctx i).state = .faulted) (hc : 1 ≤ (s.ctx i).silenceCount) :
    (s.silence i).ctx i = Context.freed := by
  have h2 : ((s.ctx i).silent s.globals.silenceTime).silenceCount = 2 := by
    show min 2 ((s.ctx i).silenceCount + 1) = 2
    omega
  have ha : (s.countSilence i).actOnSilence i = (s.countSilence i).freeCtx i := by
    unfold State.actOnSilence
    rw [State.countSilence_ctx]
    rcases h with h | h
    · rw [show ((s.ctx i).silent s.globals.silenceTime).state = .tracked from h]
      exact if_pos h2
    · rw [show ((s.ctx i).silent s.globals.silenceTime).state = .faulted from h]
      exact if_pos h2
  have e : ((s.countSilence i).freeQuiet i).ctx i = Context.freed := by rw [State.freeQuiet_ctx, if_pos rfl]
  have hr := State.arbitrateOn_evalSwap_ctx (s := (s.countSilence i).freeQuiet i) (i := i)
    (by rw [e]; exact CtxState.noConfusion) (by rw [e]; exact CtxState.noConfusion) ((s.countSilence i).touches i)
  rw [e] at hr
  unfold State.silence
  rw [ha]
  exact hr.1 rfl

theorem State.actOnSilence_once (h : (s.ctx i).state = .tracked ∨ (s.ctx i).state = .faulted) (hc : (s.ctx i).silenceCount = 0) :
    (s.countSilence i).actOnSilence i = s.countSilence i := by
  have h1 : ((s.ctx i).silent s.globals.silenceTime).silenceCount ≠ 2 := by
    show min 2 ((s.ctx i).silenceCount + 1) ≠ 2
    omega
  unfold State.actOnSilence
  rw [State.countSilence_ctx]
  rcases h with h | h
  · rw [show ((s.ctx i).silent s.globals.silenceTime).state = .tracked from h]
    exact if_neg h1
  · rw [show ((s.ctx i).silent s.globals.silenceTime).state = .faulted from h]
    exact if_neg h1

theorem State.actOnSilence_moving (h : (s.ctx i).state = .dropping ∨ (s.ctx i).state = .crossing) :
    (s.countSilence i).actOnSilence i = s.countSilence i := by
  unfold State.actOnSilence
  rw [State.countSilence_ctx]
  rcases h with h | h
  · rw [show ((s.ctx i).silent s.globals.silenceTime).state = .dropping from h]
  · rw [show ((s.ctx i).silent s.globals.silenceTime).state = .crossing from h]

end

end Sys2Proof.Machine

open Sys2Proof Sys2Proof.Machine

/-- Settles O58, timer by timer: the drop through its end and its late strike, the silence by the state of the context. -/
theorem dropCrossingAndSilenceTimersRunOut : Obligations.DropCrossingAndSilenceTimersRunOut := by
  refine ⟨?_, ?_⟩
  · intro i s hp c strikes
    refine ⟨fun h => ?_, fun h hs => ?_, fun h => ?_, fun h hs => ?_⟩
    · rw [exec_dropDeadlineExpiry hp, exec_stopped h]
    · obtain ⟨d, hd, hst, hre⟩ := State.dropLate_ctx hs
      have hx : strikes = s.globals.strikeThreshold → s.globals.exclusion = 1 → d.excludedBy s.globals := fun h1 h2 => by
        unfold Context.excludedBy Context.struck
        rw [hd.strikes]
        exact ⟨h1, h2⟩
      have hxs : d.excludedBy s.globals → strikes = s.globals.strikeThreshold ∧ s.globals.exclusion = 1 := fun h1 => by
        unfold Context.excludedBy Context.struck at h1
        rw [hd.strikes] at h1
        exact h1
      obtain ⟨hk, hw, hn, hh⟩ := d.struckOut_keeps s.globals
      refine ⟨s.dropLate i, by rw [exec_dropDeadlineExpiry hp, exec_running h], State.dropLate_latches hs,
        hst.strikes.trans (hk.trans (by rw [hd.strikes]; rfl)), hst.deadline (hn hd.deadline), hst.withdraw.trans (hw.trans hd.withdraw),
        fun hr => ?_, fun h1 h2 => ?_, fun hm hr => ?_⟩
      · obtain ⟨hhold, hstate⟩ := hd.successor hr
        have hq : (d.struckOut s.globals).state ≠ .queued := d.struckOut_ne_queued s.globals (by rw [hstate]; split_ifs <;> exact CtxState.noConfusion)
        obtain ⟨-, r, a, e⟩ := hre hq
        rw [e]
        exact hh hhold
      · have hf : d.struckOut s.globals = (d.struck s.globals.strikeThreshold).left .faulted ∨ d.state = .faulted := by
          by_cases hf : d.state = .faulted
          · exact .inr hf
          · exact .inl (Context.struckOut_excluded (hx h1 h2) hf)
        rcases hf with hf | hf
        · rw [hf] at hre
          obtain ⟨-, r, a, e⟩ := hre CtxState.noConfusion
          rw [e]
          exact ⟨rfl, rfl, rfl⟩
        · rw [Context.struckOut_mild (.inr hf)] at hre
          obtain ⟨-, r, a, e⟩ := hre (by rw [show (d.struck s.globals.strikeThreshold).state = .faulted from hf]; exact CtxState.noConfusion)
          rw [e]
          exact ⟨hf, hd.faulted hf⟩
      · obtain ⟨hhold, hstate⟩ := hd.successor hr
        have hmild : ¬d.excludedBy s.globals := fun hy => hm.elim (fun h1 => h1 (hxs hy).1) (fun h1 => h1 (hxs hy).2)
        rw [Context.struckOut_mild (.inl hmild)] at hre
        have hsd : (d.struck s.globals.strikeThreshold).state = d.state := rfl
        obtain ⟨-, r, a, e⟩ := hre (by rw [hsd, hstate]; split_ifs <;> exact CtxState.noConfusion)
        rw [e]
        exact hstate
    · rw [exec_crossingTimerExpiry hp, exec_stopped h]
    · obtain ⟨-, r, a, e⟩ := State.crossingOut_ctx hs
      refine ⟨s.crossingOut i, by rw [exec_crossingTimerExpiry hp, exec_running h], ?_, ?_, ?_, ?_, State.crossingOut_latches hs⟩
      all_goals rw [e]; rfl
  · intro i s hp c counted strikes
    refine ⟨fun h => by rw [exec_silenceExpiry hp, exec_stopped h], fun h => ?_⟩
    have hrun : exec (.silenceExpiry i) s = .next (s.silence i) := by rw [exec_silenceExpiry hp, exec_running h]
    rw [hrun]
    refine ⟨fun hs => ?_, fun hs => ?_, fun hs hw => ?_, fun hs => ⟨fun hc => ?_, fun hc hw => ?_⟩⟩
    · have hr := State.silence_drawing hs
      refine ⟨_, rfl, ?_⟩
      by_cases hx : ((s.ctx i).silenced s.globals.silenceTime).excludedBy s.globals
      · rw [Context.struckOut_excluded hx CtxState.noConfusion] at hr
        obtain ⟨-, r, a, e⟩ := hr
        rw [e]
        exact ⟨rfl, rfl, rfl, rfl, (if_pos hx).symm⟩
      · rw [Context.struckOut_mild (.inl hx)] at hr
        obtain ⟨-, r, a, e⟩ := hr
        rw [e]
        exact ⟨rfl, rfl, rfl, rfl, (if_neg hx).symm⟩
    · obtain ⟨-, r, a, e⟩ := State.silence_waiting hs
      refine ⟨_, rfl, ?_⟩
      rw [e]
      exact ⟨rfl, rfl, rfl, rfl⟩
    · rw [State.silence_counted hw (State.actOnSilence_moving hs)]
      rfl
    · exact ⟨_, rfl, State.silence_freed hs hc⟩
    · rw [State.silence_counted hw (State.actOnSilence_once hs hc)]
      rfl

end

section
/-! PROOFS. The truck orders: LOWER, HOLD, UNHOLD, CLEAR_FAULT and EVICT (R36 to R39). -/

namespace Sys2Proof.Machine
open Sys2Proof

/-! ### An operation, the evaluation of the swap and the ACK -/

theorem State.reply_ctx (s : State) (c : Caller) (k : Nat) (p : List Byte) (i : Slot) : (s.reply c k p).ctx i = s.ctx i :=
  State.sendReply_ctx' _ _ _

theorem State.ack_ctx (s : State) (c : Caller) (i : Slot) : (s.ack c).ctx i = s.ctx i := s.reply_ctx c _ _ i

theorem State.reply_normalQueue (s : State) (c : Caller) (k : Nat) (p : List Byte) : (s.reply c k p).normalQueue = s.normalQueue :=
  State.sendReply_normalQueue _ _

theorem State.ack_normalQueue (s : State) (c : Caller) : (s.ack c).normalQueue = s.normalQueue := s.reply_normalQueue c _ _

/-- An ACK after operations that only add events stands last. -/
theorem State.onlyEvents.ack_getLast {s t : State} (h : s.onlyEvents t) (c : Caller) :
    (t.ack c).cQueue.getLast? = some ⟨0x70, c.src, s.cAddress, c.seq, []⟩ := by
  obtain ⟨ha, hq, -⟩ := h
  rw [State.ack_getLast hq, ha]

theorem State.taken_onlyEvents {i : Instr} {s : State} (h : s.takes i) : s.taken.onlyEvents s.taken :=
  State.onlyEvents_refl (State.taken_room h)

/-- A frame handed to a normal queue with room keeps its place behind the frames before it. -/
theorem Onward.told {s t : State} {f : Frame} (h : Onward (s.sendNormal f) t) (hq : s.normalQueue.length < 32) :
    t.normalQueue[s.normalQueue.length]? = some f := by
  have hn : (s.sendNormal f).normalQueue = s.normalQueue ++ [f] := by
    unfold State.sendNormal
    rw [if_pos hq]
  obtain ⟨l, hl⟩ := h.normal
  rw [← hl, hn, List.append_assoc, List.getElem?_append_right (Nat.le_refl _), Nat.sub_self]
  rfl

theorem State.taken_swapSettled {s : State} (h : s.swapSettled) : s.taken.swapSettled := by
  obtain ⟨a, k, hu⟩ := s.taken_rest
  rw [hu]
  exact h

theorem State.taken_contextFits {s : State} {i : Slot} (h : s.contextFits i) : s.taken.contextFits i := by
  obtain ⟨a, k, hu⟩ := s.taken_rest
  rw [hu]
  exact h

theorem State.forTruck_none {s : State} {truck : Byte} (h : s.slotOf truck = none) (c : Caller) (run : Slot → State) :
    s.forTruck c truck run = s.nak c .unknownTruck 0 truck := by
  unfold State.forTruck
  rw [h]

theorem State.forTruck_some {s : State} {truck : Byte} {i : Slot} (h : s.slotOf truck = some i) (c : Caller) (run : Slot → State) :
    s.forTruck c truck run = run i := by
  unfold State.forTruck
  rw [h]

/-- The answer to an order for a truck without a context (R36). -/
theorem State.taken_unknownTruck {s : State} {j : Instr} (ht : s.takes j) {truck : Byte} (h : s.slotOf truck = none) (c : Caller)
    (run : Slot → State) : s.taken.forTruck c truck run = s.taken.withNak c 8 0 truck := by
  rw [State.forTruck_none ((s.taken_slotOf truck).trans h)]
  exact State.nak_room (State.taken_room ht) c .unknownTruck 0 truck

/-! ### LOWER (R37) -/

/-- The context that LOWER leaves. -/
def Context.lowered (c : Context) (drop : Nat) : Context :=
  match c.state with
  | .drawing => { c with state := .dropping, grantExpiry := none, overdraw := 0, dropReason := some .order
                         dropDeadline := some (drop * 100), withdraw := some ⟨.order, false⟩ }
  | .dropping => { c with
      dropReason := if c.dropReason = some .fault then some .fault else some .order, withdraw := some ⟨.order, false⟩
      gap := if c.dropReason = some .gap then GapFields.clear else c.gap }
  | .queued => { c.left .tracked with withdraw := some ⟨.order, true⟩ }
  | .offered => { c.left .tracked with withdraw := some ⟨.order, true⟩ }
  | .crossing => { c.left .tracked with withdraw := some ⟨.order, true⟩ }
  | .tracked => { c with withdraw := some ⟨.order, true⟩ }
  | .faulted => { c with withdraw := some ⟨.order, true⟩ }
  | .free => c

theorem Context.lowered_rests (c : Context) (n : Nat) : (c.lowered n).state ≠ .queued ∧ (c.lowered n).state ≠ .crossing := by
  unfold Context.lowered
  split <;> next h => exact ⟨by simp [h, Context.left, Context.settled], by simp [h, Context.left, Context.settled]⟩

theorem Context.dropsForGap_iff (c : Context) : c.dropsForGap = true ↔ c.state = .dropping ∧ c.dropReason = some .gap := by
  simp [Context.dropsForGap]

section
variable (s : State) (i : Slot)

theorem State.withdrawNow_self (r : Reason) (st : CtxState) :
    (s.withdrawNow i r st).ctx i = { (s.ctx i).left st with withdraw := some ⟨r, true⟩ } := by
  rw [State.withdrawNow_ctx, if_pos rfl]
  rfl

/-- A withdrawal with deadline 0 and the arbitration that follows. -/
theorem State.withdrawNow_arbitrateOn_ctx (r : Reason) {st : CtxState} (hq : st ≠ .queued) (hx : st ≠ .crossing) (w : FeederId → Bool) :
    ((s.withdrawNow i r st).arbitrateOn w).ctx i = { (s.ctx i).left st with withdraw := some ⟨r, true⟩ } := by
  have e := s.withdrawNow_self i r st
  rw [State.arbitrateOn_ctx (by rw [e]; exact hq) (by rw [e]; exact hx), e]

theorem State.orderLower_ctx : (s.orderLower i).ctx i = (s.ctx i).lowered s.globals.ordinaryDrop := by
  unfold State.orderLower
  split
  · next h =>
    rw [State.startDrop_ctx, if_pos rfl]
    simp only [Context.lowered, h, tenths]
  · next h =>
    split
    · next hr =>
      have hr : (s.ctx i).dropReason = some .fault := by simpa using hr
      rw [State.setWithdraw_ctx, if_pos rfl]
      simp [Context.lowered, h, hr]
    · next hr =>
      have hr : (s.ctx i).dropReason ≠ some .fault := by simpa using hr
      have e := s.redirectDrop_ctx i .order i
      rw [if_pos rfl] at e
      rw [State.arbitrateOn_ctx (by rw [e]; simp [h]) (by rw [e]; simp [h]), e]
      simp [Context.lowered, h, hr, Context.dropsForGap]
  · next h =>
    rw [State.withdrawNow_arbitrateOn_ctx _ _ _ (by decide) (by decide)]
    simp only [Context.lowered, h]
  · next h =>
    rw [State.withdrawNow_arbitrateOn_ctx _ _ _ (by decide) (by decide)]
    simp only [Context.lowered, h]
  · next h =>
    rw [State.withdrawNow_arbitrateOn_ctx _ _ _ (by decide) (by decide)]
    simp only [Context.lowered, h]
  · next h =>
    rw [State.setWithdraw_ctx, if_pos rfl]
    simp only [Context.lowered, h]
  · next h =>
    rw [State.setWithdraw_ctx, if_pos rfl]
    simp only [Context.lowered, h]
  · next h => simp only [Context.lowered, h]

end

/-! ### HOLD (R38) -/

section
variable {s : State} {i : Slot}

theorem State.orderHold_set (h : (s.ctx i).holdFlag = true) : s.orderHold i = s := by
  unfold State.orderHold
  exact if_pos h

theorem State.orderHold_stands (h : (s.ctx i).holdFlag = false) (hq : (s.ctx i).state ≠ .queued) (ho : (s.ctx i).state ≠ .offered) :
    s.orderHold i = s.setHoldFlag i true := by
  unfold State.orderHold
  rw [if_neg (by simp [h])]
  split
  · next e => exact absurd e hq
  · next e => exact absurd e ho
  · rfl

theorem State.orderHold_waiting (h : (s.ctx i).holdFlag = false) (hw : (s.ctx i).state = .queued ∨ (s.ctx i).state = .offered) :
    s.orderHold i = (s.setHoldFlag i true).endHeld i := by
  unfold State.orderHold
  rw [if_neg (by simp [h])]
  rcases hw with hw | hw
  · rw [hw]
  · rw [hw]

theorem State.endHeld_ctx (s : State) (i : Slot) : (s.endHeld i).ctx i = (s.ctx i).left .tracked := by
  have e : ((s.giveUp i .tracked).refuse i .held).ctx i = (s.ctx i).left .tracked := by rw [State.refuse_ctx, State.giveUp_self]
  unfold State.endHeld
  rw [State.arbitrateOn_ctx (by rw [e]; exact CtxState.noConfusion) (by rw [e]; exact CtxState.noConfusion), e]

/-- A refusal to the truck of a context carries its address and its stored tag. -/
theorem State.refuse_eq (s : State) (i : Slot) (r : Refuse) :
    s.refuse i r = s.sendNormal ⟨0x24, (s.ctx i).truck.getD 0, 0, (s.ctx i).req.tag.getD 0, [byte r.code]⟩ := rfl

/-- Giving up sends no frame. -/
theorem State.giveUp_normalQueue (s : State) (i : Slot) (st : CtxState) : (s.giveUp i st).normalQueue = s.normalQueue := by
  rw [(HoldersOnly.giveUp s i st).rest]

/-- The refusal of a context that gave up everything stands behind the frames that were queued. -/
theorem State.told_of_giveUp {u t : State} {st : CtxState} {r : Refuse} (h : Onward ((u.giveUp i st).refuse i r) t)
    (hq : u.normalQueue.length < 32) : t.normalQueue[u.normalQueue.length]?
      = some ⟨0x24, (u.ctx i).truck.getD 0, 0, (u.ctx i).req.tag.getD 0, [byte r.code]⟩ := by
  rw [State.refuse_eq, State.giveUp_self] at h
  have := h.told (by rwa [State.giveUp_normalQueue])
  rwa [State.giveUp_normalQueue] at this

end

/-! ### EVICT (R39) -/

section
variable {s : State} {i : Slot}

theorem State.memberOf_none_of_count (h : s.entryCount i = 0) : s.memberOf i = none := by
  cases hm : s.memberOf i with
  | none => rfl
  | some m =>
    obtain ⟨he, hs⟩ := State.memberOf_mem hm
    have hp := Feeder.entriesOf_pos he
    have hl := s.entriesOf_le_entryCount m.entry.slot m.feeder
    rw [hs, h] at hl
    rw [hs] at hp
    omega

/-- A context that holds and waits for nothing is freed with no other effect. -/
theorem State.freeCtx_bare (hh : (s.ctx i).hold = none) (hg : (s.ctx i).gap.reserved = none) (hm : s.memberOf i = none) :
    s.freeCtx i = s.setCtx i Context.freed := by
  have hr : s.releaseHold i = s := by
    unfold State.releaseHold
    rw [hh]
  have hs : s.setGap i GapFields.clear = s.modCtx i (fun c => { c with gap := GapFields.clear }) :=
    State.setGap_sameReserved (by rw [hg]; rfl)
  have hd : (s.modCtx i (fun c => { c with gap := GapFields.clear })).dropEntry i = s.modCtx i (fun c => { c with gap := GapFields.clear }) := by
    unfold State.dropEntry
    rw [show (s.modCtx i (fun c => { c with gap := GapFields.clear })).memberOf i = none from hm]
  have ht : s.touches i = fun _ => false := by
    funext f
    unfold State.touches
    rw [hh, hg, hm]
    rfl
  unfold State.freeCtx State.freeQuiet
  rw [ht, hr, hs, hd]
  unfold State.arbitrateOn
  rw [List.filter_false]
  unfold State.modCtx State.setCtx
  dsimp only [List.foldl_nil]
  rw [Vector.set_set]

theorem State.bare_of_fits (h : s.contextFits i) (hs : (s.ctx i).state = .tracked ∨ (s.ctx i).state = .faulted) :
    (s.ctx i).hold = none ∧ (s.ctx i).gap.reserved = none ∧ s.memberOf i = none := by
  obtain ⟨hh, hg, -, -, he, -⟩ := h
  have hx : ¬((s.ctx i).state = .crossing ∨ (s.ctx i).state = .dropping ∧ (s.ctx i).dropReason = some .gap) := by
    rcases hs with hs | hs <;> rw [hs] <;> simp
  refine ⟨?_, reserved_none (hg hx).2.2, State.memberOf_none_of_count (he ?_ hx)⟩
  · rw [← Option.not_isSome_iff_eq_none, hh]
    rcases hs with hs | hs <;> rw [hs] <;> simp
  · rcases hs with hs | hs <;> rw [hs] <;> simp

theorem State.orderEvict_freed (hs : (s.ctx i).state = .tracked ∨ (s.ctx i).state = .faulted) (c : Caller) (truck : Byte) :
    s.orderEvict c truck i = ((s.freeCtx i).evalSwap).ack c := by
  unfold State.orderEvict
  rcases hs with hs | hs
  · rw [hs]
  · rw [hs]

theorem State.orderEvict_refused (ht : (s.ctx i).state ≠ .tracked) (hf : (s.ctx i).state ≠ .faulted) (c : Caller) (truck : Byte) :
    s.orderEvict c truck i = s.nak c .badState 0 truck := by
  unfold State.orderEvict
  split
  · next e => exact absurd e ht
  · next e => exact absurd e hf
  · rfl

theorem State.freeCtx_evalSwap_ctx (s : State) (i : Slot) : ((s.freeCtx i).evalSwap).ctx i = Context.freed := by
  have e : (s.freeQuiet i).ctx i = Context.freed := by rw [State.freeQuiet_ctx, if_pos rfl]
  have hr := State.arbitrateOn_evalSwap_ctx (s := s.freeQuiet i) (i := i) (by rw [e]; exact CtxState.noConfusion)
    (by rw [e]; exact CtxState.noConfusion) (s.touches i)
  rw [e] at hr
  exact hr.1 rfl

/-- Freeing a context that is in no conflict leaves a swap settled. -/
theorem State.swapSettled_setCtx (h : s.swapSettled) (hi : s.inConflict i = false) (c : Context) : (s.setCtx i c).swapSettled := by
  rcases h with h | ⟨j, hj⟩
  · exact .inl h
  · refine .inr ⟨j, ?_⟩
    have hne : i ≠ j := fun e => by subst e; rw [hi] at hj; cases hj
    have hc : (s.setCtx i c).ctx j = s.ctx j := by rw [State.setCtx_ctx, if_neg hne]
    unfold State.inConflict State.wouldConflict at hj ⊢
    rw [hc]
    exact hj

end

theorem Context.unfaulted_cleared (c : Context) : { c.unfaulted with strikes := 0, overdraw := 0 } = { c with
    strikes := 0, overdraw := 0, state := if c.state = .faulted then .tracked else c.state
    dropReason := if c.state = .dropping ∧ c.dropReason = some .fault then some .order else c.dropReason } := by
  unfold Context.unfaulted
  cases hs : c.state <;> simp [hs]

end Sys2Proof.Machine

open Sys2Proof Sys2Proof.Machine

/-- Settles O47, by the state of the context: what LOWER leaves of it stands through the evaluation of a swap. -/
theorem trucksAreLowered : Obligations.TrucksAreLowered := by
  intro c truck s ht
  have he : exec (.truckOrderLower c truck) s = .next (s.taken.forTruck c truck (fun i => ((s.taken.orderLower i).evalSwap).ack c)) :=
    exec_taken (a := 0) rfl ht
  refine ⟨fun hn => by rw [he, State.taken_unknownTruck ht hn], fun i hi => ?_⟩
  have hctx : (s.taken.orderLower i).ctx i = (s.ctx i).lowered s.globals.ordinaryDrop := by
    rw [State.orderLower_ctx, State.taken_ctx, State.taken_globals]
  have hre := State.evalSwap_ctx (s := s.taken.orderLower i) (i := i) (by rw [hctx]; exact (Context.lowered_rests _ _).1)
  rw [hctx] at hre
  have hev : s.taken.onlyEvents ((s.taken.orderLower i).evalSwap) :=
    (keeps_onlyEvents _).evalSwap ((keeps_onlyEvents _).orderLower i (State.taken_onlyEvents ht))
  refine ⟨((s.taken.orderLower i).evalSwap).ack c, by rw [he, State.forTruck_some ((s.taken_slotOf truck).trans hi)],
    (hev.ack_getLast c).trans (by rw [State.taken_cAddress]), ?_⟩
  obtain ⟨-, r, a, e⟩ := hre
  rw [State.ack_ctx, e]
  have htr := (State.slotOf_spec hi).2
  unfold Context.lowered
  cases hs : (s.ctx i).state <;> simp +contextual [htr, Context.left, Context.settled]

/-- Settles O48, order by order. -/
theorem trucksAreHeldClearedAndEvicted : Obligations.TrucksAreHeldClearedAndEvicted := by
  intro c truck s
  refine ⟨fun ht => ?_, fun ht => ?_, fun ht => ?_, fun ht => ?_⟩
  · have he : exec (.truckOrderHold c truck) s = .next (s.taken.forTruck c truck (fun i => ((s.taken.orderHold i).evalSwap).ack c)) :=
      exec_taken (a := 0) rfl ht
    have hq := State.taken_room ht
    refine ⟨fun hn => by rw [he, State.taken_unknownTruck ht hn], fun i hi => ?_⟩
    rw [State.forTruck_some ((s.taken_slotOf truck).trans hi)] at he
    have hc : s.taken.ctx i = s.ctx i := s.taken_ctx i
    refine ⟨fun hw hf => ?_, fun hw hf h1 h2 => ?_, fun hf hw => ?_⟩
    · rw [he, State.orderHold_set (by rwa [hc]), State.evalSwap_settled (State.taken_swapSettled hw), State.ack_room hq]
    · rw [he, State.orderHold_stands (by rwa [hc]) (by rwa [hc]) (by rwa [hc]), State.setHoldFlag,
        State.evalSwap_settled (State.swapSettled_modCtx (State.taken_swapSettled hw) ⟨rfl, rfl, rfl⟩)]
      exact congrArg Host.Outcome.next (State.ack_room (s := s.taken.modCtx i (fun c => { c with holdFlag := true })) hq c)
    · have hctx : (s.taken.orderHold i).ctx i = Context.left { s.ctx i with holdFlag := true } .tracked := by
        rw [State.orderHold_waiting (by rwa [hc]) (by rwa [hc]), State.endHeld_ctx, State.setHoldFlag, State.modCtx_ctx_self, hc]
      have hre := State.evalSwap_ctx (s := s.taken.orderHold i) (i := i) (by rw [hctx]; exact CtxState.noConfusion)
      rw [hctx] at hre
      have hev : s.taken.onlyEvents ((s.taken.orderHold i).evalSwap) :=
        (keeps_onlyEvents _).evalSwap ((keeps_onlyEvents _).orderHold i (State.taken_onlyEvents ht))
      obtain ⟨-, r, a, e⟩ := hre
      rw [← State.ack_ctx (s := (s.taken.orderHold i).evalSwap) (c := c)] at e
      refine ⟨((s.taken.orderHold i).evalSwap).ack c, he, by rw [e]; rfl, by rw [e]; rfl, by rw [e]; rfl,
        (hev.ack_getLast c).trans (by rw [State.taken_cAddress]), fun hr => ?_⟩
      have hon : Onward (((s.taken.setHoldFlag i true).giveUp i .tracked).refuse i .held) ((s.taken.orderHold i).evalSwap) := by
        rw [State.orderHold_waiting (by rwa [hc]) (by rwa [hc])]
        exact ((Onward.refl _).arbitrateOn _).evalSwap
      have hn : (s.taken.setHoldFlag i true).normalQueue = s.normalQueue := s.taken_normalQueue
      have htold := State.told_of_giveUp hon (by rwa [hn])
      rw [hn, State.setHoldFlag, State.modCtx_ctx_self, hc] at htold
      rw [State.ack_normalQueue, htold]
      exact congrArg some (by rw [(State.slotOf_spec hi).2]; rfl)
  · have he : exec (.truckOrderUnhold c truck) s = .next (s.taken.forTruck c truck (fun i => (s.taken.setHoldFlag i false).ack c)) :=
      exec_taken (a := 0) rfl ht
    refine ⟨fun hn => by rw [he, State.taken_unknownTruck ht hn], fun i hi => ?_⟩
    rw [he, State.forTruck_some ((s.taken_slotOf truck).trans hi)]
    exact congrArg Host.Outcome.next (State.ack_room (s := s.taken.setHoldFlag i false) (State.taken_room ht) c)
  · have he : exec (.truckOrderClearFault c truck) s = .next (s.taken.forTruck c truck (fun i => (s.taken.orderClearFault i).ack c)) :=
      exec_taken (a := 0) rfl ht
    refine ⟨fun hn => by rw [he, State.taken_unknownTruck ht hn], fun i hi => ?_⟩
    rw [he, State.forTruck_some ((s.taken_slotOf truck).trans hi)]
    refine congrArg Host.Outcome.next ((State.ack_room (s := s.taken.orderClearFault i) (State.taken_room ht) c).trans ?_)
    exact congrArg (fun t : State => t.withAck c) (State.modCtx_congr (Context.unfaulted_cleared _))
  · have he : exec (.truckOrderEvict c truck) s = .next (s.taken.forTruck c truck (fun i => s.taken.orderEvict c truck i)) :=
      exec_taken (a := 0) rfl ht
    have hq := State.taken_room ht
    refine ⟨fun hn => by rw [he, State.taken_unknownTruck ht hn], fun i hi => ?_⟩
    rw [State.forTruck_some ((s.taken_slotOf truck).trans hi)] at he
    have hc : s.taken.ctx i = s.ctx i := s.taken_ctx i
    refine ⟨fun h1 h2 => ?_, fun hs => ?_, fun hs hf hw => ?_⟩
    · rw [he, State.orderEvict_refused (by rwa [hc]) (by rwa [hc])]
      exact congrArg Host.Outcome.next (State.nak_room hq c .badState 0 truck)
    · have hev : s.taken.onlyEvents ((s.taken.freeCtx i).evalSwap) :=
        (keeps_onlyEvents _).evalSwap ((keeps_onlyEvents _).freeCtx i (State.taken_onlyEvents ht))
      refine ⟨((s.taken.freeCtx i).evalSwap).ack c, by rw [he, State.orderEvict_freed (by rwa [hc])], ?_,
        (hev.ack_getLast c).trans (by rw [State.taken_cAddress])⟩
      rw [State.ack_ctx, State.freeCtx_evalSwap_ctx]
    · obtain ⟨hh, hg, hm⟩ := State.bare_of_fits (s := s.taken) (State.taken_contextFits hf) (by rwa [hc])
      have hi : s.taken.inConflict i = false := by
        unfold State.inConflict
        rw [hc]
        rcases hs with hs | hs <;> rw [hs]
      rw [he, State.orderEvict_freed (by rwa [hc]), State.freeCtx_bare hh hg hm,
        State.evalSwap_settled (State.swapSettled_setCtx (State.taken_swapSettled hw) hi _)]
      exact congrArg Host.Outcome.next (State.ack_room (s := s.taken.setCtx i Context.freed) hq c)

end

section
/-! PROOFS. Every command, effect by effect: a property that the effects of the commands keep is kept by every command. -/

namespace Sys2Proof

/-- A command that replaces a table or resets the whole part. -/
def Instr.writesTables : Instr → Bool
  | .hardReset _ => true
  | .tableWriteSection .. => true
  | .tableWriteGap .. => true
  | .tableWriteFeeder .. => true
  | .tableWriteClass .. => true
  | .tableWriteRing .. => true
  | .tableWriteGlobal .. => true
  | _ => false

/-- A command that begins a swap. -/
def Instr.beginsSwap : Instr → Bool
  | .bankSwap .. => true
  | .bankSwapForced _ => true
  | _ => false

/-- A command with which a sample may come. -/
def Instr.bringsSamples : Instr → Bool
  | .smp .. => true
  | .foreignFrame .m _ => true
  | .checkError .m _ => true
  | .marker .m => true
  | _ => false

end Sys2Proof

namespace Sys2Proof.Machine
open Sys2Proof

/-- Two states agree on the contexts, feeders, sections, map, settings, rings and samples: on everything but lines, links,
queues, counters, latches and what is the model's own. -/
structure SameBody (s t : State) : Prop where
  globals : t.globals = s.globals
  bankA : t.bankA = s.bankA
  bankB : t.bankB = s.bankB
  active : t.active = s.active
  swap : t.swap = s.swap
  contexts : t.contexts = s.contexts
  classes : t.classes = s.classes
  feeders : t.feeders = s.feeders
  loads : t.loads = s.loads
  sections : t.sections = s.sections
  admission : t.admission = s.admission
  meters : t.meters = s.meters
  rings : t.rings = s.rings
  samples : t.samples = s.samples

/-- The effects of the commands keep a property. -/
structure Effects (P : State → Prop) : Prop where
  body : ∀ {s t : State}, SameBody s t → P s → P t
  sec : ∀ {s : State} (x : SectionId) (g : SectionRec → SectionRec), P s → P (s.modSec x g)
  ring : ∀ {s : State} (f : FeederId) {g : Ring → Ring}, (∀ r, (g r).desc = r.desc) → P s → P (s.modRing f g)
  meter : ∀ {s : State} (f : FeederId) (g : Meter → Meter), P s → P (s.modMeter f g)
  fdr : ∀ {s : State} (f : FeederId) {g : Feeder → Feeder},
    (∀ d, (g d).config = d.config ∧ (g d).committed = d.committed ∧ (g d).grantOrder = d.grantOrder ∧ (g d).wait1 = d.wait1
      ∧ (g d).wait2 = d.wait2) → P s → P (s.modFdr f g)
  admissionSet : ∀ {s : State} (a : Admission), P s → P { s with admission := a }
  psn : ∀ {s : State} (truck : Byte) (p : Report), P s → P (s.dispatchPsn truck p)
  drq : ∀ {s : State} (truck : Byte) (u : Terms), P s → P (s.dispatchDrq truck u)
  acc : ∀ {s : State} (truck tag : Byte), P s → P (s.dispatchAcc truck tag)
  rel : ∀ {s : State} (truck tag : Byte), P s → P (s.dispatchRel truck tag)
  heard : ∀ {s : State} {truck : Byte} {i : Slot}, s.slotOf truck = some i → P s → P (s.heard i)
  sst : ∀ {s : State} (x : SectionId) (u : SsuStatus), P s → P (s.takeStatus x u).evalSwap
  arbitrate : ∀ {s : State} (f : FeederId), P s → P (s.arbitrate f)
  abandonSwap : ∀ {s : State}, P s → P s.abandonSwap
  timeoutSwap : ∀ {s : State}, P s → P s.timeoutSwap
  isolate : ∀ {s : State} (x : SectionId), P s → P (s.isolate x).evalSwap
  offline : ∀ {s : State} (f : FeederId), P s → P (s.feederOffline f)
  lost : ∀ {s : State} (f : FeederId), P s → P (s.feederLost f)
  lower : ∀ {s : State} {truck : Byte} {i : Slot}, s.slotOf truck = some i → P s → P (s.orderLower i).evalSwap
  hold : ∀ {s : State} {truck : Byte} {i : Slot}, s.slotOf truck = some i → P s → P (s.orderHold i).evalSwap
  unhold : ∀ {s : State} {truck : Byte} {i : Slot}, s.slotOf truck = some i → P s → P (s.setHoldFlag i false)
  clearFault : ∀ {s : State} {truck : Byte} {i : Slot}, s.slotOf truck = some i → P s → P (s.orderClearFault i)
  evict : ∀ {s : State} {i : Slot}, P s → P (s.freeCtx i).evalSwap
  stop : ∀ {s : State} (n : Nat), P s → P (s.takeRampStop n).evalSwap
  restart : ∀ {s : State}, P s → P s.restarted
  withdrawn : ∀ {s : State} {i : Slot} {w : Withdrawal}, (s.ctx i).withdraw = some w → P s →
    P (s.modCtx i (fun c => { c with withdraw := none }))
  silence : ∀ {s : State} {i : Slot}, (s.ctx i).silenceTimer.isSome = true → P s → P (s.silence i)
  expireGrant : ∀ {s : State} {i : Slot}, (s.ctx i).grantExpiry.isSome = true → P s → P (s.expireGrant i)
  lapse : ∀ {s : State} {i : Slot}, (s.ctx i).offerWindow.isSome = true → P s → P (s.lapse i)
  repeatOffer : ∀ {s : State} {i : Slot}, (s.ctx i).offerRepeat.isSome = true → P s → P (s.repeatOffer i)
  dropLate : ∀ {s : State} {i : Slot}, (s.ctx i).dropDeadline.isSome = true → P s → P (s.dropLate i)
  crossingOut : ∀ {s : State} {i : Slot}, (s.ctx i).gap.crossing.isSome = true → P s → P (s.crossingOut i)
  carriedOut : ∀ {s : State} {i : Slot}, (s.ctx i).gap.carried.isSome = true → P s →
    P (s.setGap i { (s.ctx i).gap with carried := none })
  shed : ∀ {s : State} (f : FeederId), P s → P (s.shed f)
  raiseFails : ∀ {s : State} (x : SectionId) (b : Bool), P s → P (s.failRaise x b).evalSwap

/-- `P` is what stands when a command comes to act, whatever arrives with it; `Q` is what the command is to keep. They differ where
the property relates a state to an earlier one, and the effect is bounded by that state alone (a swap begins, a feeder is
configured). -/
structure Arrives (P Q : State → Prop) : Prop where
  body : ∀ {s t : State}, SameBody s t → P s → P t
  holds : ∀ {s : State}, P s → Q s

/-- The beginning of a swap brings a property. -/
structure Begins (P Q : State → Prop) : Prop where
  unforced : ∀ {s : State}, P s → Q s.beginSwap
  forced : ∀ {s : State}, P s → Q s.beginForcedSwap

theorem Effects.arrives {P : State → Prop} (E : Effects P) : Arrives P P := ⟨E.body, id⟩

/-! ### States with the same body -/

/-- The part of a state that `SameBody` speaks of. -/
def State.body (s : State) : State :=
  { State.reset with
    globals := s.globals, bankA := s.bankA, bankB := s.bankB, active := s.active, swap := s.swap, contexts := s.contexts
    classes := s.classes, feeders := s.feeders, loads := s.loads, sections := s.sections, admission := s.admission
    meters := s.meters, rings := s.rings, samples := s.samples }

namespace SameBody

theorem of {s t : State} (h : t.body = s.body) : SameBody s t := by
  refine ⟨(congrArg State.globals h :), (congrArg State.bankA h :), (congrArg State.bankB h :), (congrArg State.active h :), (congrArg State.swap h :), (congrArg State.contexts h :), (congrArg State.classes h :), (congrArg State.feeders h :), (congrArg State.loads h :), (congrArg State.sections h :), (congrArg State.admission h :), (congrArg State.meters h :), (congrArg State.rings h :), (congrArg State.samples h :)⟩

variable (s : State)

theorem trans {s t u : State} (h : SameBody s t) (k : SameBody t u) : SameBody s u := by
  constructor <;> simp only [k.1, k.2, k.3, k.4, k.5, k.6, k.7, k.8, k.9, k.10, k.11, k.12, k.13, k.14, h.1, h.2, h.3, h.4, h.5, h.6,
    h.7, h.8, h.9, h.10, h.11, h.12, h.13, h.14]

theorem sendReply (f : Frame) : SameBody s (s.sendReply f) := by constructor <;> simp

theorem sendNormal (f : Frame) : SameBody s (s.sendNormal f) := by constructor <;> simp

theorem offerC (f : Frame) : SameBody s (s.offerC f) := by constructor <;> simp

theorem report (k : EventKind) (a b : Nat) : SameBody s (s.report k a b) := by constructor <;> simp

theorem modLink (l : Link) (g : LinkCounters → LinkCounters) : SameBody s (s.modLink l g) := by constructor <;> simp

theorem setAsm (l : Link) (a : Assembler) : SameBody s (s.setAsm l a) := by cases l <;> exact of rfl

theorem evalAlert : SameBody s s.evalAlert := by constructor <;> simp

theorem offerRequest (f : Frame) : SameBody s (s.offerRequest f) := by
  unfold State.offerRequest
  split <;> exact of rfl

theorem endRunt (l : Link) : SameBody s (s.endRunt l) := by
  unfold State.endRunt
  split
  · exact of rfl
  · exact (setAsm _ _ _).trans (modLink _ _ _)

theorem receiveC (f : Frame) : SameBody s (s.receiveC f) := by
  unfold State.receiveC
  split
  · exact of rfl
  · split
    · exact modLink _ _ _
    · exact (modLink _ _ _).trans (offerRequest _ _)

theorem startW (f : Frame) : SameBody s (s.startW f) := by
  unfold State.startW State.mirror
  split
  · exact (of rfl : SameBody s { s.settleW with wSending := some { frame := f, left := frameTime f } }).trans (offerC _ _)
  · exact of rfl

end SameBody

namespace Effects
variable {P : State → Prop} {s : State}

/-! ### Links -/

theorem reply (E : Effects P) (c : Caller) (k : Nat) (p : List Byte) (h : P s) : P (s.reply c k p) := E.body (SameBody.sendReply _ _) h

theorem ack (E : Effects P) (c : Caller) (h : P s) : P (s.ack c) := E.reply _ _ _ h

theorem nak (E : Effects P) (c : Caller) (k : NakCode) (a b : Byte) (h : P s) : P (s.nak c k a b) := E.reply _ _ _ h

theorem report (E : Effects P) (k : EventKind) (a b : Nat) (h : P s) : P (s.report k a b) := E.body (SameBody.report _ _ _ _) h

theorem modLink (E : Effects P) (l : Link) (g : LinkCounters → LinkCounters) (h : P s) : P (s.modLink l g) :=
  E.body (SameBody.modLink _ _ _) h

theorem setAsm (E : Effects P) (l : Link) (a : Assembler) (h : P s) : P (s.setAsm l a) := E.body (SameBody.setAsm _ _ _) h

theorem endRunt (E : Effects P) (l : Link) (h : P s) : P (s.endRunt l) := by
  unfold State.endRunt
  split
  · exact h
  · exact E.modLink _ _ (E.setAsm _ _ h)

theorem endLate (E : Effects P) (l : Link) (h : P s) : P (s.endLate l) := by
  unfold State.endLate
  split
  · exact E.endRunt _ h
  · exact h

theorem copyDat (E : Effects P) (truck tag : Byte) (p : List Byte) (h : P s) : P (s.copyDat truck tag p) := by
  unfold State.copyDat
  split
  · exact E.body (SameBody.offerC _ _) h
  · exact h

theorem dispatchW (E : Effects P) (w : WFrame) (h : P s) : P (s.dispatchW w) := by
  cases w with
  | psn t p => exact E.psn _ _ h
  | drq t u => exact E.drq _ _ h
  | acc t g => exact E.acc _ _ h
  | rel t g => exact E.rel _ _ h
  | dat t g p =>
    show P (s.dispatchDat t g p)
    unfold State.dispatchDat
    split
    · next hi => exact E.copyDat _ _ _ (E.heard hi h)
    · exact E.copyDat _ _ _ h
  | sst x u => exact E.sst _ _ h

theorem receiveW (E : Effects P) (f : Frame) (h : P s) : P (s.receiveW f) := by
  unfold State.receiveW
  split
  · exact E.dispatchW _ (E.modLink _ _ h)
  · exact E.modLink _ _ h

theorem receiveC (E : Effects P) (f : Frame) (h : P s) : P (s.receiveC f) := by
  unfold State.receiveC
  split
  · exact h
  · split
    · exact E.modLink _ _ h
    · exact E.body (SameBody.offerRequest _ _) (E.modLink _ _ h)

theorem fromTruck (E : Effects P) (t : Byte) (w : WFrame) (h : P s) : P (s.fromTruck t w) := by
  unfold State.fromTruck
  split
  · exact E.dispatchW _ (E.modLink _ _ (E.endRunt _ h))
  · exact E.modLink _ _ (E.endRunt _ h)

/-- Bytes on a link bring its frames. -/
theorem feedFor (E : Effects P) {l : Link} (hf : ∀ {t : State} f, P t → P (t.receiveFrame l f)) (n : Nat) :
    ∀ {s : State} (bytes : List Byte), P s → P (State.feedFor l n s bytes) := by
  induction n with
  | zero => exact fun _ h => h
  | succ n ih =>
    intro s bytes h
    cases bytes with
    | nil => exact h
    | cons b rest =>
      unfold State.feedFor
      split
      · exact ih _ (E.setAsm _ _ h)
      · exact ih _ (hf _ (E.setAsm _ _ h))
      · exact ih _ (E.modLink _ _ (E.setAsm _ _ h))

theorem feedFrame (E : Effects P) {l : Link} (hf : ∀ {t : State} f, P t → P (t.receiveFrame l f)) (bytes : List Byte) (h : P s) :
    P (s.feedFrame l bytes) := by
  unfold State.feedFrame
  split <;> exact E.feedFor hf _ _ h

/-! ### Transmission -/

theorem startW (E : Effects P) (f : Frame) (h : P s) : P (s.startW f) := E.body (SameBody.startW _ _) h

theorem sendBroadcast (E : Effects P) (h : P s) : P s.sendBroadcast := by
  unfold State.sendBroadcast
  split
  · exact E.startW _ (E.body (s := s) (.of rfl) h)
  · exact h

theorem sendWdr (E : Effects P) (h : P s) : P s.sendWdr := by
  unfold State.sendWdr
  split
  · split
    · exact h
    · split
      · exact h
      · next hw => exact E.startW _ (E.withdrawn hw h)
  · exact h

theorem sendScm (E : Effects P) (h : P s) : P s.sendScm := by
  unfold State.sendScm
  split
  · split
    · exact h
    · split
      · exact h
      · exact E.startW _ (E.sec _ _ h)
  · exact h

theorem sendQueued (E : Effects P) (h : P s) : P s.sendQueued := by
  unfold State.sendQueued
  split
  · split
    · exact h
    · exact E.startW _ (E.body (s := s) (.of rfl) h)
  · exact h

theorem sendC (E : Effects P) (h : P s) : P s.sendC := by
  unfold State.sendC
  split
  · split
    · exact h
    · exact E.body (s := s) (.of rfl) h
  · exact h

theorem changeWRate (E : Effects P) (h : P s) : P s.changeWRate := by
  unfold State.changeWRate
  split
  · exact E.body (s := s) (.of rfl) h
  · exact h

theorem changeCRate (E : Effects P) (h : P s) : P s.changeCRate := by
  unfold State.changeCRate
  split
  · exact E.body (s := s) (.of rfl) h
  · exact h

/-! ### Sections and feeders -/

theorem wake (E : Effects P) (x : SectionId) (h : P s) : P (s.wake x) := by
  unfold State.wake
  split
  · exact h
  · split
    · split
      · exact E.sec _ _ h
      · split <;> exact E.sec _ _ h
      all_goals exact h
    · exact h

theorem eachSection (_ : Effects P) {g : State → SectionId → State} (hg : ∀ (t : State) (x : SectionId), P t → P (g t x)) (h : P s) :
    P (s.eachSection g) := by
  unfold State.eachSection
  generalize allSections = l
  induction l generalizing s with
  | nil => exact h
  | cons x l ih => exact ih (hg _ x h)

theorem feederOnline (E : Effects P) (f : FeederId) (h : P s) : P (s.feederOnline f) := by
  refine E.arbitrate _ (E.eachSection (fun t x ht => ?_) (E.fdr _ (fun _ => ⟨rfl, rfl, rfl, rfl, rfl⟩) h))
  split
  · exact E.wake _ ht
  · exact ht

theorem feederSilent (E : Effects P) (f : FeederId) (h : P s) : P (s.feederSilent f) := by
  unfold State.feederSilent
  split
  · refine E.eachSection (fun t x ht => ?_) (E.report _ _ _ (E.fdr _ (fun _ => ⟨rfl, rfl, rfl, rfl, rfl⟩) h))
    split
    · exact E.sec _ _ ht
    · exact ht
  · exact h

theorem released_desc (r : Ring) : r.released.desc = r.desc := by
  unfold Ring.released
  split <;> rfl

theorem freezeRing (E : Effects P) (f : FeederId) (h : P s) : P (s.freezeRing f) := E.report _ _ _ (E.ring _ (fun _ => rfl) h)

/-! ### Timers -/

theorem meterLostOut (E : Effects P) (f : FeederId) (h : P s) : P (s.meterLostOut f) := by
  unfold State.meterLostOut
  split
  · exact E.lost _ h
  · exact E.fdr _ (fun _ => ⟨rfl, rfl, rfl, rfl, rfl⟩) h

theorem idleOut (E : Effects P) (x : SectionId) (h : P s) : P (s.idleOut x) := by
  unfold State.idleOut
  split <;> exact E.sec _ _ h

theorem standbyOut (E : Effects P) (x : SectionId) (h : P s) : P (s.standbyOut x) := by
  unfold State.standbyOut
  split <;> exact E.sec _ _ h

theorem raiseOut (E : Effects P) (x : SectionId) (h : P s) : P (s.raiseOut x) := by
  unfold State.raiseOut
  split
  · exact E.raiseFails _ _ h
  · exact E.sec _ _ h

theorem expire (_ : Effects P) {b : Bool} {g : State → State} (hg : b = true → P (g s)) (h : P s) : P (s.expire b g) := by
  unfold State.expire
  split
  · next hb => exact hg hb
  · exact h

/-! ### Requests -/

theorem requestSwap (E : Effects P) (c : Caller) {g : State → State} (hg : P (g s)) (h : P s) : P (s.requestSwap c g) := by
  unfold State.requestSwap
  split
  · exact E.nak _ _ _ _ h
  · split
    · exact E.nak _ _ _ _ h
    · exact E.ack _ hg

theorem swapUnforced (E : Effects P) (c : Caller) (b : Byte) (hb : P s.beginSwap ∧ P s.beginForcedSwap) (h : P s) : P (s.swapUnforced c b) := by
  unfold State.swapUnforced
  split
  · exact E.requestSwap _ hb.1 h
  · split
    · exact E.requestSwap _ hb.2 h
    · exact E.nak _ _ _ _ h

theorem cancelSwap (E : Effects P) (c : Caller) (h : P s) : P (s.cancelSwap c) := by
  unfold State.cancelSwap
  split
  · exact E.ack _ (E.abandonSwap h)
  · exact E.nak _ _ _ _ h

theorem forSection (E : Effects P) (c : Caller) (x : Byte) {g : SectionId → State} (hg : ∀ y, P (g y)) (h : P s) :
    P (s.forSection c x g) := by
  unfold State.forSection
  split
  · exact hg _
  · exact E.nak _ _ _ _ h

theorem forFeeder (E : Effects P) (c : Caller) (b : Byte) {g : FeederId → State} (hg : ∀ f, P (g f)) (h : P s) :
    P (s.forFeeder c b g) := by
  unfold State.forFeeder
  split
  · exact hg _
  · exact E.nak _ _ _ _ h

theorem forTruck (E : Effects P) (c : Caller) (b : Byte) {g : Slot → State} (hg : ∀ i, s.slotOf b = some i → P (g i)) (h : P s) :
    P (s.forTruck c b g) := by
  unfold State.forTruck
  split
  · next hi => exact hg _ hi
  · exact E.nak _ _ _ _ h

theorem commandIsolate (E : Effects P) (x : SectionId) (h : P s) : P (s.commandIsolate x) := by
  unfold State.commandIsolate
  split
  · exact E.sec _ _ h
  · exact E.isolate _ h

theorem commandWake (E : Effects P) (c : Caller) (b : Byte) (x : SectionId) (h : P s) : P (s.commandWake c b x) := by
  unfold State.commandWake
  split
  · exact E.nak _ _ _ _ h
  · exact E.ack _ (E.wake _ h)

theorem commandRestIdle (E : Effects P) (c : Caller) (b : Byte) (x : SectionId) (h : P s) : P (s.commandRestIdle c b x) := by
  unfold State.commandRestIdle
  split
  · exact E.nak _ _ _ _ h
  · split
    · exact E.ack _ (E.sec _ _ h)
    · exact E.ack _ h
    all_goals exact E.nak _ _ _ _ h

theorem commandRestStandby (E : Effects P) (c : Caller) (b : Byte) (x : SectionId) (h : P s) : P (s.commandRestStandby c b x) := by
  unfold State.commandRestStandby
  split
  · exact E.nak _ _ _ _ h
  · split
    · exact E.ack _ (E.sec _ _ h)
    · exact E.ack _ (E.sec _ _ h)
    · exact E.ack _ h
    · exact E.ack _ (E.sec _ _ h)
    · exact E.nak _ _ _ _ h

theorem resumeFeeder (E : Effects P) (f : FeederId) (h : P s) : P (s.resumeFeeder f) := E.feederOnline _ (E.ring _ released_desc h)

theorem commandResume (E : Effects P) (c : Caller) (b : Byte) (f : FeederId) (h : P s) : P (s.commandResume c b f) := by
  unfold State.commandResume
  split
  · exact E.nak _ _ _ _ h
  · exact E.nak _ _ _ _ h
  · split
    · exact E.ack _ (E.resumeFeeder _ h)
    · exact E.nak _ _ _ _ h
  · split
    · exact E.ack _ (E.resumeFeeder _ h)
    · exact E.nak _ _ _ _ h

theorem orderEvict (E : Effects P) (c : Caller) (b : Byte) (i : Slot) (h : P s) : P (s.orderEvict c b i) := by
  unfold State.orderEvict
  split
  · exact E.ack _ (E.evict h)
  · exact E.ack _ (E.evict h)
  · exact E.nak _ _ _ _ h

theorem stopIfAsserted (E : Effects P) (h : P s) : P s.stopIfAsserted := by
  unfold State.stopIfAsserted
  split
  · exact E.stop _ h
  · exact h

theorem resumeRamp (E : Effects P) (c : Caller) (h : P s) : P (s.resumeRamp c) := by
  unfold State.resumeRamp
  split
  · exact E.nak _ _ _ _ h
  · refine E.ack _ (E.report _ _ _ (E.eachSection (fun t x ht => ?_) (E.admissionSet _ h)))
    split
    · exact E.sec _ _ ht
    · exact ht

theorem readSection (E : Effects P) (c : Caller) (b i : Byte) (h : P s) : P (s.readSection c b i) := by
  unfold State.readSection
  split
  · exact E.reply _ _ _ h
  · exact E.nak _ _ _ _ h

theorem readGap (E : Effects P) (c : Caller) (b i : Byte) (h : P s) : P (s.readGap c b i) := by
  unfold State.readGap
  split
  · exact E.reply _ _ _ h
  · exact E.nak _ _ _ _ h

theorem readFeeder (E : Effects P) (c : Caller) (b i : Byte) (h : P s) : P (s.readFeeder c b i) := by
  unfold State.readFeeder
  split
  · exact E.reply _ _ _ h
  · exact E.nak _ _ _ _ h

theorem readClass (E : Effects P) (c : Caller) (b i : Byte) (h : P s) : P (s.readClass c b i) := by
  unfold State.readClass
  split
  · exact E.reply _ _ _ h
  · exact E.nak _ _ _ _ h

theorem drawn (E : Effects P) (n : Nat) (h : P s) : P (s.drawn n) := E.body (s := s) (.of rfl) h

theorem readRing (E : Effects P) (c : Caller) (b i : Byte) (h : P s) : P (s.readRing c b i) := by
  unfold State.readRing
  split
  · dsimp only
    split
    · exact E.drawn _ (E.reply _ _ _ h)
    · exact E.reply _ _ _ h
  · exact E.nak _ _ _ _ h

theorem readGlobal (E : Effects P) (c : Caller) (b i : Byte) (h : P s) : P (s.readGlobal c b i) := by
  unfold State.readGlobal
  split
  · exact E.reply _ _ _ h
  · exact E.nak _ _ _ _ h

theorem pass (E : Effects P) (c : Caller) (b : Byte) (p : List Byte) (h : P s) : P (s.pass c b p) := by
  unfold State.pass
  split
  · exact E.nak _ _ _ _ h
  · split
    · exact E.ack _ (E.body (SameBody.sendNormal _ _) h)
    · exact E.nak _ _ _ _ h

theorem history (E : Effects P) (c : Caller) (b : Byte) (o : Word) (n : Byte) (h : P s) : P (s.history c b o n) := by
  unfold State.history
  split
  · exact E.nak _ _ _ _ h
  · split
    · exact E.nak _ _ _ _ h
    · split
      · exact E.nak _ _ _ _ h
      · exact E.reply _ _ _ h

theorem releaseRing (E : Effects P) (c : Caller) (b : Byte) (f : FeederId) (h : P s) : P (s.releaseRing c b f) := by
  unfold State.releaseRing
  split
  · exact E.nak _ _ _ _ h
  · exact E.ack _ (E.ring _ released_desc h)

theorem readStatus (E : Effects P) (c : Caller) (h : P s) : P (s.readStatus c) :=
  E.body (SameBody.evalAlert _) (E.body (s := (s.reply c 0x74 s.statusBytes).drawn 96) (.of rfl) (E.drawn _ (E.reply _ _ _ h)))

theorem readContext (E : Effects P) (c : Caller) (a b : Byte) (h : P s) : P (s.readContext c a b) := by
  unfold State.readContext
  split
  · split
    · exact E.reply _ _ _ h
    · exact E.nak _ _ _ _ h
  · split
    · split
      · exact E.reply _ _ _ h
      · exact E.nak _ _ _ _ h
    · exact E.nak _ _ _ _ h

/-- What MA does with a taken request keeps the property, a write of a table aside. -/
theorem request (E : Effects P) (i : Instr) (hb : i.beginsSwap = true → P s.beginSwap ∧ P s.beginForcedSwap)
    (hx : i.writesTables = false) (h : P s) : P (requestEffect i s) := by
  cases i <;> dsimp only [requestEffect]
  case unknownRequestKind => exact E.nak _ _ _ _ h
  case tableReadSection => exact E.readSection _ _ _ h
  case tableReadGap => exact E.readGap _ _ _ h
  case tableReadFeeder => exact E.readFeeder _ _ _ h
  case tableReadClass => exact E.readClass _ _ _ h
  case tableReadRing => exact E.readRing _ _ _ h
  case tableReadGlobal => exact E.readGlobal _ _ _ h
  case bankSwap => exact E.swapUnforced _ _ (hb rfl) h
  case bankSwapForced => exact E.requestSwap _ (hb rfl).2 h
  case swapCancel => exact E.cancelSwap _ h
  case sectionCmdIsolate => exact E.forSection _ _ (fun _ => E.ack _ (E.commandIsolate _ h)) h
  case sectionCmdEnable => exact E.forSection _ _ (fun _ => E.ack _ (E.sec _ _ h)) h
  case sectionCmdWake => exact E.forSection _ _ (fun _ => E.commandWake _ _ _ h) h
  case sectionCmdRestIdle => exact E.forSection _ _ (fun _ => E.commandRestIdle _ _ _ h) h
  case sectionCmdRestStandby => exact E.forSection _ _ (fun _ => E.commandRestStandby _ _ _ h) h
  case feederCmdResume => exact E.forFeeder _ _ (fun _ => E.commandResume _ _ _ h) h
  case feederCmdOffline => exact E.forFeeder _ _ (fun _ => E.ack _ (E.offline _ h)) h
  case truckOrderLower => exact E.forTruck _ _ (fun _ hi => E.ack _ (E.lower hi h)) h
  case truckOrderHold => exact E.forTruck _ _ (fun _ hi => E.ack _ (E.hold hi h)) h
  case truckOrderUnhold => exact E.forTruck _ _ (fun _ hi => E.ack _ (E.unhold hi h)) h
  case truckOrderClearFault => exact E.forTruck _ _ (fun _ hi => E.ack _ (E.clearFault hi h)) h
  case truckOrderEvict => exact E.forTruck _ _ (fun _ _ => E.orderEvict _ _ _ h) h
  case passData => exact E.pass _ _ _ h
  case historyRead => exact E.history _ _ _ _ h
  case historyRelease => exact E.forFeeder _ _ (fun _ => E.releaseRing _ _ _ h) h
  case statusRead => exact E.readStatus _ h
  case counterRead => exact E.reply _ _ _ h
  case contextRead => exact E.readContext _ _ _ h
  case queueRead => exact E.forFeeder _ _ (fun _ => E.reply _ _ _ h) h
  case rampStop => exact E.ack _ (E.stop _ h)
  case rampResume => exact E.resumeRamp _ h
  case restart => exact E.stopIfAsserted (E.report _ _ _ (E.restart (E.ack _ h)))
  case tableWriteSection | tableWriteGap | tableWriteFeeder | tableWriteClass | tableWriteRing | tableWriteGlobal => cases hx
  all_goals exact h

/-! ### Every command -/

/-- The taking or the arrival of a request keeps the property where its effect does. -/
theorem takes {Q : State → Prop} (A : Arrives P Q) (i : Instr) {g : State → State} (hg : ∀ {t : State}, P t → Q (g t)) (h : P s) :
    KeepsAll.Lands Q (takeRequest i s g) := by
  have serve : ∀ {t : State}, P t → Q (t.serveOldest g) := by
    intro t ht
    unfold State.serveOldest
    split
    · split
      · exact hg (A.body (s := t) (.of rfl) ht)
      · exact A.holds ht
    · exact A.holds ht
  have arrive : P (s.arriveRequest i) := by
    unfold State.arriveRequest
    split
    · exact A.body ((SameBody.endRunt _ _).trans (SameBody.receiveC _ _)) h
    · exact h
  unfold takeRequest whileOutOfReset
  refine ⟨_, rfl, ?_⟩
  dsimp only
  split
  · exact A.holds h
  · split
    · exact serve h
    · split
      · exact A.holds h
      · split
        · exact serve arrive
        · exact A.holds arrive

theorem outOfReset (_ : Effects P) {g : State → State} (hg : ∀ t, P t → P (g t)) (h : P s) :
    KeepsAll.Lands P (whileOutOfReset s g) := by
  refine ⟨_, rfl, ?_⟩
  split
  · exact h
  · exact hg s h

theorem listening (E : Effects P) (l : Link) {g : State → State} (hg : ∀ t, P t → P (g t)) (h : P s) :
    KeepsAll.Lands P (whileListening l s g) := by
  refine E.outOfReset (fun t ht => ?_) h
  split
  · exact ht
  · exact hg t ht

/-- The commands of a link: frames and bytes that come on it, unless they bring samples. -/
theorem receives (E : Effects P) {l : Link} (hl : l ≠ .m) {t : State} (f : Frame) (h : P t) : P (t.receiveFrame l f) := by
  cases l with
  | w => exact E.receiveW _ h
  | c => exact E.receiveC _ h
  | m => exact absurd rfl hl

/-- Every command ends in a next state and keeps the property, the writes of tables and the samples aside. -/
theorem exec_lands {Q : State → Prop} (E : Effects Q) (A : Arrives P Q) (i : Instr) (hb : i.beginsSwap = true → Begins P Q)
    (hw : i.writesTables = false) (hs : i.bringsSamples = false) (h : P s) : KeepsAll.Lands Q (exec i s) := by
  cases hr : frameOfRequest 0 i with
  | some f =>
    rw [exec_request hr]
    exact takes A i (fun ht => E.request i (fun hi => ⟨(hb hi).unforced ht, (hb hi).forced ht⟩) hw (A.holds ht)) h
  | none =>
    replace h := A.holds h
    cases i
    case rampStopLineAssert =>
      unfold exec execRampStopLineAssert
      refine ⟨_, rfl, ?_⟩
      split
      · exact h
      · split
        · exact E.body (s := s) (.of rfl) h
        · exact E.stop _ (E.body (s := s) (.of rfl) h)
    case rampStopLineRelease =>
      unfold exec execRampStopLineRelease
      exact ⟨_, rfl, E.body (s := s) (.of rfl) h⟩
    case psn =>
      unfold exec execPsn
      exact E.listening _ (fun _ ht => E.fromTruck _ _ ht) h
    case drq =>
      unfold exec execDrq
      exact E.listening _ (fun _ ht => E.fromTruck _ _ ht) h
    case acc =>
      unfold exec execAcc
      exact E.listening _ (fun _ ht => E.fromTruck _ _ ht) h
    case rel =>
      unfold exec execRel
      exact E.listening _ (fun _ ht => E.fromTruck _ _ ht) h
    case dat =>
      unfold exec execDat
      refine E.listening _ (fun _ ht => ?_) h
      split
      · exact E.fromTruck _ _ ht
      · exact E.modLink _ _ (E.endRunt _ ht)
    case sst =>
      unfold exec execSst
      refine E.listening _ (fun _ ht => ?_) h
      split
      · exact E.sst _ _ (E.modLink _ _ (E.endRunt _ ht))
      · exact E.modLink _ _ (E.endRunt _ ht)
    case checkError l bs =>
      unfold exec execCheckError
      have hl : l ≠ .m := fun e => by subst e; cases hs
      exact E.listening _ (fun _ ht => E.feedFrame (fun f hu => E.receives hl f hu) _ (E.endLate _ ht)) h
    case runt =>
      unfold exec execRunt
      exact E.outOfReset (fun _ ht => E.endRunt _ ht) h
    case foreignFrame l f =>
      unfold exec execForeignFrame
      have hl : l ≠ .m := fun e => by subst e; cases hs
      exact E.listening _ (fun _ ht => E.receives hl _ (E.endRunt _ ht)) h
    case requestFrame =>
      unfold exec execRequestFrame
      exact E.listening _ (fun _ ht => E.receiveC _ (E.endRunt _ ht)) h
    case broadcastWithdrawal =>
      unfold exec execBroadcastWithdrawal
      exact E.outOfReset (fun _ ht => E.sendBroadcast ht) h
    case wdrTransmit =>
      unfold exec execWdrTransmit
      exact E.outOfReset (fun _ ht => E.sendWdr ht) h
    case scmTransmit =>
      unfold exec execScmTransmit
      exact E.outOfReset (fun _ ht => E.sendScm ht) h
    case normalQueueTransmit =>
      unfold exec execNormalQueueTransmit
      exact E.outOfReset (fun _ ht => E.sendQueued ht) h
    case cLinkTransmit =>
      unfold exec execCLinkTransmit
      exact E.outOfReset (fun _ ht => E.sendC ht) h
    case wLinkRateChange =>
      unfold exec execWLinkRateChange
      exact E.outOfReset (fun _ ht => E.changeWRate ht) h
    case cLinkRateChange =>
      unfold exec execCLinkRateChange
      exact E.outOfReset (fun _ ht => E.changeCRate ht) h
    case silenceExpiry =>
      unfold exec execSilenceExpiry
      exact E.outOfReset (fun _ ht => E.expire (fun hb => E.silence hb ht) ht) h
    case grantExpiry =>
      unfold exec execGrantExpiry
      exact E.outOfReset (fun _ ht => E.expire (fun hb => E.expireGrant hb ht) ht) h
    case offerWindowExpiry =>
      unfold exec execOfferWindowExpiry
      exact E.outOfReset (fun _ ht => E.expire (fun hb => E.lapse hb ht) ht) h
    case offerRepeatExpiry =>
      unfold exec execOfferRepeatExpiry
      exact E.outOfReset (fun _ ht => E.expire (fun hb => E.repeatOffer hb ht) ht) h
    case dropDeadlineExpiry =>
      unfold exec execDropDeadlineExpiry
      exact E.outOfReset (fun _ ht => E.expire (fun hb => E.dropLate hb ht) ht) h
    case crossingTimerExpiry =>
      unfold exec execCrossingTimerExpiry
      exact E.outOfReset (fun _ ht => E.expire (fun hb => E.crossingOut hb ht) ht) h
    case carriedHoldExpiry =>
      unfold exec execCarriedHoldExpiry
      exact E.outOfReset (fun _ ht => E.expire (fun hb => E.carriedOut hb ht) ht) h
    case swapTimerExpiry =>
      unfold exec execSwapTimerExpiry
      exact E.outOfReset (fun _ ht => E.expire (fun _ => E.timeoutSwap ht) ht) h
    case overloadTimerExpiry =>
      unfold exec execOverloadTimerExpiry
      exact E.outOfReset (fun _ ht => E.expire (fun _ => E.shed _ ht) ht) h
    case meterSilenceExpiry =>
      unfold exec execMeterSilenceExpiry
      exact E.outOfReset (fun _ ht => E.expire (fun _ => E.feederSilent _ (E.meter _ _ ht)) ht) h
    case meterLostTimerExpiry =>
      unfold exec execMeterLostTimerExpiry
      exact E.outOfReset (fun _ ht => E.expire (fun _ => E.meterLostOut _ ht) ht) h
    case idleTimerExpiry =>
      unfold exec execIdleTimerExpiry
      exact E.outOfReset (fun _ ht => E.expire (fun _ => E.idleOut _ ht) ht) h
    case standbyTimerExpiry =>
      unfold exec execStandbyTimerExpiry
      exact E.outOfReset (fun _ ht => E.expire (fun _ => E.standbyOut _ ht) ht) h
    case raiseLimitExpiry =>
      unfold exec execRaiseLimitExpiry
      exact E.outOfReset (fun _ ht => E.expire (fun _ => E.raiseOut _ ht) ht) h
    case postTripCountEnd =>
      unfold exec execPostTripCountEnd
      exact E.outOfReset (fun _ ht => E.expire (fun _ => E.freezeRing _ ht) ht) h
    case resetPinAssertion =>
      unfold exec execResetPinAssertion
      exact ⟨_, rfl, E.body (s := s) (.of rfl) h⟩
    case marker l =>
      unfold exec execMarker
      have hl : l ≠ .m := fun e => by subst e; cases hs
      exact E.listening _ (fun _ ht => E.feedFor (fun f hu => E.receives hl f hu) _ _ (E.endLate _ ht)) h
    case hardReset => cases hw
    case smp => cases hs
    all_goals cases hr

/-! ### Samples -/

/-- A sample keeps what its changes of the sample memory and a trip keep. -/
theorem takeSample (E : Effects P) (hm : ∀ {t : State} (m : SampleMemory), P t → P { t with samples := m })
    (ht : ∀ {t : State} (f : FeederId), P t → P ((t.feederTrip f).startPostTrip f).evalSwap) (f : FeederId) (m : Sample) (h : P s) :
    P (s.takeSample f m) := by
  have counted : ∀ {t : State} p q, P t → P (t.countMissed f p q) := by
    intro t p q h
    unfold State.countMissed
    split
    · exact h
    · exact E.body (s := t) (.of rfl) h
  have written : ∀ {t : State}, P t → P (t.writeRing f m) := by
    intro t h
    unfold State.writeRing
    dsimp only
    split
    · split
      · exact E.report _ _ _ (E.ring _ (fun _ => rfl) (hm _ h))
      · exact E.ring _ (fun _ => rfl) (hm _ h)
    · exact h
  have stepped : ∀ {t : State} n, P t → P (t.actOnStep f n) := by
    intro t n h
    unfold State.actOnStep
    split
    · exact h
    · dsimp only
      split
      · exact E.ring _ (fun _ => rfl) (E.report _ _ _ h)
      · exact E.report _ _ _ h
  have lowered : ∀ {t : State}, P t → P (t.lowerCountdown f) := by
    intro t h
    unfold State.lowerCountdown
    split
    · split
      · exact E.freezeRing _ h
      · exact E.ring _ (fun _ => rfl) h
    · exact h
  have compared : ∀ {t : State} n, P t → P (t.compareOverload f n) := fun n h => E.fdr _ (fun _ => ⟨rfl, rfl, rfl, rfl, rfl⟩) h
  have told : ∀ {t : State}, P t → P (t.feederSample f m) := by
    intro t h
    unfold State.feederSample
    split
    · exact compared _ h
    · exact compared _ (E.feederOnline _ h)
    · exact ht _ h
    · exact ht _ h
    · exact h
    · exact h
  exact told (lowered (stepped _ (written (counted _ _ (E.meter _ _ h)))))

/-- The commands with which a sample may come keep what a sample keeps. -/
theorem exec_samples (E : Effects P) (hm : ∀ {t : State} f m, P t → P (t.takeSample f m)) {i : Instr} (hi : i.bringsSamples = true)
    (h : P s) : KeepsAll.Lands P (exec i s) := by
  have receives : ∀ {t : State} f, P t → P (t.receiveM f) := by
    intro t f h
    unfold State.receiveM
    split
    · exact hm _ _ (E.modLink _ _ h)
    · exact E.modLink _ _ h
  unfold Instr.bringsSamples at hi
  split at hi
  · unfold exec execSmp
    refine E.listening _ (fun _ ht => ?_) h
    split
    · exact hm _ _ (E.modLink _ _ (E.endRunt _ ht))
    · exact E.modLink _ _ (E.endRunt _ ht)
  · unfold exec execForeignFrame
    exact E.listening _ (fun _ ht => receives _ (E.endRunt _ ht)) h
  · unfold exec execCheckError
    exact E.listening _ (fun _ ht => E.feedFrame (l := .m) receives _ (E.endLate _ ht)) h
  · unfold exec execMarker
    exact E.listening _ (fun _ ht => E.feedFor (l := .m) receives _ _ (E.endLate _ ht)) h
  · cases hi

end Effects

/-! ### Tables and resets -/

/-- The writes of the tables and the hard reset bring a property. -/
structure Writes (P Q : State → Prop) : Prop where
  bank : ∀ {s : State} (k : BankId) (b : Bank), k ≠ s.active → s.swap = .none → P s → Q (s.setBank k b)
  reconfigured : ∀ {s : State} (f : FeederId) (k : FeederConfig), P s → Q (s.modFdr f (fun d => d.reconfigured k))
  classes : ∀ {s : State} (v : Vector ClassEntry 8), Q s → Q { s with classes := v }
  globals : ∀ {s : State} (g : Globals), Q s → Q { s with globals := g }
  rewritten : ∀ {s : State} (f : FeederId) (d : RingDesc), Q s → Q (s.modRing f (fun r => r.rewritten d))
  unexcluded : ∀ {s : State} (i : Slot), Q s → Q (s.clearExclusion i)
  poweredOn : ∀ {s : State} (a : Byte), Q s → Q (State.powerOn a s.stopLine s.samples s.fresh s.pending)

namespace Effects
variable {P Q : State → Prop} {s : State}

theorem writeSection (E : Effects Q) (A : Arrives P Q) (W : Writes P Q) (c : Caller) (b i : Byte) (e : SectionWire) (h : P s) :
    Q (s.writeSection c b i e) := by
  have hq := A.holds h
  unfold State.writeSection
  split
  · split
    · exact E.nak _ _ _ _ hq
    next ha =>
      split
      · exact E.nak _ _ _ _ hq
      next hp =>
        split
        · exact E.nak _ _ _ _ hq
        · exact E.ack _ (W.bank _ _ (by simpa using ha) (by simpa [State.swapPending] using hp) h)
  · exact E.nak _ _ _ _ hq

theorem writeGap (E : Effects Q) (A : Arrives P Q) (W : Writes P Q) (c : Caller) (b i : Byte) (e : GapWire) (h : P s) :
    Q (s.writeGap c b i e) := by
  have hq := A.holds h
  unfold State.writeGap
  split
  · split
    · exact E.nak _ _ _ _ hq
    next ha =>
      split
      · exact E.nak _ _ _ _ hq
      next hp =>
        split
        · exact E.nak _ _ _ _ hq
        · exact E.ack _ (W.bank _ _ (by simpa using ha) (by simpa [State.swapPending] using hp) h)
  · exact E.nak _ _ _ _ hq

theorem applyFeeder (E : Effects Q) (W : Writes P Q) (f : FeederId) (k : FeederConfig) (h : P s) : Q (s.applyFeeder f k) := by
  have hr : Q ((s.modFdr f (fun d => d.reconfigured k)).reportOver f) := by
    unfold State.reportOver
    split
    · exact E.report _ _ _ (W.reconfigured _ _ h)
    · exact W.reconfigured _ _ h
  unfold State.applyFeeder
  dsimp only
  split
  · exact E.arbitrate _ hr
  · exact hr

theorem writeFeeder (E : Effects Q) (A : Arrives P Q) (W : Writes P Q) (c : Caller) (i : Byte) (e : FeederWire) (h : P s) :
    Q (s.writeFeeder c i e) := by
  unfold State.writeFeeder
  split
  · exact E.nak _ _ _ _ (A.holds h)
  · split
    · exact E.nak _ _ _ _ (A.holds h)
    · exact E.ack _ (E.applyFeeder W _ _ h)

theorem writeClass (E : Effects Q) (W : Writes P Q) (c : Caller) (i : Byte) (e : ClassWire) (h : Q s) : Q (s.writeClass c i e) := by
  unfold State.writeClass
  split
  · exact E.nak _ _ _ _ h
  · split
    · exact E.nak _ _ _ _ h
    · exact E.ack _ (W.classes _ h)

theorem writeDescriptor (E : Effects Q) (W : Writes P Q) (c : Caller) (i : Byte) (e : RingWire) (h : Q s) :
    Q (s.writeDescriptor c i e) := by
  unfold State.writeDescriptor
  split
  · exact E.nak _ _ _ _ h
  · split
    · exact E.nak _ _ _ _ h
    · split
      · exact E.nak _ _ _ _ h
      · split
        · exact E.nak _ _ _ _ h
        · exact E.ack _ (W.rewritten _ _ h)

theorem changeExclusion (W : Writes P Q) (v : Nat) (h : Q s) : Q (s.changeExclusion v) := by
  unfold State.changeExclusion State.eachSlot
  split
  · exact h
  · next hv =>
    clear hv
    generalize allSlots = l
    induction l generalizing s with
    | nil => exact h
    | cons i l ih => exact ih (W.unexcluded i h)

theorem applyGlobal (E : Effects Q) (W : Writes P Q) (i v : Nat) (h : Q s) : Q (s.applyGlobal i v) := by
  have hg : Q { s with globals := s.globals.write i v } := W.globals _ h
  unfold State.applyGlobal
  dsimp only
  split
  · exact E.body (s := { s with globals := s.globals.write i v }) (.of rfl) hg
  · split
    · exact W.globals _ (changeExclusion W v h)
    · split
      · exact E.body (SameBody.evalAlert _) hg
      · exact hg

theorem writeGlobal (E : Effects Q) (W : Writes P Q) (c : Caller) (i : Byte) (v : Word) (h : Q s) : Q (s.writeGlobal c i v) := by
  unfold State.writeGlobal
  split
  · exact E.nak _ _ _ _ h
  · split
    · exact E.ack _ (E.applyGlobal W _ _ h)
    · exact E.nak _ _ _ _ h

/-- The writes of tables and the hard reset end in a next state and keep the property. -/
theorem exec_writes (E : Effects Q) (A : Arrives P Q) (W : Writes P Q) {i : Instr} (hi : i.writesTables = true) (h : P s) :
    KeepsAll.Lands Q (exec i s) := by
  unfold Instr.writesTables at hi
  split at hi
  · unfold exec execHardReset
    exact ⟨_, rfl, E.stopIfAsserted (E.report _ _ _ (W.poweredOn _ (A.holds h)))⟩
  · exact takes A _ (fun ht => E.writeSection A W _ _ _ _ ht) h
  · exact takes A _ (fun ht => E.writeGap A W _ _ _ _ ht) h
  · exact takes A _ (fun ht => E.writeFeeder A W _ _ _ ht) h
  · exact takes A _ (fun ht => E.writeClass W _ _ _ (A.holds ht)) h
  · exact takes A _ (fun ht => E.writeDescriptor W _ _ _ (A.holds ht)) h
  · exact takes A _ (fun ht => E.writeGlobal W _ _ _ (A.holds ht)) h
  · cases hi

/-! ### Every step -/

/-- Every command keeps what the effects, the writes and the samples keep. -/
theorem exec_all (E : Effects Q) (A : Arrives P Q) (B : Begins P Q) (W : Writes P Q)
    (hm : ∀ {t : State} f m, Q t → Q (t.takeSample f m)) (i : Instr) (h : P s) : KeepsAll.Lands Q (exec i s) := by
  cases hw : i.writesTables with
  | true => exact E.exec_writes A W hw h
  | false =>
    cases hs : i.bringsSamples with
    | true => exact E.exec_samples hm hs (A.holds h)
    | false => exact E.exec_lands A i (fun _ => B) hw hs h

/-- Every step keeps what the commands and a millisecond keep. -/
theorem step_keeps (E : Effects Q) (A : Arrives P Q) (B : Begins P Q) (W : Writes P Q)
    (hm : ∀ {t : State} f m, Q t → Q (t.takeSample f m)) (ht : ∀ {t : State}, Q t → Q t.tick) {t : State} (h : P s)
    (hs : step s = .next t) : Q t := by
  have lands : KeepsAll.Lands Q (step s) := by
    unfold step
    split
    · unfold State.idle
      split
      · exact ⟨_, rfl, A.holds h⟩
      · split
        · exact E.exec_all A B W hm _ h
        · exact ⟨_, rfl, ht (A.holds h)⟩
    · exact E.exec_all A B W hm _ (A.body (s := s) (.of rfl) h)
  obtain ⟨u, hu, hp⟩ := lands
  rw [hs] at hu
  exact Host.Outcome.next.inj hu ▸ hp

end Effects
end Sys2Proof.Machine
end

section
/-! PROOFS. What goes on in the operations of requests, reports, gaps, forced swaps, orders and trips. -/

namespace Sys2Proof.Machine
open Sys2Proof

namespace Onward
variable {s : State}

section
variable {s0 : State} (h : Onward s0 s)
include h

/-! ### Admission -/

theorem setRequest (i : Slot) (t : Terms) (l : Level) : Onward s0 (s.setRequest i t l) :=
  h.modCtx _ _

theorem grantDirect (i : Slot) (f : FeederId) (x : SectionId) (e : Timer) : Onward s0 (s.grantDirect i f x e) :=
  ((h.setHold _ _ (spares_candidate _ _ _ _)).joinOrder _ _).modCtx _ _

theorem acceptRequest (i : Slot) (t : Terms) (l : Level) (x : SectionId) (f : FeederId) : Onward s0 (s.acceptRequest i t l x f) := by
  have hw := (h.setRequest i t l).wake x
  unfold State.acceptRequest
  dsimp only
  split
  · exact (hw.grantDirect _ _ _ _).sendGrt _ _
  · exact ((hw.queueAt _ _ _ _ _).arbitrate _).deferIfQueued _ _

theorem requestFromTracked (i : Slot) (t : Terms) : Onward s0 (s.requestFromTracked i t) := by
  unfold State.requestFromTracked
  split
  · exact h.answer _ _ _
  · split
    · exact h.answer _ _ _
    · split
      · exact h.answer _ _ _
      · exact h.acceptRequest _ _ _ _ _

theorem updateRequest (i : Slot) (t : Terms) : Onward s0 (s.updateRequest i t) := by
  unfold State.updateRequest
  split
  · exact h
  · split
    · exact ((h.giveUp _ _).answer _ _ _).arbitrate _
    · exact ((h.setRequest _ _ _).arbitrate _).deferIfQueued _ _

theorem declineAndAsk (i : Slot) (t : Terms) : Onward s0 (s.declineAndAsk i t) := by
  unfold State.declineAndAsk
  split
  · exact h
  · dsimp only
    split
    · exact ((h.giveUp _ _).answer _ _ _).arbitrate _
    · exact ((((h.giveUp _ _).setRequest _ _ _).queueAt _ _ _ _ _).arbitrate _).deferIfQueued _ _

theorem settleExpiry (i : Slot) (f : FeederId) (n : Nat) : Onward s0 (s.settleExpiry i f n) := by
  unfold State.settleExpiry
  split
  · exact h.modCtx _ _
  · exact h

theorem renewGrant (i : Slot) (g : Holding) (u : Terms) (hg : (s.ctx i).hold = some g) : Onward s0 (s.renewGrant i g u) := by
  have h1 := h.setRequest i u (s.effectiveLevel i)
  have hg1 : ((s.setRequest i u (s.effectiveLevel i)).ctx i).hold = some g := by
    unfold State.setRequest
    rw [State.modCtx_ctx_self]
    exact hg
  have ht := ((h1.setHold i _ (spares_renewed u.requested hg1)).settleExpiry i g.feeder u.hold).sendGrt i u.tag
  unfold State.renewGrant
  dsimp only
  split
  · exact ht.arbitrate _
  · exact ht

theorem renew (i : Slot) (t : Terms) : Onward s0 (s.renew i t) := by
  unfold State.renew
  split
  · exact h
  next g hg =>
    split
    · exact h.answer _ _ _
    · split
      · exact h.answer _ _ _
      · exact h.renewGrant _ _ _ hg

theorem takeDrq (i : Slot) (t : Terms) : Onward s0 (s.takeDrq i t) := by
  unfold State.takeDrq
  dsimp only
  have h1 : Onward s0 (s.modCtx i (fun c => { c with cls := s.resolveClass c.address })) := h.modCtx _ _
  split
  · split
    · exact h1.requestFromTracked _ _
    · split
      · exact h1.sendDfr _ _
      · exact h1.updateRequest _ _
    · split
      · exact h1.sendOfr _ _
      · exact h1.declineAndAsk _ _
    · split
      · exact h1.sendGrt _ _
      · exact h1.renew _ _
    · exact h1.answer _ _ _
    · exact h1.answer _ _ _
    · exact h1.answer _ _ _
    · exact h1
  · exact h1.answer _ _ _

theorem takeAcc (i : Slot) (g : Byte) : Onward s0 (s.takeAcc i g) := by
  unfold State.takeAcc
  dsimp only
  split
  · split
    · exact ((h.joinOrder _ _).modCtx _ _).sendGrt _ _
    · exact h.sendGrt _ _
    · exact h.answer _ _ _
  · exact h.answer _ _ _

theorem takeRel (i : Slot) (g : Byte) : Onward s0 (s.takeRel i g) := by
  unfold State.takeRel
  split
  · split
    · exact (h.modCtx _ _).endHolding _ _
    · exact h.endHolding _ _
    · exact h.endHolding _ _
    · exact h.endDrop _
    · exact h.endHolding _ _
    · exact h.answer _ _ _
    · exact h.answer _ _ _
    · exact h
  · exact h.answer _ _ _

theorem reportQueued (i : Slot) : Onward s0 (s.reportQueued i) := by
  unfold State.reportQueued
  split
  · exact h
  · split
    · exact h
    · dsimp only
      split
      · exact ((h.rehome _).arbitrateOn _).deferIfQueued _ _
      · exact (h.rehome _).arbitrateOn _

theorem reportOffered (i : Slot) : Onward s0 (s.reportOffered i) := by
  unfold State.reportOffered
  split
  · exact h
  · split
    · exact h
    · dsimp only
      split
      · exact ((h.giveUp _ _).refuse _ _).arbitrate _
      · exact ((((h.giveUp _ _).queueAt _ _ _ _ _).wake _).arbitrateOn _).deferIfQueued _ _

theorem moveGrant (i : Slot) (g : Holding) (x : SectionId) (hg : (s.ctx i).hold = some g) : Onward s0 (s.moveGrant i g x) := by
  have ht := (h.setHold i _ (spares_less (a := min g.amount (s.sectionRoom x)) (x := x) hg (Nat.min_le_left _ _)
    (Nat.min_le_right _ _))).sendGrt i (s.ctx i).tagByte
  unfold State.moveGrant
  dsimp only
  split
  · exact ht.arbitrate _
  · exact ht

theorem reportDrawing (i : Slot) : Onward s0 (s.reportDrawing i) := by
  unfold State.reportDrawing
  split
  · exact h
  next g hg =>
    split
    · split
      · exact h
      · split
        · exact h.moveGrant _ _ _ hg
        · exact h.startDrop _ _ _
    · exact h.startDrop _ _ _
    · exact h

theorem reportDropping (i : Slot) : Onward s0 (s.reportDropping i) := by
  unfold State.reportDropping
  split
  · split
    · exact h.setWithdraw _ _ _
    · exact h
  · exact h.endDrop _

theorem admissionReport (i : Slot) : Onward s0 (s.admissionReport i) := by
  unfold State.admissionReport
  split
  · exact h.reportQueued _
  · exact h.reportOffered _
  · exact h.reportDrawing _
  · exact h.reportDropping _
  all_goals exact h

/-! ### Gaps -/

theorem tryReserve (i : Slot) : Onward s0 (s.tryReserve i) := by
  unfold State.tryReserve
  split
  · exact h
  next x ht =>
    split
    · exact h
    next y f hp =>
      split
      next hc =>
        unfold State.canReserve at hc
        rw [Bool.and_eq_true] at hc
        refine h.makeReservation _ _ hc.2 (fun z hz => ?_)
        rw [Keeps.placed_sect hp]
        exact Option.some.inj (hz.symm.trans ht)
      next => exact h.addEntry _ _ _ _ _

theorem approachGap (i : Slot) (g : GapId) (hd : Holding) : Onward s0 (s.approachGap i g hd) :=
  ((((h.setGap _ _).startDrop _ _ _).wake _).tryReserve _).arbitrateOn _

theorem reportArc (i : Slot) : Onward s0 (s.reportArc i) :=
  (h.report _ _ _).setGap _ _ (spares_sameGap _ _ rfl)

theorem arcTest (i : Slot) : Onward s0 (s.arcTest i) := by
  unfold State.arcTest
  split
  · exact (h.reportArc _).strike _
  · exact h

theorem beginJump (i : Slot) (g : GapId) (hd : Holding) : Onward s0 (s.beginJump i g hd) :=
  ((((h.setGap _ _).enterCrossing _).setWithdraw _ _ _).wake _).tryReserve _

theorem jumpGap (i : Slot) (g : GapId) (hd : Holding) : Onward s0 (s.jumpGap i g hd) := by
  unfold State.jumpGap
  dsimp only
  split
  · exact (((h.beginJump _ _ _).reportArc _).strikeQuiet _).arbitrateOn _
  · exact (h.beginJump _ _ _).arbitrateOn _

theorem askForCrossing (i : Slot) : Onward s0 (s.askForCrossing i) :=
  h.modCtx _ _

theorem exitHeld (i : Slot) : Onward s0 (s.exitHeld i) :=
  (h.giveUp _ _).refuse _ _

theorem exitQueued (i : Slot) (f : FeederId) (x : SectionId) : Onward s0 (s.exitQueued i f x) := by
  unfold State.exitQueued
  dsimp only
  exact ((h.giveUp _ _).queueAt _ _ _ _ _).wake _

theorem exitGranted (i : Slot) (r : Holding) (hr : (s.ctx i).gap.reserved = some r) : Onward s0 (s.exitGranted i r) := by
  have hh : Onward s0 ((s.setHold i (some r)).setGap i GapFields.clear) :=
    h.holders (HoldersOnly.trans (.setHold _ _ _) (.setGap _ _ _))
      (fun f => by rw [State.setGap_record, State.setHold_record]) (spares_turnGrant hr)
  exact ((hh.joinOrder _ _).modCtx _ _).sendGrt _ _

theorem exitReserved (i : Slot) (r : Holding) (hr : (s.ctx i).gap.reserved = some r) : Onward s0 (s.exitReserved i r) := by
  unfold State.exitReserved
  split
  · exact h.exitGranted _ _ hr
  · split
    · exact (h.exitHeld _).arbitrate _
    · exact (((h.askForCrossing _).exitQueued _ _ _).arbitrate _).deferIfQueued _ _

theorem exitEntry (i : Slot) (m : Membership) : Onward s0 (s.exitEntry i m) := by
  unfold State.exitEntry
  split
  · exact (h.exitHeld _).arbitrate _
  · exact (((((h.askForCrossing _).setGap _ _).modCtxTold _ _).wake _).arbitrate _).deferIfQueued _ _

theorem exitEmpty (i : Slot) (x : SectionId) : Onward s0 (s.exitEmpty i x) := by
  unfold State.exitEmpty
  split
  · exact (h.giveUp _ _).refuse _ _
  · split
    · exact h.exitHeld _
    · exact (((h.askForCrossing _).exitQueued _ _ _).arbitrate _).deferIfQueued _ _

theorem exitTarget (i : Slot) (x : SectionId) : Onward s0 (s.exitTarget i x) := by
  unfold State.exitTarget
  split
  next hr => exact h.exitReserved _ _ hr
  next => exact h.exitEntry _ _
  next => exact h.exitEmpty _ _

theorem decideOrigin (i : Slot) (x : SectionId) : Onward s0 (s.decideOrigin i x) := by
  unfold State.decideOrigin
  split
  · exact (h.giveUp _ _).refuse _ _
  · split
    · exact ((h.setGap _ _).grantDirect _ _ _ _).sendGrt _ _
    · split
      · exact h.exitHeld _
      · exact ((h.exitQueued _ _ _).arbitrate _).deferIfQueued _ _

theorem reversal (i : Slot) (x : SectionId) : Onward s0 (s.reversal i x) :=
  ((((h.dropEntry _).setGap _ _).arbitrateOn _).askForCrossing _).decideOrigin _ _

theorem exitInto (i : Slot) (e : GapEntry) (t x : SectionId) : Onward s0 (s.exitInto i e t x) := by
  unfold State.exitInto
  split
  · exact h.exitTarget _ _
  · split
    · exact h.reversal _ _
    · exact h.endHolding _ _

theorem reportCrossing (i : Slot) : Onward s0 (s.reportCrossing i) := by
  unfold State.reportCrossing
  dsimp only
  split
  · exact h.arcTest _
  · split
    · exact h
    · exact h.exitInto _ _ _ _
  · exact h.endHolding _ _

theorem gapDrawing (i : Slot) : Onward s0 (s.gapDrawing i) := by
  unfold State.gapDrawing
  dsimp only
  split
  · split
    · exact h
    · exact h.jumpGap _ _ _
  · exact h.approachGap _ _ _
  · exact h

theorem gapReport (i : Slot) : Onward s0 (s.gapReport i) := by
  unfold State.gapReport
  split
  · exact h.gapDrawing _
  · exact h.arcTest _
  · exact h.reportCrossing _
  all_goals exact h

/-! ### The swap -/

theorem reconfig (i : Slot) : Onward s0 (s.reconfig i) := by
  unfold State.reconfig
  split
  · exact h.startDrop _ _ _
  · exact (h.giveUp _ _).refuse _ _
  · split
    · exact h.redirectDrop _ _
    · exact h
  · exact h.withdrawNow _ _ _
  all_goals exact h

theorem reconfigReport (i : Slot) : Onward s0 (s.reconfigReport i) := by
  unfold State.reconfigReport
  split
  · exact (h.reconfig _).arbitrateOn _
  · exact h

theorem reconfigAll : Onward s0 s.reconfigAll := by
  unfold State.reconfigAll
  refine (eachSlot (fun t i ht => ?_) h).arbitrateOn _
  split
  · exact ht.reconfig _
  · exact ht

/-! ### Trucks -/

theorem psaWithout (t : Byte) (p : Report) (r : Resolution) : Onward s0 (s.psaWithout t p r) := by
  unfold State.psaWithout
  split
  · exact h.offerC _
  · exact h

theorem psaFor (i : Slot) (p : Report) (r : Resolution) : Onward s0 (s.psaFor i p r) := by
  unfold State.psaFor
  dsimp only
  split
  · exact h.offerC _
  · exact h

theorem heard (i : Slot) : Onward s0 (s.heard i) :=
  h.modCtx _ _

theorem settle (i : Slot) (p : Report) (r : Resolution) : Onward s0 (s.settle i p r) :=
  h.modCtx _ _

theorem countOverdraw (i : Slot) : Onward s0 (s.countOverdraw i) := by
  unfold State.countOverdraw
  dsimp only
  split
  · split
    · split
      · exact ((h.report _ _ _).modCtx _ _).strike _
      · exact h.modCtx _ _
    · exact h.modCtx _ _
  · exact h

theorem actOnReport (i : Slot) (p : Report) (r : Resolution) : Onward s0 (s.actOnReport i p r) :=
  ((((((h.countOverdraw _).admissionReport _).gapReport _).reconfigReport _).approachWake _).psaFor _ _ _).evalSwap

theorem takeReport (i : Slot) (p : Report) : Onward s0 (s.takeReport i p) := by
  unfold State.takeReport
  dsimp only
  split
  · exact ((((h.heard _).settle _ _ _).freeCtx _).psaWithout _ _ _).evalSwap
  · exact ((h.heard _).settle _ _ _).actOnReport _ _ _

theorem admitTruck (i : Slot) (t : Byte) (p : Report) (r : Resolution) : Onward s0 (s.admitTruck i t p r) :=
  ((((h.freeQuiet _).setCtx _ _).heard _).settle _ _ _).actOnReport _ _ _

theorem takeStranger (t : Byte) (p : Report) : Onward s0 (s.takeStranger t p) := by
  unfold State.takeStranger
  dsimp only
  split
  · exact (h.psaWithout _ _ _).evalSwap
  · split
    · exact h.admitTruck _ _ _ _
    · exact (h.freeCtx _).admitTruck _ _ _ _
    · exact (((h.refuseTruck _ _ _).report _ _ _).psaWithout _ _ _).evalSwap

theorem dispatchPsn (t : Byte) (p : Report) : Onward s0 (s.dispatchPsn t p) := by
  unfold State.dispatchPsn
  split
  · exact h.takeReport _ _
  · exact h.takeStranger _ _

theorem dispatchDrq (t : Byte) (u : Terms) : Onward s0 (s.dispatchDrq t u) := by
  unfold State.dispatchDrq
  split
  · exact ((h.heard _).takeDrq _ _).evalSwap
  · exact h.refuseTruck _ _ _

theorem dispatchAcc (t g : Byte) : Onward s0 (s.dispatchAcc t g) := by
  unfold State.dispatchAcc
  split
  · exact ((h.heard _).takeAcc _ _).evalSwap
  · exact h.refuseTruck _ _ _

theorem dispatchRel (t g : Byte) : Onward s0 (s.dispatchRel t g) := by
  unfold State.dispatchRel
  split
  · exact ((h.heard _).takeRel _ _).evalSwap
  · exact h.refuseTruck _ _ _

theorem actOnSilence (i : Slot) : Onward s0 (s.actOnSilence i) := by
  unfold State.actOnSilence
  split
  · exact ((h.withdrawNow _ _ _).arbitrateOn _).strike _
  · exact h.endHolding _ _
  · exact h.endHolding _ _
  · exact h
  · exact h
  · split
    · exact h.freeCtx _
    · exact h
  · split
    · exact h.freeCtx _
    · exact h
  · exact h

theorem silence (i : Slot) : Onward s0 (s.silence i) :=
  ((h.modCtx _ _).actOnSilence _).evalSwap

theorem orderLower (i : Slot) : Onward s0 (s.orderLower i) := by
  unfold State.orderLower
  split
  · exact h.startDrop _ _ _
  · split
    · exact h.setWithdraw _ _ _
    · exact (h.redirectDrop _ _).arbitrateOn _
  · exact (h.withdrawNow _ _ _).arbitrateOn _
  · exact (h.withdrawNow _ _ _).arbitrateOn _
  · exact (h.withdrawNow _ _ _).arbitrateOn _
  · exact h.setWithdraw _ _ _
  · exact h.setWithdraw _ _ _
  · exact h

theorem setHoldFlag (i : Slot) (b : Bool) : Onward s0 (s.setHoldFlag i b) :=
  h.modCtx _ _

theorem endHeld (i : Slot) : Onward s0 (s.endHeld i) :=
  ((h.giveUp _ _).refuse _ _).arbitrateOn _

theorem orderHold (i : Slot) : Onward s0 (s.orderHold i) := by
  unfold State.orderHold
  split
  · exact h
  · split
    · exact (h.setHoldFlag _ _).endHeld _
    · exact (h.setHoldFlag _ _).endHeld _
    · exact h.setHoldFlag _ _

theorem orderClearFault (i : Slot) : Onward s0 (s.orderClearFault i) :=
  h.modCtx _ _

theorem clearExclusion (i : Slot) : Onward s0 (s.clearExclusion i) := by
  unfold State.clearExclusion
  split
  · exact h
  · exact h.modCtx _ _

/-! ### Feeders -/

theorem stripFeeder (i : Slot) (f : FeederId) : Onward s0 (s.stripFeeder i f) := by
  unfold State.stripFeeder
  dsimp only
  split <;> split
  · exact (h.setGap _ _).dropEntry _
  · exact h.setGap _ _
  · exact h.dropEntry _
  · exact h

theorem tripDrop (i : Slot) (r : Reason) : Onward s0 (s.tripDrop i r) := by
  unfold State.tripDrop
  split
  · exact (h.enterCrossing _).setWithdraw _ _ _
  · exact h.withdrawNow _ _ _
  · exact h.withdrawNow _ _ _

theorem tripContext (f : FeederId) (r : Reason) (i : Slot) : Onward s0 (State.tripContext f r s i) := by
  unfold State.tripContext
  split
  · split
    · exact h.withdrawNow _ _ _
    · exact h
  · refine stripFeeder ?_ _ _
    split
    · exact h.tripDrop _ _
    · exact h
  · split
    · exact (h.giveUp _ _).refuse _ _
    · exact h
  · split
    · exact (h.giveUp _ _).refuse _ _
    · exact h
  · exact h.stripFeeder _ _
  all_goals exact h

theorem tripConsequences (f : FeederId) (r : Reason) : Onward s0 (s.tripConsequences f r) :=
  ((eachSlot (fun _ i k => k.tripContext f r i) h).modFdr _ _).arbitrateOn _

theorem stopFeeder (f : FeederId) (st : FeederState) : Onward s0 (s.stopFeeder f st) :=
  h.modFdr _ _

theorem feederOffline (f : FeederId) : Onward s0 (s.feederOffline f) := by
  unfold State.feederOffline
  split
  · exact h
  · exact (((h.stopFeeder _ _).tripConsequences _ _).sectionsDown _).evalSwap

theorem feederLost (f : FeederId) : Onward s0 (s.feederLost f) :=
  ((((h.stopFeeder _ _).report _ _ _).tripConsequences _ _).sectionsDown _).evalSwap

theorem feederTrip (f : FeederId) : Onward s0 (s.feederTrip f) :=
  (((h.stopFeeder _ _).report _ _ _).tripConsequences _ _).sectionsDown _

theorem feederSilent (f : FeederId) : Onward s0 (s.feederSilent f) := by
  unfold State.feederSilent
  split
  · exact ((h.modFdr _ _).report _ _ _).sectionsSuspect _
  · exact h

theorem feederOnline (f : FeederId) : Onward s0 (s.feederOnline f) :=
  ((h.modFdr _ _).sectionsBack _).arbitrate _

theorem compareOverload (f : FeederId) (n : Nat) : Onward s0 (s.compareOverload f n) :=
  h.modFdr _ _

theorem restartOverload (f : FeederId) : Onward s0 (s.restartOverload f) :=
  h.modFdr _ _

end

end Onward
end Sys2Proof.Machine
end

section
/-! PROOFS. A pending swap keeps a context in conflict with it from step to step, and the tables and the sample memory stand. -/

namespace Sys2Proof.Machine
open Sys2Proof

/-! ### What leaves a swap settled (R12) -/

/-- The evaluation of a swap leaves it settled. -/
theorem State.evalSwap_settles (s : State) : s.evalSwap.swapSettled := by
  unfold State.evalSwap
  split
  · exact .inl ((Onward.completed s).swap_none rfl).1
  · next h =>
    by_cases hn : s.swap = .none
    · exact .inl hn
    · right
      have hp : s.swapPending = true := by simpa [State.swapPending] using hn
      rw [hp, Bool.true_and, beq_iff_eq, State.conflicts, List.length_eq_zero_iff, List.filter_eq_nil_iff] at h
      simpa [allSlots] using h

/-- A conflict that stays a conflict: the context goes on to drop or to cross, or its state, its grant or offer and its last
chainage stand. -/
def Context.StaysHeld (c d : Context) : Prop :=
  d.state = .dropping ∨ d.state = .crossing ∨ d.state = c.state ∧ d.hold = c.hold ∧ d.pos.chainage = c.pos.chainage

/-- Where every context in conflict stays so a settled swap stays settled. -/
theorem State.swapSettled_of {s t : State} (h : s.swapSettled) (hs : t.swap = s.swap) (ha : t.active = s.active) (h1 : t.bankA = s.bankA)
    (h2 : t.bankB = s.bankB) (hc : ∀ i, s.inConflict i = true → (s.ctx i).StaysHeld (t.ctx i)) : t.swapSettled := by
  rcases h with h | ⟨i, hi⟩
  · exact .inl (hs.trans h)
  · by_cases hn : s.swap = .none
    · exact .inl (hs.trans hn)
    right
    refine ⟨i, ?_⟩
    have hp : t.swapPending = true := by unfold State.swapPending; rw [hs]; simpa using hn
    have hb : t.shadowBank = s.shadowBank := by
      unfold State.shadowBank State.bank
      rw [ha, h1, h2]
    rcases hc i hi with hd | hd | ⟨e1, e2, e3⟩
    · unfold State.inConflict; rw [hd]; exact hp
    · unfold State.inConflict; rw [hd]; exact hp
    · unfold State.inConflict State.wouldConflict State.shadowAgrees State.swapPending at hi ⊢
      rw [e1, e2, e3, hb, hs]
      exact hi

/-- Where the contexts and the map stand a settled swap stays settled. -/
theorem State.swapSettled_same {s t : State} (h : s.swapSettled) (hs : t.swap = s.swap) (ha : t.active = s.active)
    (h1 : t.bankA = s.bankA) (h2 : t.bankB = s.bankB) (hc : t.contexts = s.contexts) : t.swapSettled :=
  State.swapSettled_of h hs ha h1 h2 fun i _ => .inr (.inr (by simp only [State.ctx, hc, and_self]))

theorem State.not_waiting_of_inConflict {s : State} {i : Slot} (hi : s.inConflict i = true) :
    (s.ctx i).state = .crossing ∨ (s.ctx i).waits = false := by
  unfold State.inConflict at hi
  unfold Context.waits
  cases hs : (s.ctx i).state <;> simp [hs] at hi ⊢

/-- Arbitration takes no context out of a conflict. -/
theorem State.swapSettled_arbitrate {s : State} (h : s.swapSettled) (f : FeederId) : (s.arbitrate f).swapSettled := by
  have hs := Served.arbitrate s f
  refine State.swapSettled_of h (by rw [hs.rest]) (by rw [hs.rest]) (by rw [hs.rest]) (by rw [hs.rest]) fun i hi => ?_
  rcases State.not_waiting_of_inConflict hi with hc | hw
  · exact .inr (.inl (hs.crossing i hc))
  · rw [hs.others i hw]
    exact .inr (.inr ⟨rfl, rfl, rfl⟩)

/-- A drop begun is in conflict with the swap as the grant was. -/
theorem State.swapSettled_startDrop {s : State} (h : s.swapSettled) (i : Slot) (r : Reason) (n : Nat) : (s.startDrop i r n).swapSettled := by
  refine State.swapSettled_of h rfl rfl rfl rfl fun j _ => ?_
  rw [State.startDrop_ctx]
  split
  · exact .inl rfl
  · exact .inr (.inr ⟨rfl, rfl, rfl⟩)

/-- New gap fields leave a settled swap settled. -/
theorem State.swapSettled_setGap {s : State} (h : s.swapSettled) (i : Slot) (g : GapFields) : (s.setGap i g).swapSettled := by
  have hs := HoldersOnly.setGap s i g
  refine State.swapSettled_of h (by rw [hs.rest]) (by rw [hs.rest]) (by rw [hs.rest]) (by rw [hs.rest]) fun j _ => ?_
  rw [State.setGap_ctx]
  split
  · next e => subst e; exact .inr (.inr ⟨rfl, rfl, rfl⟩)
  · exact .inr (.inr ⟨rfl, rfl, rfl⟩)

/-- The end of an exclusion leaves a drop a drop, and takes no other context out of a conflict. -/
theorem State.swapSettled_unfaulted {s : State} (h : s.swapSettled) (i : Slot) {g : Context → Context}
    (hg : ∀ c, (g c).state = c.unfaulted.state ∧ (g c).hold = c.hold ∧ (g c).pos = c.pos) : (s.modCtx i g).swapSettled := by
  refine State.swapSettled_of h rfl rfl rfl rfl fun j hj => ?_
  by_cases e : i = j
  · subst e
    obtain ⟨h1, h2, h3⟩ := hg (s.ctx i)
    rw [State.modCtx_ctx_self]
    refine .inr (.inr ⟨h1.trans ?_, h2, congrArg Position.chainage h3⟩)
    unfold Context.unfaulted
    cases hs : (s.ctx i).state
    case faulted => unfold State.inConflict at hj; rw [hs] at hj; cases hj
    all_goals simp [hs]
  · rw [State.modCtx_ctx_other _ _ e]
    exact .inr (.inr ⟨rfl, rfl, rfl⟩)

theorem Context.unfaulted_rest (c : Context) : c.unfaulted.hold = c.hold ∧ c.unfaulted.pos = c.pos := by
  unfold Context.unfaulted
  split <;> exact ⟨rfl, rfl⟩

/-! ### Every effect -/

theorem State.actOnReport_settles (s : State) (i : Slot) (p : Report) (r : Resolution) : (s.actOnReport i p r).swapSettled :=
  State.evalSwap_settles _

theorem State.lapse_settled {s : State} (h : s.swapSettled) (i : Slot) : (s.lapse i).swapSettled := by
  unfold State.lapse
  dsimp only
  split
  · exact State.evalSwap_settles _
  · exact State.swapSettled_modCtx h ⟨rfl, rfl, rfl⟩

theorem State.swapSettled_sendNormal {s : State} (h : s.swapSettled) (f : Frame) : (s.sendNormal f).swapSettled :=
  State.swapSettled_same h (by simp) (by simp) (by simp) (by simp) (by simp)

theorem State.repeatOffer_settled {s : State} (h : s.swapSettled) (i : Slot) : (s.repeatOffer i).swapSettled := by
  unfold State.repeatOffer
  split
  · exact State.lapse_settled h i
  · split
    · have hm := State.swapSettled_modCtx (s := s) h (i := i)
        (g := fun c => { c with repeatCount := min 15 (c.repeatCount + 1), offerRepeat := quarters s.globals.offerRepeat }) ⟨rfl, rfl, rfl⟩
      unfold State.sendOfr
      dsimp only
      split
      · exact hm
      · exact State.swapSettled_sendNormal hm _
    · exact State.swapSettled_modCtx h ⟨rfl, rfl, rfl⟩

theorem State.shed_settled {s : State} (h : s.swapSettled) (f : FeederId) : (s.shed f).swapSettled := by
  unfold State.shed
  split
  · next i _ =>
    exact State.swapSettled_same (s := s.startDrop i .shed s.globals.shedDrop) (State.swapSettled_startDrop h i _ _)
      (by simp [State.restartOverload, State.countShed]) (by simp [State.restartOverload, State.countShed])
      (by simp [State.restartOverload, State.countShed]) (by simp [State.restartOverload, State.countShed])
      (by simp [State.restartOverload, State.countShed])
  · exact State.swapSettled_same h (by simp [State.restartOverload]) (by simp [State.restartOverload]) (by simp [State.restartOverload])
      (by simp [State.restartOverload]) (by simp [State.restartOverload])

theorem effects_swapSettled : Effects State.swapSettled where
  body := fun b h => State.swapSettled_same h b.swap b.active b.bankA b.bankB b.contexts
  sec := fun _ _ h => h
  ring := fun _ _ _ h => h
  meter := fun _ _ h => h
  fdr := fun _ _ _ h => h
  admissionSet := fun _ h => h
  psn := fun {s} truck p h => by
    unfold State.dispatchPsn
    split
    · unfold State.takeReport
      dsimp only
      split
      · exact State.evalSwap_settles _
      · exact State.actOnReport_settles _ _ _ _
    · unfold State.takeStranger
      dsimp only
      split
      · exact State.evalSwap_settles _
      · split
        · exact State.actOnReport_settles _ _ _ _
        · exact State.actOnReport_settles _ _ _ _
        · exact State.evalSwap_settles _
  drq := fun {s} truck u h => by
    unfold State.dispatchDrq
    split
    · exact State.evalSwap_settles _
    · exact State.swapSettled_sendNormal h _
  acc := fun {s} truck tag h => by
    unfold State.dispatchAcc
    split
    · exact State.evalSwap_settles _
    · exact State.swapSettled_sendNormal h _
  rel := fun {s} truck tag h => by
    unfold State.dispatchRel
    split
    · exact State.evalSwap_settles _
    · exact State.swapSettled_sendNormal h _
  heard := fun _ h => State.swapSettled_modCtx h ⟨rfl, rfl, rfl⟩
  sst := fun _ _ _ => State.evalSwap_settles _
  arbitrate := fun f h => State.swapSettled_arbitrate h f
  abandonSwap := fun _ => .inl (((Onward.refl _).arbitrateAll).swap_none rfl).1
  timeoutSwap := fun _ => .inl (((Onward.refl _).report _ _ _ |>.arbitrateAll).swap_none rfl).1
  isolate := fun _ _ => State.evalSwap_settles _
  offline := fun {s} f h => by
    unfold State.feederOffline
    split
    · exact h
    · exact State.evalSwap_settles _
  lost := fun _ _ => State.evalSwap_settles _
  lower := fun _ _ => State.evalSwap_settles _
  hold := fun _ _ => State.evalSwap_settles _
  unhold := fun _ h => State.swapSettled_modCtx h ⟨rfl, rfl, rfl⟩
  clearFault := fun _ h => State.swapSettled_unfaulted h _ fun c => ⟨rfl, c.unfaulted_rest⟩
  evict := fun _ => State.evalSwap_settles _
  stop := fun _ _ => State.evalSwap_settles _
  restart := fun _ => .inl rfl
  withdrawn := fun _ h => State.swapSettled_modCtx h ⟨rfl, rfl, rfl⟩
  silence := fun _ _ => State.evalSwap_settles _
  expireGrant := fun {s i} _ h => by
    unfold State.expireGrant
    split
    · exact State.swapSettled_startDrop h i _ _
    · exact State.swapSettled_modCtx h ⟨rfl, rfl, rfl⟩
  lapse := fun {s i} _ h => State.lapse_settled h i
  repeatOffer := fun {s i} _ h => State.repeatOffer_settled h i
  dropLate := fun {s i} _ h => by
    unfold State.dropLate
    split
    · exact State.evalSwap_settles _
    · exact State.swapSettled_modCtx h ⟨rfl, rfl, rfl⟩
  crossingOut := fun {s i} _ h => by
    unfold State.crossingOut
    split
    · exact State.evalSwap_settles _
    · exact State.swapSettled_setGap h i _
  carriedOut := fun {s i} _ h => State.swapSettled_setGap h i _
  shed := fun f h => State.shed_settled h f
  raiseFails := fun _ _ _ => State.evalSwap_settles _

theorem writes_swapSettled : Writes State.swapSettled State.swapSettled where
  bank := fun {s} k b _ hs _ => .inl (by cases k <;> exact hs)
  classes := fun _ h => h
  globals := fun _ h => h
  reconfigured := fun _ _ h => h
  rewritten := fun _ _ h => h
  unexcluded := fun {s} i h => by
    unfold State.clearExclusion
    split
    · exact h
    · exact State.swapSettled_unfaulted h i fun c => ⟨rfl, c.unfaulted_rest⟩
  poweredOn := fun _ _ => .inl rfl

theorem State.tick_settled {s : State} (h : s.swapSettled) : s.tick.swapSettled :=
  State.swapSettled_of h rfl rfl rfl rfl fun i _ => by
    rw [State.tick_ctx]
    exact .inr (.inr ⟨rfl, rfl, rfl⟩)

/-! ### The tables -/

/-- The tables: the banks, the classes, the GLOBAL values, the feeders' configurations and the rings' descriptors. -/
def State.tables (s : State) : Bank × Bank × Vector ClassEntry 8 × Globals × (FeederId → FeederConfig) × (FeederId → RingDesc) :=
  (s.bankA, s.bankB, s.classes, s.globals, fun f => (s.fdr f).config, fun f => (s.ring f).desc)

theorem State.tables_eq_iff (s t : State) : t.tables = s.tables ↔ t.bankA = s.bankA ∧ t.bankB = s.bankB ∧ t.classes = s.classes
    ∧ t.globals = s.globals ∧ (∀ f, (t.fdr f).config = (s.fdr f).config) ∧ ∀ f, (t.ring f).desc = (s.ring f).desc := by
  simp only [State.tables, Prod.mk.injEq, funext_iff]

theorem State.tables_congr {s t : State} (h1 : t.bankA = s.bankA) (h2 : t.bankB = s.bankB) (h3 : t.classes = s.classes)
    (h4 : t.globals = s.globals) (h5 : t.feeders = s.feeders) (h6 : t.rings = s.rings) : t.tables = s.tables :=
  (State.tables_eq_iff s t).2 ⟨h1, h2, h3, h4, fun f => by simp only [State.fdr, h5], fun f => by simp only [State.ring, h6]⟩

theorem State.tables_of_holders {s t : State} (h : HoldersOnly s t) (hc : ∀ f, (t.fdr f).config = (s.fdr f).config) :
    t.tables = s.tables :=
  (State.tables_eq_iff s t).2 ⟨by rw [h.rest], by rw [h.rest], by rw [h.rest], by rw [h.rest], hc, fun f => by
    unfold State.ring; rw [h.rest]⟩

theorem State.tables_modFdr (s : State) (f : FeederId) {g : Feeder → Feeder} (hg : ∀ d, (g d).config = d.config) :
    (s.modFdr f g).tables = s.tables := by
  refine State.tables_of_holders (.modFdr _ _ _) fun k => ?_
  rw [State.modFdr_fdr]
  split
  · next e => subst e; exact hg _
  · rfl

theorem State.tables_modRing (s : State) (f : FeederId) {g : Ring → Ring} (hg : ∀ r, (g r).desc = r.desc) :
    (s.modRing f g).tables = s.tables := by
  refine (State.tables_eq_iff _ _).2 ⟨rfl, rfl, rfl, rfl, fun _ => rfl, fun k => ?_⟩
  rw [State.modRing_ring]
  split
  · next e => subst e; exact hg _
  · rfl

theorem State.tables_setHold (s : State) (i : Slot) (h : Option Holding) : (s.setHold i h).tables = s.tables :=
  State.tables_of_holders (.setHold _ _ _) fun f => by rw [State.setHold_record]

theorem State.tables_setGap (s : State) (i : Slot) (g : GapFields) : (s.setGap i g).tables = s.tables :=
  State.tables_of_holders (.setGap _ _ _) fun f => by rw [State.setGap_record]

theorem State.tables_dropEntry (s : State) (i : Slot) : (s.dropEntry i).tables = s.tables :=
  State.tables_of_holders (.dropEntry _ _) fun f => ((Served.dropEntry s i).records f).1

theorem State.tables_freeQuiet (s : State) (i : Slot) : (s.freeQuiet i).tables = s.tables := by
  have hr : (s.releaseHold i).tables = s.tables := by
    unfold State.releaseHold
    split
    · rfl
    · unfold State.leaveOrder
      rw [State.tables_modFdr]
      · exact State.tables_setHold _ _ _
      · exact fun _ => rfl
  have hc : (s.freeQuiet i).tables = (((s.releaseHold i).setGap i GapFields.clear).dropEntry i).tables :=
    State.tables_congr rfl rfl rfl rfl rfl rfl
  exact hc.trans (((State.tables_dropEntry _ i).trans (State.tables_setGap _ i _)).trans hr)

theorem keeps_tables (s0 : State) : Keeps (fun t => t.tables = s0.tables) where
  frame := fun {s t} h hs => (State.tables_congr h.bankA h.bankB h.classes h.globals h.feeders h.rings).trans hs
  sendNormal := fun {s} f hs => (State.tables_congr (by simp) (by simp) (by simp) (by simp) (by simp) (by simp)).trans hs
  offerC := fun {s} f _ hs => (State.tables_congr (by simp) (by simp) (by simp) (by simp) (by simp) (by simp)).trans hs
  ctx := fun i g _ hs => (State.tables_of_holders (.modCtx _ i g) fun _ => rfl).trans hs
  setHold := fun i h _ hs => (State.tables_setHold _ i h).trans hs
  setGap := fun i g _ hs => (State.tables_setGap _ i g).trans hs
  turnGrant := fun i _ _ hs => ((State.tables_setGap _ i _).trans (State.tables_setHold _ i _)).trans hs
  freeQuiet := fun i hs => (State.tables_freeQuiet _ i).trans hs
  newcomer := fun i truck k hs =>
    ((State.tables_of_holders (.setCtx _ i (Context.newcomer truck k)) fun _ => rfl).trans (State.tables_freeQuiet _ i)).trans hs
  fdr := fun f _ hg hs => (State.tables_modFdr _ f fun d => (hg d).2).trans hs
  sec := fun _ _ _ _ hs => (State.tables_congr rfl rfl rfl rfl rfl rfl).trans hs
  ring := fun f _ hg hs => (State.tables_modRing _ f fun r => (hg r).1).trans hs
  stored := fun {s} f e hs => by
    rw [State.tables_modRing _ f (g := Ring.advanced) fun _ => rfl]
    exact (State.tables_congr (s := s) rfl rfl rfl rfl rfl rfl).trans hs
  meter := fun _ _ hs => (State.tables_congr rfl rfl rfl rfl rfl rfl).trans hs
  missed := fun _ _ hs => (State.tables_congr rfl rfl rfl rfl rfl rfl).trans hs
  flip := fun hs => (State.tables_congr rfl rfl rfl rfl rfl rfl).trans hs
  setSwap := fun _ _ hs => (State.tables_congr rfl rfl rfl rfl rfl rfl).trans hs

theorem State.tables_restarted (s : State) : s.restarted.tables = s.tables :=
  (State.tables_eq_iff s _).2 ⟨rfl, rfl, rfl, rfl, fun f => by simp [State.fdr, State.restarted, Feeder.resetWith],
    fun f => by simp [State.ring, State.restarted, Ring.restarted]⟩

theorem State.tables_takeRampStop {s0 s : State} (h : s.tables = s0.tables) (n : Nat) : (s.takeRampStop n).tables = s0.tables :=
  (keeps_tables s0).takeRampStop_of n (fun _ _ h => h) h

theorem tables_lapse {s0 s : State} (h : s.tables = s0.tables) (i : Slot) : (s.lapse i).tables = s0.tables := by
  have K := keeps_tables s0
  unfold State.lapse
  dsimp only
  split
  · refine K.evalSwap (K.arbitrateOn _ ?_)
    have hr := K.report .offerLapsed (s.ctx i).address.toNat (((s.ctx i).hold.map (·.amount)).getD 0) (K.giveUp i .tracked h)
    generalize (s.giveUp i .tracked).report .offerLapsed (s.ctx i).address.toNat (((s.ctx i).hold.map (·.amount)).getD 0) = u at hr ⊢
    exact (State.tables_congr (s := u) rfl rfl rfl rfl rfl rfl).trans hr
  · exact (State.tables_congr rfl rfl rfl rfl rfl rfl).trans h

theorem effects_tables (s0 : State) : Effects (fun t => t.tables = s0.tables) :=
  have K := keeps_tables s0
  { body := fun {s t} b h => (State.tables_congr b.bankA b.bankB b.classes b.globals b.feeders b.rings).trans h
    sec := fun _ _ h => (State.tables_congr rfl rfl rfl rfl rfl rfl).trans h
    ring := fun f _ hg h => (State.tables_modRing _ f hg).trans h
    meter := fun _ _ h => (State.tables_congr rfl rfl rfl rfl rfl rfl).trans h
    fdr := fun f _ hg h => (State.tables_modFdr _ f fun d => (hg d).1).trans h
    admissionSet := fun _ h => (State.tables_congr rfl rfl rfl rfl rfl rfl).trans h
    psn := fun _ _ h => K.dispatchPsn _ _ h
    drq := fun _ _ h => K.dispatchDrq _ _ h
    acc := fun _ _ h => K.dispatchAcc _ _ h
    rel := fun _ _ h => K.dispatchRel _ _ h
    heard := fun _ h => (State.tables_congr rfl rfl rfl rfl rfl rfl).trans h
    sst := fun _ _ h => K.evalSwap (K.takeStatus _ _ h)
    arbitrate := fun _ h => K.arbitrate _ h
    abandonSwap := K.abandonSwap
    timeoutSwap := K.timeoutSwap
    isolate := fun _ h => K.evalSwap (K.isolate _ h)
    offline := fun _ h => K.feederOffline _ h
    lost := fun _ h => K.feederLost _ h
    lower := fun _ h => K.evalSwap (K.orderLower _ h)
    hold := fun _ h => K.evalSwap (K.orderHold _ h)
    unhold := fun _ h => (State.tables_congr rfl rfl rfl rfl rfl rfl).trans h
    clearFault := fun _ h => (State.tables_congr rfl rfl rfl rfl rfl rfl).trans h
    evict := fun h => K.evalSwap (K.freeCtx _ h)
    stop := fun n h => K.evalSwap (State.tables_takeRampStop h n)
    restart := fun h => (State.tables_restarted _).trans h
    withdrawn := fun _ h => (State.tables_congr rfl rfl rfl rfl rfl rfl).trans h
    silence := fun _ h => K.silence _ h
    expireGrant := fun {s i} _ h => by
      unfold State.expireGrant
      split
      · exact K.startDrop i _ _ h
      · exact (State.tables_congr rfl rfl rfl rfl rfl rfl).trans h
    lapse := fun {s i} _ h => tables_lapse h i
    repeatOffer := fun {s i} _ h => by
      unfold State.repeatOffer
      split
      · exact tables_lapse h i
      · split
        · exact K.sendOfr i _ (K.ctx i (fun _ => ⟨rfl, rfl⟩) h)
        · exact (State.tables_congr rfl rfl rfl rfl rfl rfl).trans h
    dropLate := fun {s i} _ h => by
      unfold State.dropLate
      split
      · exact K.evalSwap (K.strikeLate i (K.endDrop i (K.report _ _ _ h)))
      · exact (State.tables_congr rfl rfl rfl rfl rfl rfl).trans h
    crossingOut := fun {s i} _ h => by
      unfold State.crossingOut
      split
      · exact K.evalSwap (K.stall i h)
      · exact K.setGap i _ (spares_sameGap _ _ rfl) h
    carriedOut := fun {s i} _ h => K.setGap i _ (spares_sameGap _ _ rfl) h
    shed := fun _ h => K.shed _ h
    raiseFails := fun _ _ h => K.evalSwap (K.failRaise _ _ h) }

/-! ### What `Onward` keeps -/

theorem Onward.stopContext {s0 s : State} (h : Onward s0 s) (i : Slot) : Onward s0 (s.stopContext i) := by
  unfold State.stopContext
  split
  · exact h.withdrawNow _ _ _
  · exact h.withdrawNow _ _ _
  · exact h.withdrawNow _ _ _
  · exact h.withdrawNow _ _ _
  · exact (h.giveUp _ _).refuse _ _
  all_goals exact h

/-- A ramp stop goes on from the state in which admission is stopped (R104). -/
theorem State.takeRampStop_onward (s : State) (n : Nat) : Onward { s with admission := .stopped } (s.takeRampStop n) :=
  (Onward.eachSection (g := State.stopSection) (fun _ _ h => h.modSec _ _)
    (Onward.eachSlot (fun _ i h => h.stopContext i) (.refl _))).report .rampStop n (allSlots.filter (fun i => (s.ctx i).toldOfStop)).length

section
variable {P : State → Prop} (ho : ∀ {s t : State}, Onward s t → P s → P t) (hb : ∀ {s t : State}, SameBody s t → P s → P t)
include ho hb

theorem State.lapse_keeps {s : State} (i : Slot) (h : P s) : P (s.lapse i) := by
  unfold State.lapse
  dsimp only
  split
  · have h1 : P ((s.giveUp i .tracked).report .offerLapsed (s.ctx i).address.toNat (((s.ctx i).hold.map (·.amount)).getD 0)) :=
      ho (((Onward.refl s).giveUp i .tracked).report _ _ _) h
    generalize (s.giveUp i .tracked).report .offerLapsed (s.ctx i).address.toNat (((s.ctx i).hold.map (·.amount)).getD 0) = u at h1 ⊢
    exact ho (((Onward.refl u.countLapsed).arbitrateOn (s.touches i)).evalSwap) (hb (s := u) (t := u.countLapsed) (.of rfl) h1)
  · exact ho ((Onward.refl s).modCtx _ _) h

theorem State.repeatOffer_keeps {s : State} (i : Slot) (h : P s) : P (s.repeatOffer i) := by
  unfold State.repeatOffer
  split
  · exact State.lapse_keeps ho hb i h
  · split
    · exact ho (((Onward.refl s).modCtx _ _).sendOfr _ _) h
    · exact ho ((Onward.refl s).modCtx _ _) h

theorem State.shed_keeps {s : State} (f : FeederId) (h : P s) : P (s.shed f) := by
  unfold State.shed
  split
  next i _ =>
    have h1 : P ((s.startDrop i .shed s.globals.shedDrop).report .overloadShed (s.ctx i).address.toNat (s.latestCurrent f)) :=
      ho (((Onward.refl s).startDrop _ _ _).report _ _ _) h
    generalize (s.startDrop i .shed s.globals.shedDrop).report .overloadShed (s.ctx i).address.toNat (s.latestCurrent f) = u at h1 ⊢
    exact ho ((Onward.refl u.countShed).restartOverload f) (hb (s := u) (t := u.countShed) (.of rfl) h1)
  next => exact ho (((Onward.refl s).report .overloadShed 0 (s.latestCurrent f)).restartOverload f) h

/-- A property that what goes on keeps is kept by every effect, once the changes are seen to keep it that `Onward` does not allow. -/
theorem Effects.ofOnward (hs : ∀ {s : State} (x : SectionId) (g : SectionRec → SectionRec), P s → P (s.modSec x g))
    (hr : ∀ {s : State} (f : FeederId) {g : Ring → Ring}, P s → P (s.modRing f g))
    (hm : ∀ {s : State} (f : FeederId) (g : Meter → Meter), P s → P (s.modMeter f g))
    (ha : ∀ {s : State} (a : Admission), P s → P { s with admission := a })
    (hc : ∀ {s : State}, P s → P { s with swap := .none, swapTimer := none }) (hz : ∀ {s : State}, P s → P s.restarted) :
    Effects P where
  body := hb
  sec := hs
  ring := fun f _ _ => hr f
  meter := hm
  fdr := fun f _ hg => ho ((Onward.refl _).modFdr f _ fun d => ⟨(hg d).2.1, (hg d).1⟩)
  admissionSet := ha
  psn := fun _ _ => ho ((Onward.refl _).dispatchPsn _ _)
  drq := fun _ _ => ho ((Onward.refl _).dispatchDrq _ _)
  acc := fun _ _ => ho ((Onward.refl _).dispatchAcc _ _)
  rel := fun _ _ => ho ((Onward.refl _).dispatchRel _ _)
  heard := fun _ => ho ((Onward.refl _).modCtx _ _)
  sst := fun _ _ => ho ((Onward.refl _).takeStatus _ _).evalSwap
  arbitrate := fun _ => ho ((Onward.refl _).arbitrate _)
  abandonSwap := fun h => ho (Onward.refl _).arbitrateAll (hc h)
  timeoutSwap := fun h => ho (((Onward.refl _).report _ _ _).arbitrateAll) (hc h)
  isolate := fun _ => ho ((Onward.refl _).isolate _).evalSwap
  offline := fun _ => ho ((Onward.refl _).feederOffline _)
  lost := fun _ => ho ((Onward.refl _).feederLost _)
  lower := fun _ => ho ((Onward.refl _).orderLower _).evalSwap
  hold := fun _ => ho ((Onward.refl _).orderHold _).evalSwap
  unhold := fun _ => ho ((Onward.refl _).modCtx _ _)
  clearFault := fun _ => ho ((Onward.refl _).modCtx _ _)
  evict := ho ((Onward.refl _).freeCtx _).evalSwap
  stop := fun {s} n h => ho (s.takeRampStop_onward n).evalSwap (ha .stopped h)
  restart := hz
  withdrawn := fun _ => ho ((Onward.refl _).modCtx _ _)
  silence := fun _ => ho ((Onward.refl _).silence _)
  expireGrant := fun {s i} _ h => by
    unfold State.expireGrant
    split
    · exact ho ((Onward.refl s).startDrop _ _ _) h
    · exact ho ((Onward.refl s).modCtx _ _) h
  lapse := fun {s i} _ h => State.lapse_keeps ho hb i h
  repeatOffer := fun {s i} _ h => State.repeatOffer_keeps ho hb i h
  dropLate := fun {s i} _ h => by
    unfold State.dropLate
    split
    · exact ho ((((Onward.refl s).report _ _ _).endDrop i).strikeLate i).evalSwap h
    · exact ho ((Onward.refl s).modCtx _ _) h
  crossingOut := fun {s i} _ h => by
    unfold State.crossingOut
    split
    · exact ho ((Onward.refl s).stall i).evalSwap h
    · exact ho ((Onward.refl s).setGap i { (s.ctx i).gap with crossing := none } (spares_sameGap _ _ rfl)) h
  carriedOut := fun {s i} _ h =>
    ho ((Onward.refl s).setGap i { (s.ctx i).gap with carried := none } (spares_sameGap _ _ rfl)) h
  shed := fun {s} f h => State.shed_keeps ho hb f h
  raiseFails := fun _ _ => ho ((Onward.refl _).failRaise _ _).evalSwap

end

/-! ### The samples -/

theorem effects_samples (m : SampleMemory) : Effects (fun t => t.samples = m) :=
  .ofOnward (fun k h => k.samples.trans h) (fun k h => k.samples.trans h) (fun _ _ h => h) (fun _ _ h => h) (fun _ _ h => h)
    (fun _ h => h) (fun h => h) (fun h => h)

theorem begins_samples (m : SampleMemory) : Begins (fun t => t.samples = m) (fun t => t.samples = m) where
  unforced := fun {s} h =>
    (Onward.refl ({ s with swap := .pending, swapTimer := seconds s.globals.swapTime } : State)).evalSwap.samples.trans h
  forced := fun {s} h =>
    (Onward.refl ({ s with swap := .pendingForced } : State)).reconfigAll.evalSwap.samples.trans h

theorem writes_samples (m : SampleMemory) : Writes (fun t => t.samples = m) (fun t => t.samples = m) where
  bank := fun {s} k b _ _ h => by cases k <;> exact h
  classes := fun _ h => h
  globals := fun _ h => h
  reconfigured := fun _ _ h => h
  rewritten := fun _ _ h => h
  unexcluded := fun i h => ((Onward.refl _).clearExclusion i).samples.trans h
  poweredOn := fun _ h => h

/-- The commands that O60 names are the writes of the tables and the hard reset. -/
theorem Instr.writesTables_eq_false {c : Instr} (h : (∀ straps, c ≠ .hardReset straps) ∧ (∀ k b n e, c ≠ .tableWriteSection k b n e)
    ∧ (∀ k b n e, c ≠ .tableWriteGap k b n e) ∧ (∀ k b n e, c ≠ .tableWriteFeeder k b n e) ∧ (∀ k b n e, c ≠ .tableWriteClass k b n e)
    ∧ (∀ k b n e, c ≠ .tableWriteRing k b n e) ∧ ∀ k b n v, c ≠ .tableWriteGlobal k b n v) : c.writesTables = false := by
  obtain ⟨h1, h2, h3, h4, h5, h6, h7⟩ := h
  unfold Instr.writesTables
  split
  · exact absurd rfl (h1 _)
  · exact absurd rfl (h2 _ _ _ _)
  · exact absurd rfl (h3 _ _ _ _)
  · exact absurd rfl (h4 _ _ _ _)
  · exact absurd rfl (h5 _ _ _ _)
  · exact absurd rfl (h6 _ _ _ _)
  · exact absurd rfl (h7 _ _ _ _)
  · rfl

/-- The commands that O60 excepts are those that may bring a sample. -/
theorem Instr.bringsSamples_eq_false {c : Instr} (h1 : ∀ f n a v b, c ≠ .smp f n a v b) (h2 : ∀ f, c ≠ .foreignFrame .m f)
    (h3 : ∀ bs, c ≠ .checkError .m bs) (h4 : c ≠ .marker .m) : c.bringsSamples = false := by
  unfold Instr.bringsSamples
  split
  · exact absurd rfl (h1 _ _ _ _ _)
  · exact absurd rfl (h2 _)
  · exact absurd rfl (h3 _)
  · exact absurd rfl h4
  · rfl

end Sys2Proof.Machine

open Sys2Proof Sys2Proof.Machine

/-- Settles O13: the sections by the primitive changes, the swap by the effects of the commands, most of which evaluate it last. -/
theorem stepKeepsSectionsIsolated : Obligations.StepKeepsSectionsIsolated :=
  ⟨fun _ _ h hs => keepsAll_sectionsAgree.step_keeps (fun _ _ h => h) (fun _ _ h => h) h hs,
    fun _ _ h hs => effects_swapSettled.step_keeps effects_swapSettled.arrives ⟨fun _ => State.evalSwap_settles _, fun _ => State.evalSwap_settles _⟩
      writes_swapSettled
      (fun f m h => effects_swapSettled.takeSample (fun _ h => h) (fun _ _ => State.evalSwap_settles _) f m h)
      State.tick_settled h hs⟩

/-- Settles O60: the tables by the primitive changes, the sample memory by what goes on. -/
theorem tablesAndSamplesStand : Obligations.TablesAndSamplesStand := by
  intro c s t hs
  have lands : ∀ {P : State → Prop}, KeepsAll.Lands P (exec c s) → P t := fun ⟨u, hu, hp⟩ =>
    Host.Outcome.next.inj (hu.symm.trans hs) ▸ hp
  refine ⟨fun h1 h2 h3 h4 h5 h6 h7 => ?_, fun h1 h2 h3 h4 => ?_⟩
  · have E := effects_tables s
    have hw := Instr.writesTables_eq_false ⟨h1, h2, h3, h4, h5, h6, h7⟩
    refine (State.tables_eq_iff s t).1 (lands (P := fun t => t.tables = s.tables) ?_)
    cases hm : c.bringsSamples with
    | true => exact E.exec_samples (fun f m h => (keeps_tables s).takeSample f m h) hm rfl
    | false => exact E.exec_lands E.arrives c (fun _ => ⟨(keeps_tables s).beginSwap, (keeps_tables s).beginForcedSwap⟩) hw hm rfl
  · have E := effects_samples s.samples
    have hm := Instr.bringsSamples_eq_false h1 h2 h3 h4
    refine lands (P := fun t => t.samples = s.samples) ?_
    cases hw : c.writesTables with
    | true => exact E.exec_writes E.arrives (writes_samples _) hw rfl
    | false => exact E.exec_lands E.arrives c (fun _ => begins_samples _) hw hm rfl

end

section
/-! PROOFS. Where a slot stands in the lists of the feeders: its one entry, its place in a grant order, and what each change of the lists does to them (R71 to R74). -/

namespace Sys2Proof.Machine
open Sys2Proof

/-! ### The place of a slot -/

/-- A place in a wait list: the feeder, the level and the entry. -/
abbrev Place := FeederId × Level × Entry

/-- The entries a list has for a slot that stands at a place, or nowhere. -/
def entriesAt (w : Option Place) (f : FeederId) (l : Level) : List Entry :=
  match w with
  | none => []
  | some (g, k, e) => if g = f ∧ k = l then [e] else []

/-- The slot stands at the place in the wait lists, and nowhere else. -/
def State.Listed (s : State) (i : Slot) (w : Option Place) : Prop :=
  ∀ f l, ((s.fdr f).wait l).filter (fun e => e.slot == i) = entriesAt w f l

/-- The slot stands once in the grant order of the feeder, and in no other. -/
def State.Ordered (s : State) (i : Slot) (g : Option FeederId) : Prop :=
  ∀ f, (s.fdr f).grantOrder.count i = if g = some f then 1 else 0

/-- Every wait list has its carry-over entries before its ordinary ones (R73). -/
def State.Sorted (s : State) : Prop :=
  ∀ f l, ((s.fdr f).wait l).Pairwise (fun a b => a.mark = .ordinary → b.mark = .ordinary)

/-- The grant orders and the wait lists stand. -/
def SameLists (s t : State) : Prop :=
  ∀ f, (t.fdr f).grantOrder = (s.fdr f).grantOrder ∧ ∀ l, (t.fdr f).wait l = (s.fdr f).wait l

theorem entriesAt_self (f : FeederId) (l : Level) (e : Entry) : entriesAt (some (f, l, e)) f l = [e] := if_pos ⟨rfl, rfl⟩

theorem mem_entriesAt {w : Option Place} {f : FeederId} {l : Level} {e : Entry} (h : e ∈ entriesAt w f l) : w = some (f, l, e) := by
  unfold entriesAt at h
  split at h
  · cases h
  · split at h
    · next hf =>
      obtain ⟨rfl, rfl⟩ := hf
      rw [List.mem_singleton.1 h]
    · cases h

namespace State.Listed
variable {s t : State} {i : Slot} {w : Option Place}

theorem mem_iff (h : s.Listed i w) {f : FeederId} {l : Level} {e : Entry} :
    e ∈ (s.fdr f).wait l ∧ e.slot = i ↔ w = some (f, l, e) := by
  have hf := h f l
  constructor
  · rintro ⟨he, hs⟩
    exact mem_entriesAt (hf ▸ List.mem_filter.2 ⟨he, beq_iff_eq.2 hs⟩)
  · rintro rfl
    rw [entriesAt_self] at hf
    have he : e ∈ ((s.fdr f).wait l).filter (fun e => e.slot == i) := hf ▸ List.mem_singleton_self e
    exact ⟨(List.mem_filter.1 he).1, beq_iff_eq.1 (List.mem_filter.1 he).2⟩

theorem congr (h : s.Listed i w) (k : SameLists s t) : t.Listed i w := fun f l => by rw [(k f).2 l]; exact h f l

/-- The membership of a slot is its place. -/
theorem memberOf (h : s.Listed i w) : (s.memberOf i).map (fun m => (m.feeder, m.level, m.entry)) = w := by
  cases hm : s.memberOf i with
  | none =>
    cases w with
    | none => rfl
    | some p =>
      obtain ⟨f, l, e⟩ := p
      obtain ⟨he, rfl⟩ := h.mem_iff.2 rfl
      exact absurd rfl (Feeder.entriesOf_eq_zero_iff.1 (State.memberOf_none hm f) l e he)
  | some m => exact (h.mem_iff.1 (State.memberOf_mem hm)).symm

theorem of_memberOf {m : Membership} (h : s.Listed i w) (hm : s.memberOf i = some m) : w = some (m.feeder, m.level, m.entry) := by
  rw [← h.memberOf, hm]; rfl

theorem memberOf_none (h : s.Listed i none) : s.memberOf i = none := Option.map_eq_none_iff.1 h.memberOf

theorem memberOf_some {f : FeederId} {l : Level} {e : Entry} (h : s.Listed i (some (f, l, e))) :
    ∃ n, s.memberOf i = some ⟨f, l, e, n⟩ := by
  obtain ⟨m, hm, he⟩ := Option.map_eq_some_iff.1 h.memberOf
  cases he
  exact ⟨m.position, hm⟩

theorem entriesOf (h : s.Listed i w) (f : FeederId) : (s.fdr f).entriesOf i = if w.map (·.1) = some f then 1 else 0 := by
  have h1 := h f .one
  have h2 := h f .two
  unfold Feeder.entriesOf
  rw [List.countP_eq_length_filter, List.filter_append, show (s.fdr f).wait1 = (s.fdr f).wait .one from rfl,
    show (s.fdr f).wait2 = (s.fdr f).wait .two from rfl, h1, h2]
  cases w with
  | none => rfl
  | some p =>
    obtain ⟨g, l, e⟩ := p
    by_cases hg : g = f <;> cases l <;> simp [entriesAt, hg]

theorem entryCount (h : s.Listed i w) : s.entryCount i = if w.isSome then 1 else 0 := by
  rw [State.entryCount_eq_sum]
  simp only [h.entriesOf]
  cases w with
  | none => simp
  | some p => simp

theorem entryCount_le_one (h : s.Listed i w) : s.entryCount i ≤ 1 := by
  rw [h.entryCount]
  split <;> omega

/-- The place where a slot is counted is unique. -/
theorem unique {v : Option Place} (h : s.Listed i w) (k : s.Listed i v) : w = v := h.memberOf.symm.trans k.memberOf

end State.Listed

/-- A slot with at most one entry has a place. -/
theorem State.listed_of_entryCount {s : State} {i : Slot} (h : s.entryCount i ≤ 1) : ∃ w, s.Listed i w := by
  have hz : ∀ {f : FeederId}, (s.fdr f).entriesOf i = 0 → ∀ l, ((s.fdr f).wait l).filter (fun e => e.slot == i) = [] :=
    fun h0 l => List.filter_eq_nil_iff.2 fun e he hs => Feeder.entriesOf_eq_zero_iff.1 h0 l e he (beq_iff_eq.1 hs)
  cases hm : s.memberOf i with
  | none => exact ⟨none, fun f l => hz (State.memberOf_none hm f) l⟩
  | some m =>
    obtain ⟨he, rfl⟩ := State.memberOf_mem hm
    have h1 := (s.entriesOf_le_entryCount m.entry.slot m.feeder).trans h
    refine ⟨some (m.feeder, m.level, m.entry), fun f l => ?_⟩
    by_cases hf : m.feeder = f
    · subst hf
      by_cases hl : l = m.level
      · subst hl
        have hl : (((s.fdr m.feeder).wait m.level).filter (fun e => e.slot == m.entry.slot)).length ≤ 1 := by
          rw [← List.countP_eq_length_filter]
          unfold Feeder.entriesOf at h1
          rw [List.countP_append] at h1
          cases m.level <;> simp only [Feeder.wait] <;> omega
        have hmem : m.entry ∈ ((s.fdr m.feeder).wait m.level).filter (fun e => e.slot == m.entry.slot) :=
          List.mem_filter.2 ⟨he, beq_self_eq_true _⟩
        obtain ⟨a, ha⟩ := List.length_eq_one_iff.1 (le_antisymm hl (List.length_pos_of_mem hmem))
        rw [ha] at hmem
        rw [entriesAt_self, ha, List.mem_singleton.1 hmem]
      · have hn := Feeder.slot_ne_of_other he h1 hl
        exact (List.filter_eq_nil_iff.2 fun e he hs => hn e he (beq_iff_eq.1 hs)).trans (if_neg fun hc => hl hc.2.symm).symm
    · have h2 := s.entriesOf_add_le_entryCount m.entry.slot hf
      have h3 := Feeder.entriesOf_pos he
      exact (hz (by omega) l).trans (if_neg fun hc => hf hc.1).symm

theorem State.listed_none_of_entryCount {s : State} {i : Slot} (h : s.entryCount i = 0) : s.Listed i none := by
  obtain ⟨w, hw⟩ := State.listed_of_entryCount (h.trans_le (Nat.zero_le 1))
  have hc := hw.entryCount
  cases w with
  | none => exact hw
  | some p =>
    rw [h] at hc
    cases hc

/-! ### States with the same lists -/

namespace SameLists
variable {s t u : State}

theorem refl (s : State) : SameLists s s := fun _ => ⟨rfl, fun _ => rfl⟩

theorem trans (h : SameLists s t) (k : SameLists t u) : SameLists s u :=
  fun f => ⟨(k f).1.trans (h f).1, fun l => ((k f).2 l).trans ((h f).2 l)⟩

theorem of_fdr (h : ∀ f, t.fdr f = s.fdr f) : SameLists s t := fun f => by rw [h f]; exact ⟨rfl, fun _ => rfl⟩

theorem of_feeders (h : t.feeders = s.feeders) : SameLists s t := of_fdr fun f => by unfold State.fdr; rw [h]

/-- A record whose lists stand. -/
theorem modFdr (s : State) (f : FeederId) {g : Feeder → Feeder}
    (hg : ∀ d, (g d).grantOrder = d.grantOrder ∧ (g d).wait1 = d.wait1 ∧ (g d).wait2 = d.wait2) : SameLists s (s.modFdr f g) := by
  intro k
  obtain ⟨ho, h1, h2⟩ := hg (s.fdr f)
  by_cases hf : f = k
  · subst hf
    rw [State.modFdr_fdr_self]
    exact ⟨ho, fun l => by cases l; exacts [h1, h2]⟩
  · rw [State.modFdr_fdr_other _ _ hf]
    exact ⟨rfl, fun _ => rfl⟩

theorem setHold (s : State) (i : Slot) (h : Option Holding) : SameLists s (s.setHold i h) := fun f => by
  rw [State.setHold_record]
  exact ⟨rfl, fun l => by cases l <;> rfl⟩

theorem setGap (s : State) (i : Slot) (g : GapFields) : SameLists s (s.setGap i g) := fun f => by
  rw [State.setGap_record]
  exact ⟨rfl, fun l => by cases l <;> rfl⟩

theorem modCtx (s : State) (i : Slot) (g : Context → Context) : SameLists s (s.modCtx i g) := of_fdr fun _ => by simp

theorem setCtx (s : State) (i : Slot) (c : Context) : SameLists s (s.setCtx i c) := of_fdr fun _ => by simp

theorem modSec (s : State) (x : SectionId) (g : SectionRec → SectionRec) : SameLists s (s.modSec x g) := of_fdr fun _ => by simp

theorem sendNormal (s : State) (f : Frame) : SameLists s (s.sendNormal f) := of_fdr fun _ => by simp

theorem report (s : State) (k : EventKind) (a b : Nat) : SameLists s (s.report k a b) := of_fdr fun _ => by simp

theorem tellHolder (s s0 : State) (x : SectionId) : SameLists s (s.tellHolder s0 x) := of_feeders (State.tellHolder_same _ _ _).2.1

theorem sendOfr (s : State) (i : Slot) (tag : Byte) : SameLists s (s.sendOfr i tag) := of_fdr fun f => State.sendOfr_fdr _ _ _ f

theorem listed (h : SameLists s t) {i : Slot} {w : Option Place} (k : s.Listed i w) : t.Listed i w := k.congr h

theorem ordered (h : SameLists s t) {i : Slot} {g : Option FeederId} (k : s.Ordered i g) : t.Ordered i g := fun f => by
  rw [(h f).1]; exact k f

theorem sorted (h : SameLists s t) (k : s.Sorted) : t.Sorted := fun f l => by rw [(h f).2 l]; exact k f l

end SameLists

/-! ### Lists that an entry joins, or moves in -/

theorem insertCarryOver_perm (e : Entry) (es : List Entry) : (insertCarryOver e es).Perm (e :: es) := by
  induction es with
  | nil => exact .refl _
  | cons d ds ih =>
    unfold insertCarryOver
    split
    · exact (ih.cons d).trans (.swap e d ds)
    · exact .refl _

/-- An entry joins the others. -/
theorem insertEntry_perm (e : Entry) (es : List Entry) : (insertEntry e es).Perm (e :: es) := by
  unfold insertEntry
  split
  · exact List.perm_append_comm
  · exact insertCarryOver_perm e es

/-- The entries that a test passes stand as they did where the new one fails it. -/
theorem insertEntry_filter_of_not {p : Entry → Bool} {e : Entry} {es : List Entry} (h : p e = false) :
    (insertEntry e es).filter p = es.filter p := by
  have hc : ∀ es : List Entry, (insertCarryOver e es).filter p = es.filter p := fun es => by
    induction es with
    | nil => simp [insertCarryOver, h]
    | cons d ds ih =>
      unfold insertCarryOver
      split
      · rw [List.filter_cons, List.filter_cons, ih]
      · rw [List.filter_cons_of_neg (by simp [h])]
  unfold insertEntry
  split
  · simp [h]
  · exact hc es

/-- The new entry is the one that passes a test no other passes. -/
theorem insertEntry_filter_of_only {p : Entry → Bool} {e : Entry} {es : List Entry} (h : p e = true) (hn : es.filter p = []) :
    (insertEntry e es).filter p = [e] := by
  have hp := (insertEntry_perm e es).filter p
  rw [List.filter_cons_of_pos h, hn] at hp
  exact List.perm_singleton.1 hp

theorem insertCarryOver_sorted {e : Entry} {es : List Entry} (he : e.mark = .carryOver)
    (h : es.Pairwise (fun a b => a.mark = .ordinary → b.mark = .ordinary)) :
    (insertCarryOver e es).Pairwise (fun a b => a.mark = .ordinary → b.mark = .ordinary) := by
  have hne : e.mark ≠ .ordinary := by rw [he]; decide
  induction es with
  | nil => exact List.pairwise_singleton _ _
  | cons d ds ih =>
    obtain ⟨hd, hds⟩ := List.pairwise_cons.1 h
    unfold insertCarryOver
    split
    · next hm =>
      have hdm : d.mark ≠ .ordinary := by rw [beq_iff_eq.1 hm]; decide
      exact List.pairwise_cons.2 ⟨fun b _ ha => absurd ha hdm, ih hds⟩
    · exact List.pairwise_cons.2 ⟨fun b _ ha => absurd ha hne, h⟩

/-- An entry inserted by its mark leaves carry-over entries before ordinary ones (R73). -/
theorem insertEntry_sorted {e : Entry} {es : List Entry} (h : es.Pairwise (fun a b => a.mark = .ordinary → b.mark = .ordinary)) :
    (insertEntry e es).Pairwise (fun a b => a.mark = .ordinary → b.mark = .ordinary) := by
  unfold insertEntry
  split
  · next hm =>
    exact List.pairwise_append.2 ⟨h, List.pairwise_singleton _ _, fun a _ b hb _ => by rw [List.mem_singleton.1 hb]; exact hm⟩
  · next hm => exact insertCarryOver_sorted hm h

/-- An entry of the slot with another section, every other entry as it is (R49). -/
def Entry.moved (i : Slot) (x : SectionId) (e : Entry) : Entry := if e.slot == i then { e with sect := x } else e

theorem moved_slot (i : Slot) (x : SectionId) (e : Entry) : (e.moved i x).slot = e.slot := by
  unfold Entry.moved
  split <;> rfl

theorem moved_mark (i : Slot) (x : SectionId) (e : Entry) : (e.moved i x).mark = e.mark := by
  unfold Entry.moved
  split <;> rfl

theorem filter_map_moved {i j : Slot} (h : j ≠ i) (x : SectionId) (es : List Entry) :
    (es.map (Entry.moved i x)).filter (fun e => e.slot == j) = es.filter (fun e => e.slot == j) := by
  rw [List.filter_map]
  have hp : ((fun e : Entry => e.slot == j) ∘ Entry.moved i x) = fun e => e.slot == j := funext fun e => by
    rw [Function.comp_apply, moved_slot]
  rw [hp]
  refine (List.map_congr_left fun e he => ?_).trans (List.map_id _)
  have hs : e.slot = j := beq_iff_eq.1 (List.mem_filter.1 he).2
  exact if_neg (by rw [hs]; simpa using h)

/-! ### One list of one feeder -/

theorem State.setWait_wait (s : State) (f : FeederId) (l : Level) (es : List Entry) (g : FeederId) (k : Level) :
    ((s.modFdr f (fun r => r.setWait l es)).fdr g).wait k = if f = g ∧ l = k then es else (s.fdr g).wait k := by
  rw [State.modFdr_fdr]
  split
  · next hg => subst hg; cases l <;> cases k <;> simp [Feeder.setWait, Feeder.wait]
  · next hg => rw [if_neg fun h => hg h.1]

theorem State.setWait_grantOrder (s : State) (f : FeederId) (l : Level) (es : Feeder → List Entry) (g : FeederId) :
    ((s.modFdr f (fun r => r.setWait l (es r))).fdr g).grantOrder = (s.fdr g).grantOrder := by
  rw [State.modFdr_fdr]
  split
  · next hg => subst hg; cases l <;> rfl
  · rfl

/-- Removing an entry changes no grant order. -/
theorem State.dropEntry_grantOrder (s : State) (i : Slot) (f : FeederId) : ((s.dropEntry i).fdr f).grantOrder = (s.fdr f).grantOrder := by
  unfold State.dropEntry
  split
  · rfl
  · exact ((SameLists.tellHolder _ _ _) f).1.trans (State.setWait_grantOrder _ _ _ _ _)

theorem State.leaveOrder_wait (s : State) (i : Slot) (f g : FeederId) (l : Level) :
    ((s.leaveOrder i f).fdr g).wait l = (s.fdr g).wait l := by
  unfold State.leaveOrder
  rw [State.modFdr_fdr]
  split
  · next hg => subst hg; cases l <;> rfl
  · rfl

theorem State.joinOrder_wait (s : State) (i : Slot) (f g : FeederId) (l : Level) :
    ((s.joinOrder i f).fdr g).wait l = (s.fdr g).wait l := by
  unfold State.joinOrder
  rw [State.modFdr_fdr]
  split
  · next hg => subst hg; cases l <;> rfl
  · rfl

theorem State.leaveOrder_grantOrder (s : State) (i : Slot) (f g : FeederId) : ((s.leaveOrder i f).fdr g).grantOrder
    = if f = g then (s.fdr g).grantOrder.filter (· != i) else (s.fdr g).grantOrder := by
  unfold State.leaveOrder
  rw [State.modFdr_fdr]
  split
  · next hg => subst hg; rfl
  · rfl

theorem State.joinOrder_grantOrder (s : State) (i : Slot) (f g : FeederId) : ((s.joinOrder i f).fdr g).grantOrder
    = if f = g then (s.fdr g).grantOrder ++ [i] else (s.fdr g).grantOrder := by
  unfold State.joinOrder
  rw [State.modFdr_fdr]
  split
  · next hg => subst hg; rfl
  · rfl

theorem State.leaveOrder_count_other (s : State) {i j : Slot} (h : j ≠ i) (f g : FeederId) :
    ((s.leaveOrder i f).fdr g).grantOrder.count j = (s.fdr g).grantOrder.count j := by
  rw [State.leaveOrder_grantOrder]
  split
  · exact List.count_filter (by simpa using h)
  · rfl

theorem State.joinOrder_count_other (s : State) {i j : Slot} (h : j ≠ i) (f g : FeederId) :
    ((s.joinOrder i f).fdr g).grantOrder.count j = (s.fdr g).grantOrder.count j := by
  rw [State.joinOrder_grantOrder]
  split
  · rw [List.count_append, List.count_singleton, if_neg (by simpa using h.symm), Nat.add_zero]
  · rfl

/-! ### Changes of one slot's place -/

/-- The lists changed for one slot alone. -/
structure Relists (i : Slot) (s t : State) : Prop where
  entries : ∀ j, j ≠ i → ∀ f l, ((t.fdr f).wait l).filter (fun e => e.slot == j) = ((s.fdr f).wait l).filter (fun e => e.slot == j)
  ordered : ∀ j, j ≠ i → ∀ g, s.Ordered j g → t.Ordered j g
  sorted : s.Sorted → t.Sorted

theorem SameLists.relists {s t : State} (h : SameLists s t) (i : Slot) : Relists i s t :=
  ⟨fun _ _ f l => by rw [(h f).2 l], fun _ _ _ => h.ordered, h.sorted⟩

namespace Relists
variable {i : Slot} {s t u : State}

theorem listed (h : Relists i s t) (j : Slot) (hj : j ≠ i) (w : Option Place) (k : s.Listed j w) : t.Listed j w :=
  fun f l => (h.entries j hj f l).trans (k f l)

theorem refl (s : State) : Relists i s s := (SameLists.refl s).relists i

theorem trans (h : Relists i s t) (k : Relists i t u) : Relists i s u :=
  ⟨fun j hj f l => (k.entries j hj f l).trans (h.entries j hj f l), fun j hj g hg => k.ordered j hj g (h.ordered j hj g hg),
    fun hs => k.sorted (h.sorted hs)⟩

/-- One wait list changed, for one slot alone. -/
theorem setWait (s : State) {i : Slot} {f : FeederId} {l : Level} {es : List Entry}
    (hj : ∀ j, j ≠ i → es.filter (fun e => e.slot == j) = ((s.fdr f).wait l).filter (fun e => e.slot == j))
    (hs : ((s.fdr f).wait l).Pairwise (fun a b => a.mark = .ordinary → b.mark = .ordinary) →
      es.Pairwise (fun a b => a.mark = .ordinary → b.mark = .ordinary)) :
    Relists i s (s.modFdr f (fun r => r.setWait l es)) where
  entries := fun j hne g k => by
    rw [State.setWait_wait]
    split
    · next hg =>
      obtain ⟨rfl, rfl⟩ := hg
      exact hj j hne
    · rfl
  ordered := fun j _ o h g => by rw [State.setWait_grantOrder s f l (fun _ => es)]; exact h g
  sorted := fun h g k => by
    rw [State.setWait_wait]
    split
    · next hg =>
      obtain ⟨rfl, rfl⟩ := hg
      exact hs (h f l)
    · exact h g k

theorem dropEntry (s : State) (i : Slot) : Relists i s (s.dropEntry i) := by
  unfold State.dropEntry
  split
  · exact refl s
  · refine (setWait s (fun j hj => ?_) (fun h => h.filter _)).trans ((SameLists.tellHolder _ _ _).relists i)
    rw [List.filter_filter]
    refine List.filter_congr fun e _ => ?_
    by_cases he : e.slot = j
    · simp [he, hj]
    · simp [he]

theorem addEntry (s : State) (i : Slot) (f : FeederId) (l : Level) (x : SectionId) (k : Mark) : Relists i s (s.addEntry i f l x k) := by
  refine (dropEntry s i).trans (((setWait _ (fun j hj => ?_) ?_)).trans ((SameLists.tellHolder _ _ _).relists i))
  · exact insertEntry_filter_of_not (beq_eq_false_iff_ne.2 hj.symm)
  · exact insertEntry_sorted

theorem moveEntry (s : State) (i : Slot) (x : SectionId) : Relists i s (s.moveEntry i x) := by
  unfold State.moveEntry
  split
  · exact refl s
  · refine (setWait s (fun j hj => ?_) (fun h => ?_)).trans
      (((SameLists.tellHolder _ _ _).trans (SameLists.tellHolder _ _ _)).relists i)
    · exact filter_map_moved hj x _
    · refine List.pairwise_map.2 (h.imp fun {a b} hab => ?_)
      have ha : (a.moved i x).mark = a.mark := moved_mark i x a
      have hb : (b.moved i x).mark = b.mark := moved_mark i x b
      exact fun h => hb.trans (hab (ha.symm.trans h))

theorem leaveOrder (s : State) (i : Slot) (f : FeederId) : Relists i s (s.leaveOrder i f) where
  entries := fun j _ g k => by rw [State.leaveOrder_wait]
  ordered := fun j hj o h g => by rw [State.leaveOrder_count_other _ hj]; exact h g
  sorted := fun h g k => by rw [State.leaveOrder_wait]; exact h g k

theorem joinOrder (s : State) (i : Slot) (f : FeederId) : Relists i s (s.joinOrder i f) where
  entries := fun j _ g k => by rw [State.joinOrder_wait]
  ordered := fun j hj o h g => by rw [State.joinOrder_count_other _ hj]; exact h g
  sorted := fun h g k => by rw [State.joinOrder_wait]; exact h g k

end Relists

/-! ### The slot's own place -/

theorem SameLists.sendGrt (s : State) (i : Slot) (tag : Byte) : SameLists s (s.sendGrt i tag) := by
  unfold State.sendGrt
  dsimp only
  split
  · exact .refl s
  · exact .sendNormal s _

theorem SameLists.sendDfr (s : State) (i : Slot) (tag : Byte) : SameLists s (s.sendDfr i tag) := by
  unfold State.sendDfr
  split
  · exact .refl s
  · exact .sendNormal s _

theorem SameLists.deferIfQueued (s : State) (i : Slot) (tag : Byte) : SameLists s (s.deferIfQueued i tag) := by
  unfold State.deferIfQueued
  split
  · exact .sendDfr s _ _
  · exact .refl s

theorem SameLists.modCtxTold (s : State) (i : Slot) (g : Context → Context) : SameLists s (s.modCtxTold i g) := by
  unfold State.modCtxTold
  split
  · exact .modCtx s _ _
  · exact (SameLists.modCtx s _ _).trans (.tellHolder _ _ _)

theorem SameLists.wake (s : State) (x : SectionId) : SameLists s (s.wake x) := by
  unfold State.wake
  split
  · exact .refl s
  · split
    · split
      · exact .modSec s _ _
      · split <;> exact .modSec s _ _
      · exact .refl s
      · exact .refl s
      · exact .refl s
    · exact .refl s

namespace State.Listed
variable {s : State} {i : Slot} {w : Option Place}

theorem dropEntry (h : s.Listed i w) : (s.dropEntry i).Listed i none := fun f l => by
  rw [State.dropEntry_fdr h.entryCount_le_one]
  refine List.filter_eq_nil_iff.2 fun e he hs => ?_
  have hn : ∀ {es : List Entry}, e ∉ es.filter (fun d => d.slot ≠ i) := fun hm => by
    simpa [beq_iff_eq.1 hs] using (List.mem_filter.1 hm).2
  cases l <;> exact hn he

theorem addEntry (h : s.Listed i w) (f : FeederId) (l : Level) (x : SectionId) (k : Mark) :
    (s.addEntry i f l x k).Listed i (some (f, l, ⟨i, x, k⟩)) := by
  refine Listed.congr (s := (s.dropEntry i).modFdr f (fun r => r.setWait l (insertEntry ⟨i, x, k⟩ (((s.dropEntry i).fdr f).wait l))))
    (fun g m => ?_) (SameLists.tellHolder _ _ _)
  have hn := h.dropEntry g m
  rw [State.setWait_wait]
  split
  · next hg =>
    obtain ⟨rfl, rfl⟩ := hg
    rw [entriesAt_self]
    exact insertEntry_filter_of_only (beq_self_eq_true _) hn
  · next hg => exact hn.trans (if_neg hg).symm

/-- The entry of a slot moves to another section in its place. -/
theorem moveEntry {f : FeederId} {l : Level} {e : Entry} (h : s.Listed i (some (f, l, e))) (x : SectionId) :
    (s.moveEntry i x).Listed i (some (f, l, { e with sect := x })) := by
  obtain ⟨n, hm⟩ := h.memberOf_some
  have hs : e.slot = i := (h.mem_iff.2 rfl).2
  unfold State.moveEntry
  rw [hm]
  refine Listed.congr (s := s.modFdr f (fun r => r.setWait l (((s.fdr f).wait l).map (Entry.moved i x))))
    (fun g m => ?_) ((SameLists.tellHolder _ _ _).trans (SameLists.tellHolder _ _ _))
  rw [State.setWait_wait]
  split
  · next hg =>
    obtain ⟨rfl, rfl⟩ := hg
    have hp : ((fun e : Entry => e.slot == i) ∘ Entry.moved i x) = fun e => e.slot == i := funext fun e => by
      rw [Function.comp_apply, moved_slot]
    rw [List.filter_map, hp, h f l, entriesAt_self, entriesAt_self, List.map_singleton]
    exact congrArg (fun e => [e]) (if_pos (beq_iff_eq.2 hs))
  · next hg =>
    rw [h g m]
    exact (if_neg hg).trans (if_neg hg).symm

end State.Listed

namespace State.Ordered
variable {s : State} {i : Slot} {g : Option FeederId}

theorem dropEntry (h : s.Ordered i g) : (s.dropEntry i).Ordered i g := fun f => by
  rw [State.dropEntry_grantOrder]
  exact h f

theorem addEntry (h : s.Ordered i g) (f : FeederId) (l : Level) (x : SectionId) (k : Mark) : (s.addEntry i f l x k).Ordered i g := by
  refine SameLists.ordered (SameLists.tellHolder (State.modFdr (s.dropEntry i) f _) _ _) fun m => ?_
  rw [State.setWait_grantOrder]
  exact h.dropEntry m

theorem moveEntry (h : s.Ordered i g) (x : SectionId) : (s.moveEntry i x).Ordered i g := by
  unfold State.moveEntry
  split
  · exact h
  · refine SameLists.ordered ((SameLists.tellHolder (State.modFdr s _ _) _ _).trans (SameLists.tellHolder _ _ _)) fun m => ?_
    rw [State.setWait_grantOrder]
    exact h m

theorem joinOrder (h : s.Ordered i none) (f : FeederId) : (s.joinOrder i f).Ordered i (some f) := fun m => by
  have h0 := h m
  rw [State.joinOrder_grantOrder]
  by_cases hf : f = m
  · rw [if_pos hf, if_pos (congrArg some hf), List.count_append, h0]
    simp
  · rw [if_neg hf, if_neg (by simpa using hf), h0]
    rfl

theorem leaveOrder {f : FeederId} (h : s.Ordered i g) (hg : g = none ∨ g = some f) : (s.leaveOrder i f).Ordered i none := fun m => by
  have h0 := h m
  rw [State.leaveOrder_grantOrder]
  by_cases hf : f = m
  · rw [if_pos hf]
    exact List.count_eq_zero.2 fun hm => by simpa using (List.mem_filter.1 hm).2
  · rw [if_neg hf, h0]
    refine (if_neg ?_).trans (if_neg (by simp)).symm
    rcases hg with rfl | rfl
    · simp
    · simpa using hf

end State.Ordered

end Sys2Proof.Machine
end

section
/-! PROOFS. A tidy state: what a context holds, where it stands in the lists and its state agree, slot by slot (R21, R22, R71 to R73). -/

namespace Sys2Proof.Machine
open Sys2Proof

/-! ### What a context holds, by its state (R22) -/

/-- Gap fields of no crossing. -/
def GapFields.Bare (g : GapFields) : Prop := g.gapId = none ∧ g.target = none ∧ g.feeder = none

theorem GapFields.bare_clear : GapFields.clear.Bare := ⟨rfl, rfl, rfl⟩

/-- A crossing has a reservation or an entry for its target section, or neither (R72, R92). -/
def GapFields.Crosses (g : GapFields) (w : Option Place) : Prop :=
  (g.feeder ≠ none → w = none) ∧ ∀ p, w = some p → g.target = some p.2.2.sect

/-- What the context holds, its place in the wait lists and its place in the grant orders fit its state. -/
def Context.Fits (c : Context) (w : Option Place) (g : Option FeederId) : Prop :=
  match c.state with
  | .free => c = Context.freed ∧ w = none ∧ g = none
  | .tracked => c.hold = none ∧ c.gap.Bare ∧ w = none ∧ g = none
  | .queued => c.hold = none ∧ c.gap.Bare ∧ w.isSome = true ∧ g = none
  | .offered => c.hold.isSome = true ∧ c.gap.Bare ∧ w = none ∧ g = none
  | .drawing => c.hold.isSome = true ∧ c.gap.Bare ∧ w = none ∧ g = c.hold.map (·.feeder)
  | .dropping => c.hold.isSome = true ∧ g = c.hold.map (·.feeder)
      ∧ if c.dropReason = some .gap then c.gap.Crosses w else c.gap.Bare ∧ w = none
  | .crossing => c.hold = none ∧ c.gap.Crosses w ∧ g = none
  | .faulted => c.hold = none ∧ c.gap.Bare ∧ w = none ∧ g = none

/-- Every slot fits, every wait list has its carry-over entries first, and no two contexts carry one truck. -/
structure State.Tidy (s : State) : Prop where
  fits : ∀ i, ∃ w g, s.Listed i w ∧ s.Ordered i g ∧ (s.ctx i).Fits w g
  sorted : s.Sorted
  trucks : ∀ i j, (s.ctx i).truck ≠ none → (s.ctx i).truck = (s.ctx j).truck → i = j

/-! ### A context that holds nothing -/

/-- A state that holds nothing and waits for nothing. -/
def CtxState.rests (st : CtxState) : Prop := st = .tracked ∨ st = .faulted

theorem Context.left_fits (c : Context) {st : CtxState} (h : st.rests) : (c.left st).Fits none none := by
  rcases h with rfl | rfl <;> exact ⟨rfl, GapFields.bare_clear, rfl, rfl⟩

theorem Context.freed_fits : Context.freed.Fits none none := ⟨rfl, rfl, rfl⟩

namespace Context.Fits
variable {c d : Context} {w : Option Place} {g : Option FeederId}

/-- A fitting context whose state, holding, reservation fields and drop reason stand fits. -/
theorem congr (h : c.Fits w g) (hf : c.state ≠ .free) (hs : d.state = c.state) (hh : d.hold = c.hold)
    (hg : d.gap.gapId = c.gap.gapId ∧ d.gap.target = c.gap.target ∧ d.gap.feeder = c.gap.feeder) (hr : d.dropReason = c.dropReason) :
    d.Fits w g := by
  unfold Context.Fits GapFields.Bare GapFields.Crosses at h ⊢
  rw [hs, hh, hg.1, hg.2.1, hg.2.2, hr]
  split at h
  · next hc => exact absurd hc hf
  all_goals exact h

/-- In the grant orders a context stands by its holding. -/
theorem order (h : c.Fits w g) : g = none ∨ g = c.hold.map (·.feeder) := by
  unfold Context.Fits at h
  split at h
  · exact .inl h.2.2
  · exact .inl h.2.2.2
  · exact .inl h.2.2.2
  · exact .inl h.2.2.2
  · exact .inr h.2.2.2
  · exact .inr h.2.1
  · exact .inl h.2.2
  · exact .inl h.2.2.2

theorem tracked (h : c.Fits w g) (hs : c.state = .tracked) : c.hold = none ∧ c.gap.Bare ∧ w = none ∧ g = none := by
  simpa only [Context.Fits, hs] using h

theorem faulted (h : c.Fits w g) (hs : c.state = .faulted) : c.hold = none ∧ c.gap.Bare ∧ w = none ∧ g = none := by
  simpa only [Context.Fits, hs] using h

theorem queued (h : c.Fits w g) (hs : c.state = .queued) : c.hold = none ∧ c.gap.Bare ∧ w.isSome = true ∧ g = none := by
  simpa only [Context.Fits, hs] using h

theorem offered (h : c.Fits w g) (hs : c.state = .offered) : c.hold.isSome = true ∧ c.gap.Bare ∧ w = none ∧ g = none := by
  simpa only [Context.Fits, hs] using h

theorem drawing (h : c.Fits w g) (hs : c.state = .drawing) :
    c.hold.isSome = true ∧ c.gap.Bare ∧ w = none ∧ g = c.hold.map (·.feeder) := by
  simpa only [Context.Fits, hs] using h

theorem dropping (h : c.Fits w g) (hs : c.state = .dropping) : c.hold.isSome = true ∧ g = c.hold.map (·.feeder)
    ∧ if c.dropReason = some .gap then c.gap.Crosses w else c.gap.Bare ∧ w = none := by
  simpa only [Context.Fits, hs] using h

theorem crossing (h : c.Fits w g) (hs : c.state = .crossing) : c.hold = none ∧ c.gap.Crosses w ∧ g = none := by
  simpa only [Context.Fits, hs] using h

end Context.Fits

/-! ### What a tidy state means for the statements of R22 and R71 to R73 -/

/-- A place that fits is one that the statement of a fitting context allows. -/
theorem State.contextFits_of {s : State} {i : Slot} {w : Option Place} {g : Option FeederId} (hl : s.Listed i w) (hf : (s.ctx i).Fits w g) :
    s.contextFits i := by
  unfold State.contextFits Context.Fits GapFields.Bare GapFields.Crosses at *
  rw [hl.entryCount]
  dsimp only
  cases hs : (s.ctx i).state <;> rw [hs] at hf <;> dsimp only at hf
  case free =>
    obtain ⟨hc, rfl, -⟩ := hf
    rw [hc]
    simp [Context.freed, GapFields.clear]
  case dropping =>
    obtain ⟨hh, -, hr⟩ := hf
    by_cases hg : (s.ctx i).dropReason = some .gap
    · rw [if_pos hg] at hr
      simp only [hh, hg]
      refine ⟨by simp, by simp, by simp, fun _ => ⟨by split <;> omega, fun hg => ?_⟩, by simp, by simp⟩
      rw [hr.1 hg]; rfl
    · rw [if_neg hg] at hr
      obtain ⟨hb, rfl⟩ := hr
      simp [hh, hg, hb]
  case crossing =>
    obtain ⟨hh, hr, -⟩ := hf
    simp only [hh]
    refine ⟨by simp, by simp, by simp, fun _ => ⟨by split <;> omega, fun hg => ?_⟩, by simp, by simp⟩
    rw [hr.1 hg]; rfl
  case queued =>
    obtain ⟨hh, hb, hw, -⟩ := hf
    simp [hh, hb, hw]
  all_goals
    obtain ⟨hh, hb, rfl, -⟩ := hf
    simp [hh, hb]

/-- The place of a fitting context in the wait lists. -/
theorem State.contextFits.place {s : State} {i : Slot} (h : s.contextFits i) : ∃ w, s.Listed i w := by
  obtain ⟨-, -, hq, hx, hn, -⟩ := h
  refine State.listed_of_entryCount ?_
  by_cases h1 : (s.ctx i).state = .queued
  · exact (hq h1).le
  · by_cases h2 : (s.ctx i).state = .crossing ∨ (s.ctx i).state = .dropping ∧ (s.ctx i).dropReason = some .gap
    · exact (hx h2).1
    · exact (hn h1 h2).trans_le (Nat.zero_le 1)

/-- The feeder in whose grant order a context stands. -/
def Context.orderFeeder (c : Context) : Option FeederId :=
  if c.state = .drawing ∨ c.state = .dropping then c.hold.map (·.feeder) else none

/-- A fitting context fits its place, where entries of crossings are for their targets. -/
theorem State.contextFits.fits {s : State} {i : Slot} {w : Option Place} (h : s.contextFits i) (hl : s.Listed i w)
    (ht : (s.ctx i).state ≠ .queued → ∀ p, w = some p → (s.ctx i).gap.target = some p.2.2.sect) :
    (s.ctx i).Fits w (s.ctx i).orderFeeder := by
  have hc := hl.entryCount
  have hnone : s.entryCount i = 0 → w = none := fun h0 => by
    cases w with
    | none => rfl
    | some p => rw [h0] at hc; cases hc
  have hsome : s.entryCount i = 1 → w.isSome = true := fun h1 => by
    cases w with
    | none => rw [h1] at hc; cases hc
    | some p => rfl
  obtain ⟨hh, hg, hq, hx, hn, hfree⟩ := h
  unfold Context.Fits Context.orderFeeder GapFields.Bare GapFields.Crosses
  cases hs : (s.ctx i).state <;> simp only [hs] at hh hg hq hx hn hfree ht ⊢
  case dropping =>
    by_cases hr : (s.ctx i).dropReason = some .gap
    · simp only [hr] at hx ⊢
      exact ⟨by simpa using hh, by simp, fun hf => hnone ((hx (by simp)).2 hf), ht (by simp)⟩
    · simp only [hr] at hg hn ⊢
      exact ⟨by simpa using hh, by simp, hg (by simp), hnone (hn (by simp) (by simp))⟩
  case crossing => exact ⟨by simpa using hh, ⟨fun hf => hnone ((hx (by simp)).2 hf), ht (by simp)⟩, by simp⟩
  case queued => exact ⟨by simpa using hh, hg (by simp), hsome (hq trivial), by simp⟩
  case free => exact ⟨hfree trivial, hnone (hn (by simp) (by simp)), by simp⟩
  all_goals exact ⟨by simpa using hh, hg (by simp), hnone (hn (by simp) (by simp)), by simp⟩

theorem Context.Fits.orderFeeder {c : Context} {w : Option Place} {g : Option FeederId} (h : c.Fits w g) : g = c.orderFeeder := by
  unfold Context.Fits at h
  unfold Context.orderFeeder
  split at h <;> next hs => simp_all

/-- The state is tidy where the contexts fit and the lists fit, and only there. -/
theorem State.tidy_iff (s : State) : s.Tidy ↔ s.contextsFit ∧ s.listsFit := by
  constructor
  · intro h
    refine ⟨⟨fun i => ?_, h.trucks⟩, fun f => ⟨List.nodup_iff_count_le_one.2 fun i => ?_, fun i => ?_, fun l => ⟨h.sorted f l, fun e he hq => ?_⟩⟩⟩
    · obtain ⟨w, g, hl, -, hf⟩ := h.fits i
      exact State.contextFits_of hl hf
    · obtain ⟨w, g, -, ho, -⟩ := h.fits i
      rw [ho f]
      split <;> omega
    · obtain ⟨w, g, -, ho, hf⟩ := h.fits i
      rw [← List.count_pos_iff, ho f, hf.orderFeeder]
      unfold Context.orderFeeder
      split <;> split <;> simp_all
    · obtain ⟨w, g, hl, -, hf⟩ := h.fits e.slot
      have hw := hl.mem_iff.1 ⟨he, rfl⟩
      unfold Context.Fits at hf
      split at hf <;> next hs => simp_all [GapFields.Crosses]
  · rintro ⟨⟨hc, ht⟩, hl⟩
    refine ⟨fun i => ?_, fun f l => ((hl f).2.2 l).1, ht⟩
    obtain ⟨w, hw⟩ := (hc i).place
    refine ⟨w, _, hw, fun f => ?_, (hc i).fits hw fun hq p hp => ?_⟩
    · obtain ⟨hn, hm, -⟩ := hl f
      have hi := hm i
      unfold Context.orderFeeder
      split
      · next hs =>
        by_cases hg : (s.ctx i).hold.map (·.feeder) = some f
        · rw [if_pos hg]
          exact List.count_eq_one_of_mem hn (hi.2 ⟨hs, hg⟩)
        · rw [if_neg hg]
          exact List.count_eq_zero.2 fun h => hg (hi.1 h).2
      · next hs => exact (List.count_eq_zero.2 fun h => hs (hi.1 h).1).trans (if_neg (by simp)).symm
    · obtain ⟨f, l, e⟩ := p
      obtain ⟨he, rfl⟩ := hw.mem_iff.2 hp
      exact ((hl f).2.2 l).2 e he hq

/-! ### States with the same contexts and lists -/

/-- The contexts and the lists stand. -/
structure SameSlots (s t : State) : Prop where
  lists : SameLists s t
  ctx : ∀ i, t.ctx i = s.ctx i

theorem State.Tidy.of_same {s t : State} (h : s.Tidy) (k : SameSlots s t) : t.Tidy where
  fits := fun i => by
    obtain ⟨w, g, hl, ho, hf⟩ := h.fits i
    exact ⟨w, g, k.lists.listed hl, k.lists.ordered ho, (k.ctx i).symm ▸ hf⟩
  sorted := k.lists.sorted h.sorted
  trucks := fun i j hi hj => h.trucks i j (k.ctx i ▸ hi) (k.ctx i ▸ k.ctx j ▸ hj)

namespace SameSlots
variable {s t u : State}

theorem refl (s : State) : SameSlots s s := ⟨.refl s, fun _ => rfl⟩

theorem trans (h : SameSlots s t) (k : SameSlots t u) : SameSlots s u :=
  ⟨h.lists.trans k.lists, fun i => (k.ctx i).trans (h.ctx i)⟩

theorem of_eq (hc : t.contexts = s.contexts) (hf : t.feeders = s.feeders) : SameSlots s t :=
  ⟨.of_feeders hf, fun i => by unfold State.ctx; rw [hc]⟩

theorem sendNormal (s : State) (f : Frame) : SameSlots s (s.sendNormal f) := ⟨.sendNormal s f, fun _ => by simp⟩

theorem refuse (s : State) (i : Slot) (r : Refuse) : SameSlots s (s.refuse i r) := sendNormal s _

theorem answer (s : State) (i : Slot) (g : Byte) (r : Refuse) : SameSlots s (s.answer i g r) := sendNormal s _

theorem report (s : State) (k : EventKind) (a b : Nat) : SameSlots s (s.report k a b) := ⟨.report s k a b, fun _ => by simp⟩

theorem modSec (s : State) (x : SectionId) (g : SectionRec → SectionRec) : SameSlots s (s.modSec x g) := ⟨.modSec s x g, fun _ => by simp⟩

theorem modFdr (s : State) (f : FeederId) {g : Feeder → Feeder}
    (hg : ∀ d, (g d).grantOrder = d.grantOrder ∧ (g d).wait1 = d.wait1 ∧ (g d).wait2 = d.wait2) : SameSlots s (s.modFdr f g) :=
  ⟨.modFdr s f hg, fun _ => by simp⟩

theorem sendOfr (s : State) (i : Slot) (tag : Byte) : SameSlots s (s.sendOfr i tag) := ⟨.sendOfr s i tag, fun _ => State.sendOfr_ctx _ _ _ _⟩

theorem sendGrt (s : State) (i : Slot) (tag : Byte) : SameSlots s (s.sendGrt i tag) := ⟨.sendGrt s i tag, fun _ => State.sendGrt_ctx _ _ _ _⟩

theorem sendDfr (s : State) (i : Slot) (tag : Byte) : SameSlots s (s.sendDfr i tag) := ⟨.sendDfr s i tag, fun _ => State.sendDfr_ctx _ _ _ _⟩

theorem deferIfQueued (s : State) (i : Slot) (tag : Byte) : SameSlots s (s.deferIfQueued i tag) :=
  ⟨.deferIfQueued s i tag, fun _ => State.deferIfQueued_ctx _ _ _ _⟩

theorem wake (s : State) (x : SectionId) : SameSlots s (s.wake x) := ⟨.wake s x, fun _ => State.wake_ctx _ _ _⟩

theorem fold {α : Type} {g : State → α → State} (hg : ∀ t a, SameSlots t (g t a)) (l : List α) (s : State) : SameSlots s (l.foldl g s) := by
  induction l generalizing s with
  | nil => exact refl s
  | cons a l ih => exact (hg s a).trans (ih _)

theorem eachSection {g : State → SectionId → State} (hg : ∀ t x, SameSlots t (g t x)) (s : State) : SameSlots s (s.eachSection g) :=
  fold hg _ s

theorem approachWake (s : State) (i : Slot) : SameSlots s (s.approachWake i) := by
  unfold State.approachWake
  dsimp only
  split
  · exact refl s
  · exact refl s
  · exact fold wake _ s
  · exact refl s
  · exact refl s

end SameSlots

/-! ### Changes of one slot -/

/-- One slot alone changed its context and its places, and took no truck. -/
structure Moves (i : Slot) (s t : State) : Prop where
  lists : Relists i s t
  ctx : ∀ j, j ≠ i → t.ctx j = s.ctx j
  truck : (t.ctx i).truck = (s.ctx i).truck ∨ (t.ctx i).truck = none

theorem State.Tidy.of_moves {s t : State} {i : Slot} {w : Option Place} {g : Option FeederId} (h : s.Tidy) (m : Moves i s t)
    (hl : t.Listed i w) (ho : t.Ordered i g) (hf : (t.ctx i).Fits w g) : t.Tidy where
  fits := fun j => by
    by_cases hj : j = i
    · subst hj
      exact ⟨w, g, hl, ho, hf⟩
    · obtain ⟨v, k, hl, ho, hf⟩ := h.fits j
      exact ⟨v, k, m.lists.listed j hj v hl, m.lists.ordered j hj k ho, (m.ctx j hj).symm ▸ hf⟩
  sorted := m.lists.sorted h.sorted
  trucks := by
    have ht : ∀ j, (t.ctx j).truck ≠ none → (t.ctx j).truck = (s.ctx j).truck := fun j hn => by
      by_cases hj : j = i
      · subst hj
        exact m.truck.resolve_right hn
      · rw [m.ctx j hj]
    intro j k hj hjk
    have hk : (t.ctx k).truck ≠ none := hjk ▸ hj
    rw [ht j hj, ht k hk] at hjk
    exact h.trucks j k (ht j hj ▸ hj) hjk

theorem SameSlots.moves {s t : State} (h : SameSlots s t) (i : Slot) : Moves i s t :=
  ⟨h.lists.relists i, fun j _ => h.ctx j, .inl (congrArg Context.truck (h.ctx i))⟩

namespace Moves
variable {i : Slot} {s0 s t u : State}

theorem refl (s : State) : Moves i s s := (SameSlots.refl s).moves i

theorem trans (h : Moves i s t) (k : Moves i t u) : Moves i s u :=
  ⟨h.lists.trans k.lists, fun j hj => (k.ctx j hj).trans (h.ctx j hj),
    k.truck.elim (fun e => h.truck.imp e.trans e.trans) .inr⟩

section
variable (h : Moves i s0 s)
include h

theorem same (k : SameSlots s t) : Moves i s0 t := h.trans (k.moves i)

theorem ofLists (k : Relists i s t) (hc : ∀ j, t.ctx j = s.ctx j) : Moves i s0 t :=
  h.trans ⟨k, fun j _ => hc j, .inl (congrArg Context.truck (hc i))⟩

theorem modCtx {g : Context → Context} (hg : ∀ c, (g c).truck = c.truck) : Moves i s0 (s.modCtx i g) :=
  h.trans ⟨(SameLists.modCtx s i g).relists i, fun _ hj => State.modCtx_ctx_other _ _ hj.symm, .inl (by simp [hg])⟩

theorem setHold (k : Option Holding) : Moves i s0 (s.setHold i k) :=
  h.trans ⟨(SameLists.setHold s i k).relists i, fun j hj => by rw [State.setHold_ctx, if_neg hj.symm], .inl (by simp [State.setHold_ctx])⟩

theorem setGap (k : GapFields) : Moves i s0 (s.setGap i k) :=
  h.trans ⟨(SameLists.setGap s i k).relists i, fun j hj => by rw [State.setGap_ctx, if_neg hj.symm], .inl (by simp [State.setGap_ctx])⟩

theorem leaveOrder (f : FeederId) : Moves i s0 (s.leaveOrder i f) := h.ofLists (.leaveOrder s i f) fun _ => State.leaveOrder_ctx _ _ _ _

theorem joinOrder (f : FeederId) : Moves i s0 (s.joinOrder i f) := h.ofLists (.joinOrder s i f) fun _ => State.modFdr_ctx' _ _ _ _

theorem dropEntry : Moves i s0 (s.dropEntry i) := h.ofLists (.dropEntry s i) fun _ => State.dropEntry_ctx _ _ _

theorem addEntry (f : FeederId) (l : Level) (x : SectionId) (k : Mark) : Moves i s0 (s.addEntry i f l x k) :=
  h.ofLists (.addEntry s i f l x k) fun _ => State.addEntry_ctx _ _ _ _ _ _ _

theorem moveEntry (x : SectionId) : Moves i s0 (s.moveEntry i x) := h.ofLists (.moveEntry s i x) fun _ => State.moveEntry_ctx _ _ _ _

theorem modCtxTold {g : Context → Context} (hg : ∀ c, (g c).truck = c.truck) : Moves i s0 (s.modCtxTold i g) :=
  h.trans ⟨(SameLists.modCtxTold s i g).relists i, fun j hj => by rw [State.modCtxTold_ctx, if_neg hj.symm],
    .inl (by simp [State.modCtxTold_ctx, hg])⟩

theorem releaseHold : Moves i s0 (s.releaseHold i) := by
  unfold State.releaseHold
  split
  · exact h
  · exact (h.setHold _).leaveOrder _

theorem giveUp (st : CtxState) : Moves i s0 (s.giveUp i st) := (((h.releaseHold).setGap _).dropEntry).modCtx fun _ => rfl

theorem queueAt (f : FeederId) (l : Level) (x : SectionId) (k : Mark) : Moves i s0 (s.queueAt i f l x k) := by
  unfold State.queueAt
  refine Moves.addEntry (Moves.modCtxTold h ?_) f l x k
  exact fun _ => rfl

theorem freeQuiet : Moves i s0 (s.freeQuiet i) := by
  have k := ((h.releaseHold).setGap GapFields.clear).dropEntry
  exact ⟨k.lists.trans ((SameLists.setCtx _ _ _).relists i),
    fun j hj => by rw [State.freeQuiet_ctx, if_neg hj.symm]; exact h.ctx j hj, .inr (by rw [State.freeQuiet_ctx, if_pos rfl]; rfl)⟩

theorem setWithdraw (r : Reason) (b : Bool) : Moves i s0 (s.setWithdraw i r b) := h.modCtx fun _ => rfl

theorem startDrop (r : Reason) (n : Nat) : Moves i s0 (s.startDrop i r n) := h.modCtx fun _ => rfl

theorem turnDrop (r : Reason) : Moves i s0 (s.turnDrop i r) := by
  unfold State.turnDrop
  refine Moves.setWithdraw (Moves.modCtx h ?_) _ _
  exact fun _ => rfl

theorem releaseTarget : Moves i s0 (s.releaseTarget i) := h.dropEntry.setGap _

theorem enterCrossing : Moves i s0 (s.enterCrossing i) := by
  unfold State.enterCrossing
  exact Moves.modCtx (h.releaseHold.setGap _) fun _ => rfl

end

end Moves

/-! ### The slot's own places after a change -/

namespace State.Listed
variable {s : State} {i : Slot} {w : Option Place}

theorem releaseHold (h : s.Listed i w) : (s.releaseHold i).Listed i w := by
  unfold State.releaseHold
  split
  · exact h
  · exact fun f l => (State.leaveOrder_wait _ _ _ _ _).symm ▸ (h.congr (.setHold s i none)) f l

theorem giveUp (h : s.Listed i w) (st : CtxState) : (s.giveUp i st).Listed i none :=
  ((h.releaseHold.congr (.setGap _ _ _)).dropEntry).congr (.modCtx _ _ _)

theorem freeQuiet (h : s.Listed i w) : (s.freeQuiet i).Listed i none :=
  ((h.releaseHold.congr (.setGap _ _ _)).dropEntry).congr (.setCtx _ _ _)

theorem queueAt (h : s.Listed i w) (f : FeederId) (l : Level) (x : SectionId) (k : Mark) :
    (s.queueAt i f l x k).Listed i (some (f, l, ⟨i, x, k⟩)) := (h.congr (.modCtxTold _ _ _)).addEntry f l x k

theorem enterCrossing (h : s.Listed i w) : (s.enterCrossing i).Listed i w :=
  (h.releaseHold.congr (.setGap _ _ _)).congr (.modCtx _ _ _)

end State.Listed

namespace State.Ordered
variable {s : State} {i : Slot} {g : Option FeederId}

theorem congr {t : State} (h : s.Ordered i g) (k : SameLists s t) : t.Ordered i g := k.ordered h

theorem releaseHold (h : s.Ordered i g) (hg : g = none ∨ g = (s.ctx i).hold.map (·.feeder)) : (s.releaseHold i).Ordered i none := by
  unfold State.releaseHold
  split
  · next hn =>
    rw [hn] at hg
    exact (hg.elim id id) ▸ h
  · next k hk =>
    rw [hk] at hg
    exact (h.congr (.setHold s i none)).leaveOrder hg

theorem giveUp (h : s.Ordered i g) (hg : g = none ∨ g = (s.ctx i).hold.map (·.feeder)) (st : CtxState) :
    (s.giveUp i st).Ordered i none :=
  (((h.releaseHold hg).congr (.setGap _ _ _)).dropEntry).congr (.modCtx _ _ _)

theorem freeQuiet (h : s.Ordered i g) (hg : g = none ∨ g = (s.ctx i).hold.map (·.feeder)) : (s.freeQuiet i).Ordered i none :=
  (((h.releaseHold hg).congr (.setGap _ _ _)).dropEntry).congr (.setCtx _ _ _)

theorem queueAt (h : s.Ordered i g) (f : FeederId) (l : Level) (x : SectionId) (k : Mark) : (s.queueAt i f l x k).Ordered i g :=
  (h.congr (.modCtxTold _ _ _)).addEntry f l x k

theorem enterCrossing (h : s.Ordered i g) (hg : g = none ∨ g = (s.ctx i).hold.map (·.feeder)) : (s.enterCrossing i).Ordered i none :=
  ((h.releaseHold hg).congr (.setGap _ _ _)).congr (.modCtx _ _ _)

end State.Ordered

end Sys2Proof.Machine
end

section
/-! PROOFS. What keeps a state tidy: arbitration, giving up, queueing, drops, strikes and the treatments of sections, feeders and swaps. -/

namespace Sys2Proof.Machine
open Sys2Proof

/-- The turn of a feeder is in no list. -/
theorem SameSlots.afterRound (s : State) (f : FeederId) (e : Entry) : SameSlots (s.serve f e) (s.afterRound f e) :=
  .modFdr _ _ fun _ => ⟨rfl, rfl, rfl⟩

namespace Moves
variable {i : Slot} {s0 s : State}

theorem makeOffer (h : Moves i s0 s) (f : FeederId) (x : SectionId) : Moves i s0 (s.makeOffer i f x) := by
  have k : Moves i s0 (((s.setHold i (some ⟨s.candidate i f x, f, x⟩)).dropEntry i).modCtx i (fun c =>
    { c.settled .offered with
      offerWindow := seconds s.globals.offerWindow
      offerRepeat := quarters s.globals.offerRepeat })) := Moves.modCtx ((h.setHold _).dropEntry) fun _ => rfl
  exact k.same (.sendOfr _ _ _)

theorem serveCrossing (h : Moves i s0 s) (f : FeederId) : Moves i s0 (s.serveCrossing i f) := (h.setGap _).dropEntry

end Moves

theorem State.Listed.makeOffer {s : State} {i : Slot} {w : Option Place} (h : s.Listed i w) (f : FeederId) (x : SectionId) :
    (s.makeOffer i f x).Listed i none :=
  (((h.congr (.setHold s i _)).dropEntry).congr (.modCtx _ _ _)).congr (.sendOfr _ _ _)

theorem State.Ordered.makeOffer {s : State} {i : Slot} {g : Option FeederId} (h : s.Ordered i g) (f : FeederId) (x : SectionId) :
    (s.makeOffer i f x).Ordered i g :=
  (((h.congr (.setHold s i _)).dropEntry).congr (.modCtx _ _ _)).congr (.sendOfr _ _ _)

/-! ### Crossings that give something up -/

theorem GapFields.crosses_none (g : GapFields) : g.Crosses none := ⟨fun _ => rfl, fun _ hp => nomatch hp⟩

theorem GapFields.Crosses.unreserved {g : GapFields} {w : Option Place} (h : g.Crosses w) : GapFields.Crosses { g with feeder := none } w :=
  ⟨fun hf => absurd rfl hf, h.2⟩

theorem GapFields.Bare.unreserved {g : GapFields} (h : g.Bare) : GapFields.Bare { g with feeder := none } := ⟨h.1, h.2.1, rfl⟩

/-- A context that is not QUEUED fits without its entry. -/
theorem Context.Fits.unlisted {c : Context} {w : Option Place} {g : Option FeederId} (h : c.Fits w g) (hq : c.state ≠ .queued) :
    c.Fits none g := by
  unfold Context.Fits at h ⊢
  cases hs : c.state <;> simp only [hs] at h ⊢
  case queued => exact absurd hs hq
  case dropping =>
    obtain ⟨hh, hg, hx⟩ := h
    refine ⟨hh, hg, ?_⟩
    by_cases hr : c.dropReason = some .gap
    · rw [if_pos hr]
      exact c.gap.crosses_none
    · rw [if_neg hr] at hx ⊢
      exact ⟨hx.1, trivial⟩
  case crossing => exact ⟨h.1, c.gap.crosses_none, h.2.2⟩
  all_goals
    obtain ⟨h1, h2, h3⟩ := h
    simp_all

/-- A context fits without its reservation. -/
theorem Context.Fits.unreserved {c : Context} {w : Option Place} {g : Option FeederId} (h : c.Fits w g) :
    Context.Fits { c with gap := { c.gap with feeder := none } } w g := by
  unfold Context.Fits at h ⊢
  cases hs : c.state <;> simp only [hs] at h ⊢
  case free =>
    obtain ⟨hc, hw, hg⟩ := h
    exact ⟨by rw [hc]; rfl, hw, hg⟩
  case dropping =>
    obtain ⟨hh, hg, hx⟩ := h
    refine ⟨hh, hg, ?_⟩
    by_cases hr : c.dropReason = some .gap
    · rw [if_pos hr] at hx ⊢
      exact hx.unreserved
    · rw [if_neg hr] at hx ⊢
      exact ⟨hx.1.unreserved, hx.2⟩
  case crossing => exact ⟨h.1, h.2.1.unreserved, h.2.2⟩
  all_goals
    obtain ⟨h1, h2, h3⟩ := h
    exact ⟨h1, h2.unreserved, h3⟩

namespace State.Tidy
variable {s : State} (h : s.Tidy)
include h

/-! ### One context -/

theorem modCtx {i : Slot} {g : Context → Context} (ht : ∀ c, (g c).truck = c.truck)
    (hf : ∀ w o, (s.ctx i).Fits w o → (g (s.ctx i)).Fits w o) : (s.modCtx i g).Tidy := by
  obtain ⟨w, o, hl, ho, hc⟩ := h.fits i
  exact h.of_moves ((Moves.refl s).modCtx ht) (hl.congr (.modCtx s i g)) (ho.congr (.modCtx s i g)) (by rw [State.modCtx_ctx_self]; exact hf w o hc)

/-- A change of fields that say nothing of what a context holds. -/
theorem modCtx_aside {i : Slot} {g : Context → Context} (hi : (s.ctx i).state ≠ .free) (ht : ∀ c, (g c).truck = c.truck)
    (hs : ∀ c, (g c).state = c.state ∧ (g c).hold = c.hold ∧ (g c).gap = c.gap ∧ (g c).dropReason = c.dropReason) : (s.modCtx i g).Tidy :=
  h.modCtx ht fun _ _ hc => by
    obtain ⟨hs, hh, hg, hr⟩ := hs (s.ctx i)
    exact hc.congr hi hs hh (by rw [hg]; exact ⟨rfl, rfl, rfl⟩) hr

theorem setWithdraw {i : Slot} (hi : (s.ctx i).state ≠ .free) (r : Reason) (b : Bool) : (s.setWithdraw i r b).Tidy :=
  h.modCtx_aside hi (fun _ => rfl) fun _ => ⟨rfl, rfl, rfl, rfl⟩

/-- Gap fields that have the reservation and the target as they were. -/
theorem setGap_aside {i : Slot} {k : GapFields} (hi : (s.ctx i).state ≠ .free)
    (hk : k.gapId = (s.ctx i).gap.gapId ∧ k.target = (s.ctx i).gap.target ∧ k.feeder = (s.ctx i).gap.feeder) : (s.setGap i k).Tidy := by
  obtain ⟨w, o, hl, ho, hc⟩ := h.fits i
  refine h.of_moves ((Moves.refl s).setGap k) (hl.congr (.setGap s i k)) (ho.congr (.setGap s i k)) ?_
  rw [State.setGap_ctx, if_pos rfl]
  exact hc.congr hi rfl rfl hk rfl

/-! ### Arbitration -/

theorem serve {f : FeederId} {e : Entry} (hn : s.nextEntry f = some e) : (s.serve f e).Tidy := by
  obtain ⟨w, g, hl, ho, hc⟩ := h.fits e.slot
  have hw := State.nextEntry_waits hn
  unfold Context.waits at hw
  rw [Bool.or_eq_true, beq_iff_eq, beq_iff_eq] at hw
  rcases hw with hq | hx
  · rw [State.serve_queued hq]
    obtain ⟨-, hb, -, rfl⟩ := hc.queued hq
    refine h.of_moves ((Moves.refl s).makeOffer f e.sect) (hl.makeOffer f e.sect) (ho.makeOffer f e.sect) ?_
    rw [State.makeOffer_ctx, if_pos rfl]
    exact ⟨rfl, hb, rfl, rfl⟩
  · rw [State.serve_crossing hx]
    obtain ⟨hh, -, rfl⟩ := hc.crossing hx
    refine h.of_moves ((Moves.refl s).serveCrossing f) (hl.congr (.setGap s _ _)).dropEntry (ho.congr (.setGap s _ _)).dropEntry ?_
    rw [State.serveCrossing_ctx, if_pos rfl]
    unfold Context.Fits
    simp only [hx]
    exact ⟨hh, ⟨fun _ => rfl, fun _ hp => nomatch hp⟩, trivial⟩

theorem arbitrate (f : FeederId) : (s.arbitrate f).Tidy :=
  State.arbitrate_keeps f (fun _ e hn _ h => (serve h hn).of_same (.afterRound _ f e)) h

theorem arbitrateOn (w : FeederId → Bool) : (s.arbitrateOn w).Tidy :=
  State.arbitrateOn_keeps (fun _ f e _ hn _ h => (serve h hn).of_same (.afterRound _ f e)) h

theorem arbitrateAll : s.arbitrateAll.Tidy := h.arbitrateOn _

theorem arbitrateSection (x : SectionId) : (s.arbitrateSection x).Tidy := by
  unfold State.arbitrateSection
  split
  · exact h.arbitrate _
  · exact h

/-! ### Folds -/

omit h in
theorem fold {α : Type} {g : State → α → State} (hg : ∀ t a, State.Tidy t → State.Tidy (g t a)) (l : List α) :
    ∀ {s : State}, s.Tidy → (l.foldl g s).Tidy := by
  induction l with
  | nil => exact id
  | cons a l ih => exact fun h => ih (hg _ a h)

theorem eachSlot {g : State → Slot → State} (hg : ∀ t i, State.Tidy t → State.Tidy (g t i)) : (s.eachSlot g).Tidy := fold hg _ h

/-! ### Giving up and queueing -/

theorem giveUp (i : Slot) {st : CtxState} (hst : st.rests) : (s.giveUp i st).Tidy := by
  obtain ⟨w, o, hl, ho, hc⟩ := h.fits i
  refine h.of_moves ((Moves.refl s).giveUp st) (hl.giveUp st) (ho.giveUp hc.order st) ?_
  rw [State.giveUp_self]
  exact (s.ctx i).left_fits hst

theorem endHolding (i : Slot) {st : CtxState} (hst : st.rests) : (s.endHolding i st).Tidy := (h.giveUp i hst).arbitrateOn _

omit h in
theorem rests_ne_free {st : CtxState} (hst : st.rests) : st ≠ .free := by rcases hst with rfl | rfl <;> decide

theorem withdrawNow (i : Slot) (r : Reason) {st : CtxState} (hst : st.rests) : (s.withdrawNow i r st).Tidy :=
  setWithdraw (h.giveUp i hst) (by rw [State.giveUp_self]; exact rests_ne_free hst) r true

theorem freeQuiet (i : Slot) : (s.freeQuiet i).Tidy := by
  obtain ⟨w, o, hl, ho, hc⟩ := h.fits i
  refine h.of_moves (Moves.refl s).freeQuiet hl.freeQuiet (ho.freeQuiet hc.order) ?_
  rw [State.freeQuiet_ctx, if_pos rfl]
  exact Context.freed_fits

theorem freeCtx (i : Slot) : (s.freeCtx i).Tidy := (h.freeQuiet i).arbitrateOn _

theorem queueAt {i : Slot} (hs : (s.ctx i).state = .tracked ∨ (s.ctx i).state = .queued) (f : FeederId) (l : Level) (x : SectionId) (k : Mark) :
    (s.queueAt i f l x k).Tidy := by
  obtain ⟨w, o, hl, ho, hc⟩ := h.fits i
  have hb : (s.ctx i).hold = none ∧ (s.ctx i).gap.Bare ∧ o = none := by
    rcases hs with hs | hs
    · obtain ⟨hh, hb, -, ho⟩ := hc.tracked hs; exact ⟨hh, hb, ho⟩
    · obtain ⟨hh, hb, -, ho⟩ := hc.queued hs; exact ⟨hh, hb, ho⟩
  obtain ⟨hh, hb, rfl⟩ := hb
  refine h.of_moves ((Moves.refl s).queueAt f l x k) (hl.queueAt f l x k) (ho.queueAt f l x k) ?_
  rw [State.queueAt_ctx, if_pos rfl]
  exact ⟨hh, hb, rfl, rfl⟩

/-- The entry of a QUEUED context moves to another section. -/
theorem moveEntry {i : Slot} (hs : (s.ctx i).state = .queued) (x : SectionId) : (s.moveEntry i x).Tidy := by
  obtain ⟨w, o, hl, ho, hc⟩ := h.fits i
  obtain ⟨hh, hb, hw, rfl⟩ := hc.queued hs
  obtain ⟨⟨f, l, e⟩, rfl⟩ := Option.isSome_iff_exists.1 hw
  refine h.of_moves ((Moves.refl s).moveEntry x) (hl.moveEntry x) (ho.moveEntry x) ?_
  rw [State.moveEntry_ctx]
  unfold Context.Fits
  simp only [hs]
  exact ⟨hh, hb, rfl, trivial⟩

theorem rehome {i : Slot} (hs : (s.ctx i).state = .queued) : (s.rehome i).Tidy := by
  unfold State.rehome
  split
  · exact h
  · split
    · exact (h.giveUp i (.inl rfl)).of_same (.refuse _ _ _)
    · split
      · exact (h.moveEntry hs _).of_same (.wake _ _)
      · exact (h.queueAt (.inr hs) _ _ _ _).of_same (.wake _ _)

/-! ### Drops -/

theorem startDrop {i : Slot} (hs : (s.ctx i).state = .drawing) {r : Reason} (hr : r ≠ .gap) (n : Nat) : (s.startDrop i r n).Tidy :=
  h.modCtx (fun _ => rfl) fun w o hc => by
    obtain ⟨hh, hb, hw, ho⟩ := hc.drawing hs
    exact ⟨hh, ho, by rw [if_neg (by simpa using hr)]; exact ⟨hb, hw⟩⟩

theorem dropEntry {i : Slot} (hq : (s.ctx i).state ≠ .queued) : (s.dropEntry i).Tidy := by
  obtain ⟨w, o, hl, ho, hc⟩ := h.fits i
  refine h.of_moves ((Moves.refl s).dropEntry) hl.dropEntry ho.dropEntry ?_
  rw [State.dropEntry_ctx]
  exact hc.unlisted hq

/-- A crossing gives up its reservation. -/
theorem unreserve (i : Slot) : (s.setGap i { (s.ctx i).gap with feeder := none }).Tidy := by
  obtain ⟨w, o, hl, ho, hc⟩ := h.fits i
  refine h.of_moves ((Moves.refl s).setGap _) (hl.congr (.setGap s _ _)) (ho.congr (.setGap s _ _)) ?_
  rw [State.setGap_ctx, if_pos rfl]
  exact hc.unreserved

/-- A crossing may give up its reservation, and then its entry. -/
theorem stripped {i : Slot} (hq : (s.ctx i).state ≠ .queued) (b : Bool) (k : State → Bool) :
    let t := if b then s.setGap i { (s.ctx i).gap with feeder := none } else s
    (if k t then t.dropEntry i else t).Tidy := by
  intro t
  have h1 : t.Tidy ∧ (t.ctx i).state ≠ .queued := by
    cases b
    · exact ⟨h, hq⟩
    · refine ⟨h.unreserve i, ?_⟩
      rw [show t = s.setGap i { (s.ctx i).gap with feeder := none } from rfl, State.setGap_ctx, if_pos rfl]
      exact hq
  split
  · exact h1.1.dropEntry h1.2
  · exact h1.1

theorem enterCrossing {i : Slot} (hs : (s.ctx i).state = .dropping) (hr : (s.ctx i).dropReason = some .gap) : (s.enterCrossing i).Tidy := by
  obtain ⟨w, o, hl, ho, hc⟩ := h.fits i
  obtain ⟨-, -, hx⟩ := hc.dropping hs
  rw [if_pos hr] at hx
  refine h.of_moves ((Moves.refl s).enterCrossing) hl.enterCrossing (ho.enterCrossing hc.order) ?_
  rw [State.enterCrossing_ctx, if_pos rfl]
  exact ⟨rfl, hx, rfl⟩

theorem redirectDrop {i : Slot} (hs : (s.ctx i).state = .dropping) {r : Reason} (hr : r ≠ .gap) : (s.redirectDrop i r).Tidy := by
  obtain ⟨w, o, hl, ho, hc⟩ := h.fits i
  obtain ⟨hh, hg, hx⟩ := hc.dropping hs
  have hr' : ¬(some r = some Reason.gap) := by simpa using hr
  have hc' := State.redirectDrop_ctx s i r i
  unfold State.redirectDrop at hc' ⊢
  split
  · refine h.of_moves (((Moves.refl s).releaseTarget).turnDrop r)
      (((hl.dropEntry.congr (.setGap _ _ _)).congr (.modCtx _ _ _)).congr (.modCtx _ _ _))
      (((ho.dropEntry.congr (.setGap _ _ _)).congr (.modCtx _ _ _)).congr (.modCtx _ _ _)) ?_
    rw [State.turnDrop_ctx, if_pos rfl, State.releaseTarget_ctx, if_pos rfl]
    unfold Context.Fits
    simp only [hs, if_neg hr']
    exact ⟨hh, hg, GapFields.bare_clear, trivial⟩
  · next hd =>
    have hng : (s.ctx i).dropReason ≠ some .gap := fun hg => hd ((Context.dropsForGap_iff _).2 ⟨hs, hg⟩)
    rw [if_neg hng] at hx
    refine h.of_moves ((Moves.refl s).turnDrop r) ((hl.congr (.modCtx _ _ _)).congr (.modCtx _ _ _))
      ((ho.congr (.modCtx _ _ _)).congr (.modCtx _ _ _)) ?_
    rw [State.turnDrop_ctx, if_pos rfl]
    unfold Context.Fits
    simp only [hs, if_neg hr']
    exact ⟨hh, hg, hx⟩

/-! ### Strikes -/

theorem faultContext (i : Slot) : (s.faultContext i).Tidy := by
  unfold State.faultContext
  split
  · next hs => exact h.startDrop hs (by decide) _
  · next hs => exact h.redirectDrop hs (by decide)
  · exact h.withdrawNow i _ (.inr rfl)
  · exact h.giveUp i (.inr rfl)
  · exact h.giveUp i (.inr rfl)
  · exact h.giveUp i (.inr rfl)
  · exact h
  · exact h

theorem faultLate (i : Slot) : (s.faultLate i).Tidy := by
  unfold State.faultLate
  split
  · exact h.giveUp i (.inr rfl)
  · exact h.faultContext i

theorem strikeBy {i : Slot} (hi : (s.ctx i).state ≠ .free) {treat : State → State} (ht : ∀ t, State.Tidy t → (treat t).Tidy) :
    (s.strikeBy i treat).Tidy := by
  have h1 : (s.modCtx i (fun c => { c with strikes := strikeCount c.strikes s.globals.strikeThreshold })).Tidy :=
    h.modCtx_aside hi (fun _ => rfl) fun _ => ⟨rfl, rfl, rfl, rfl⟩
  unfold State.strikeBy
  dsimp only
  split
  · exact ht _ (h1.of_same (.report _ _ _ _))
  · split
    · exact h1.of_same (.report _ _ _ _)
    · exact h1

theorem strikeQuiet {i : Slot} (hi : (s.ctx i).state ≠ .free) : (s.strikeQuiet i).Tidy := h.strikeBy hi fun _ k => k.faultContext i

theorem strikeLate {i : Slot} (hi : (s.ctx i).state ≠ .free) : (s.strikeLate i).Tidy := by
  have h1 : (s.strikeBy i (fun t => t.faultLate i)).Tidy := h.strikeBy hi fun _ k => k.faultLate i
  unfold State.strikeLate
  dsimp only
  split
  · exact h1.arbitrateOn _
  · exact h1

theorem strike {i : Slot} (hi : (s.ctx i).state ≠ .free) : (s.strike i).Tidy := by
  have h1 := h.strikeQuiet hi
  unfold State.strike
  dsimp only
  split
  · exact h1.arbitrateOn _
  · exact h1

/-! ### Sections -/

theorem stripTarget {i : Slot} (hq : (s.ctx i).state ≠ .queued) (x : SectionId) : (s.stripTarget i x).Tidy :=
  h.stripped hq _ fun t => ((t.memberOf i).map (·.entry.sect)) == some x

theorem isolateContext (x : SectionId) (i : Slot) : (State.isolateContext x s i).Tidy := by
  unfold State.isolateContext
  dsimp only
  split
  · next hs =>
    split
    · exact h.startDrop hs (by decide) _
    · exact h
  · split
    · exact (h.giveUp i (.inl rfl)).of_same (.refuse _ _ _)
    · exact h
  · split
    · exact (h.giveUp i (.inl rfl)).of_same (.refuse _ _ _)
    · exact h
  · next hs => exact h.stripTarget (by rw [hs]; decide) x
  · next hs => exact h.stripTarget (by rw [hs]; decide) x
  · exact h
  · exact h
  · exact h

theorem isolate (x : SectionId) : (s.isolate x).Tidy := by
  have h1 : ((s.lockOut x).eachSlot (State.isolateContext x)).Tidy := (h.of_same (.modSec _ _ _)).eachSlot fun _ i k => k.isolateContext x i
  unfold State.isolate
  dsimp only
  split
  · exact h1.arbitrateSection x
  · exact h1

theorem completeRaise (x : SectionId) : (s.completeRaise x).Tidy := (h.of_same (.modSec _ _ _)).arbitrateSection x

theorem failRaise (x : SectionId) (b : Bool) : (s.failRaise x b).Tidy := (h.isolate x).of_same (.report _ _ _ _)

theorem takeStatus (x : SectionId) (u : SsuStatus) : (s.takeStatus x u).Tidy := by
  have h1 : (s.modSec x (fun r => { r with ssu := some u })).Tidy := h.of_same (.modSec _ _ _)
  have ho : ∀ {t : State}, t.Tidy → (t.writeOpen x).Tidy := fun k => k.of_same (.modSec _ _ _)
  have hm : ∀ {t : State} (n : Nat), t.Tidy → (t.reportMismatch x n).Tidy := fun n k => k.of_same (.report _ _ _ _)
  unfold State.takeStatus
  dsimp only
  split
  · split
    · exact h1
    · exact hm _ (isolate h1 x)
  · split
    · exact h1
    · split
      · exact hm _ (isolate h1 x)
      · exact hm _ (h1.of_same (.modSec _ _ _))
  · split
    · exact completeRaise h1 x
    · split
      · exact failRaise h1 x true
      · exact h1
  · split
    · exact hm _ (isolate h1 x)
    · split
      · exact hm _ (ho h1)
      · exact h1
  · split
    · have h2 := h1.of_same (.modSec _ x (fun r => { r with lockout := true }))
      split
      · split
        · exact ho h2
        · exact h2
      · split
        · exact hm _ (ho h2)
        · exact hm _ h2
    · split
      · exact hm _ (ho h1)
      · exact h1

theorem stopContext (i : Slot) : (s.stopContext i).Tidy := by
  unfold State.stopContext
  split
  · exact h.withdrawNow i _ (.inl rfl)
  · refine h.withdrawNow i _ ?_
    split
    · exact .inr rfl
    · exact .inl rfl
  · exact h.withdrawNow i _ (.inl rfl)
  · exact h.withdrawNow i _ (.inl rfl)
  · exact (h.giveUp i (.inl rfl)).of_same (.refuse _ _ _)
  · exact h
  · exact h
  · exact h

theorem takeRampStop (n : Nat) : (s.takeRampStop n).Tidy := by
  have h0 : ({ s with admission := Admission.stopped } : State).Tidy := h.of_same (.of_eq rfl rfl)
  exact ((eachSlot h0 fun _ i k => k.stopContext i).of_same (.eachSection (fun _ _ => .modSec _ _ _) _)).of_same (.report _ _ _ _)

/-! ### Feeders -/

theorem stripFeeder {i : Slot} (hq : (s.ctx i).state ≠ .queued) (f : FeederId) : (s.stripFeeder i f).Tidy :=
  h.stripped hq _ fun t => t.entryOn i f

theorem tripDrop {i : Slot} (hs : (s.ctx i).state = .dropping) (r : Reason) : (s.tripDrop i r).Tidy := by
  unfold State.tripDrop
  split
  · next hg => exact setWithdraw (h.enterCrossing hs hg) (by rw [State.enterCrossing_ctx, if_pos rfl]; simp) r true
  · exact h.withdrawNow i r (.inr rfl)
  · exact h.withdrawNow i r (.inl rfl)

omit h in
theorem tripDrop_not_queued (s : State) (i : Slot) (r : Reason) : ((s.tripDrop i r).ctx i).state ≠ .queued := by
  unfold State.tripDrop
  split
  · simp [State.setWithdraw_ctx, State.enterCrossing_ctx]
  · simp [State.withdrawNow_ctx, Context.settled]
  · simp [State.withdrawNow_ctx, Context.settled]

theorem tripContext (f : FeederId) (r : Reason) (i : Slot) : (State.tripContext f r s i).Tidy := by
  unfold State.tripContext
  split
  · split
    · exact h.withdrawNow i r (.inl rfl)
    · exact h
  · next hs =>
    split
    · exact stripFeeder (h.tripDrop hs r) (tripDrop_not_queued s i r) f
    · exact h.stripFeeder (by rw [hs]; decide) f
  · split
    · exact (h.giveUp i (.inl rfl)).of_same (.refuse _ _ _)
    · exact h
  · split
    · exact (h.giveUp i (.inl rfl)).of_same (.refuse _ _ _)
    · exact h
  · next hs => exact h.stripFeeder (by rw [hs]; decide) f
  · exact h
  · exact h
  · exact h

theorem tripConsequences (f : FeederId) (r : Reason) : (s.tripConsequences f r).Tidy := by
  have h1 : (s.eachSlot (State.tripContext f r)).Tidy := h.eachSlot fun _ i k => k.tripContext f r i
  unfold State.tripConsequences
  generalize s.eachSlot (State.tripContext f r) = t at h1 ⊢
  refine arbitrateOn (h1.of_same (.modFdr _ _ ?_)) _
  exact fun _ => ⟨rfl, rfl, rfl⟩

/-! ### The swap -/

theorem reconfig (i : Slot) : (s.reconfig i).Tidy := by
  unfold State.reconfig
  split
  · next hs => exact h.startDrop hs (by decide) _
  · exact (h.giveUp i (.inl rfl)).of_same (.refuse _ _ _)
  · next hs =>
    split
    · exact h.redirectDrop hs (by decide)
    · exact h
  · exact h.withdrawNow i _ (.inl rfl)
  · exact h
  · exact h
  · exact h
  · exact h

theorem reconfigReport (i : Slot) : (s.reconfigReport i).Tidy := by
  unfold State.reconfigReport
  split
  · exact (h.reconfig i).arbitrateOn _
  · exact h

theorem reconfigAll : s.reconfigAll.Tidy := by
  unfold State.reconfigAll
  refine arbitrateOn (eachSlot h fun _ i k => ?_) _
  split
  · exact k.reconfig i
  · exact k

theorem resettle (i : Slot) : (s.resettle i).Tidy := by
  unfold State.resettle
  dsimp only
  split
  · exact h
  · next hf => exact h.modCtx_aside (by simpa using hf) (fun _ => rfl) fun _ => ⟨rfl, rfl, rfl, rfl⟩

omit h in
theorem sectionAfterSwap_same (s : State) (x : SectionId) : SameSlots s (s.sectionAfterSwap x) := by
  have ho : SameSlots s (s.openToStandby x) := .modSec _ _ _
  unfold State.sectionAfterSwap
  split
  · split
    · exact .refl s
    · exact ho
  · split
    · exact ho
    · exact .refl s
  · split
    · exact ho
    · exact .refl s
  · exact .refl s
  · exact .refl s

theorem completeSwap : s.completeSwap.Tidy := by
  have h1 : ((s.flip.eachSlot State.resettle).sectionsAfterSwap).Tidy :=
    (eachSlot (h.of_same (t := s.flip) (.of_eq rfl rfl)) fun _ i k => k.resettle i).of_same (.eachSection sectionAfterSwap_same _)
  refine eachSlot (arbitrateAll ((eachSlot h1 fun t i k => ?_).of_same (.report _ _ _ _))) fun t i k => ?_
  · unfold State.rehomeQueued
    split
    · next hq => exact k.rehome (by simpa using hq)
    · exact k
  · unfold State.tellRehomed
    split
    · exact k.of_same (.deferIfQueued _ _ _)
    · exact k

theorem evalSwap : s.evalSwap.Tidy := by
  unfold State.evalSwap
  split
  · exact h.completeSwap
  · exact h

end State.Tidy

end Sys2Proof.Machine
end

section
/-! PROOFS. What keeps a state tidy: requests, offers, grants, ends of drops, position reports and crossings. -/

namespace Sys2Proof.Machine
open Sys2Proof

namespace Moves
variable {i : Slot} {s0 s : State} (h : Moves i s0 s)
include h

theorem grantDirect (f : FeederId) (x : SectionId) (e : Timer) : Moves i s0 (s.grantDirect i f x e) := by
  unfold State.grantDirect
  refine Moves.modCtx ((h.setHold _).joinOrder f) ?_
  exact fun _ => rfl

theorem askForCrossing : Moves i s0 (s.askForCrossing i) := by
  unfold State.askForCrossing
  refine Moves.modCtx h ?_
  exact fun _ => rfl

theorem tryReserve : Moves i s0 (s.tryReserve i) := by
  unfold State.tryReserve
  split
  · exact h
  · split
    · exact h
    · split
      · exact h.setGap _
      · exact h.addEntry _ _ _ _

end Moves

/-! ### The reservation attempt (R92) -/

/-- The attempt leaves the context, but for its reservation. -/
theorem State.tryReserve_ctx (s : State) (i : Slot) :
    ∃ f, (s.tryReserve i).ctx i = { s.ctx i with gap := { (s.ctx i).gap with feeder := f } } := by
  have hn : s.ctx i = { s.ctx i with gap := { (s.ctx i).gap with feeder := (s.ctx i).gap.feeder } } := rfl
  unfold State.tryReserve
  split
  · exact ⟨_, hn⟩
  · split
    · exact ⟨_, hn⟩
    · split
      · exact ⟨_, (State.setGap_ctx _ _ _ _).trans (if_pos rfl)⟩
      · exact ⟨_, (State.addEntry_ctx _ _ _ _ _ _ _).trans hn⟩

/-- The attempt, without an entry and a reservation before, leaves one of them or neither. -/
theorem State.tryReserve_crosses {s : State} {i : Slot} (hl : s.Listed i none) (hn : (s.ctx i).gap.feeder = none) :
    ∃ w, (s.tryReserve i).Listed i w ∧ ((s.tryReserve i).ctx i).gap.Crosses w := by
  have h0 : ∃ w, s.Listed i w ∧ (s.ctx i).gap.Crosses w := ⟨none, hl, (s.ctx i).gap.crosses_none⟩
  unfold State.tryReserve
  split
  · exact h0
  · next x hx =>
    split
    · exact h0
    · next y f hp =>
      cases Keeps.placed_sect hp
      split
      · exact ⟨none, hl.congr (.setGap s i _), GapFields.crosses_none _⟩
      · refine ⟨_, hl.addEntry _ _ _ _, ?_⟩
        rw [State.addEntry_ctx]
        refine ⟨fun hf => absurd hn hf, fun p hp => ?_⟩
        cases hp
        exact hx

theorem State.Ordered.tryReserve {s : State} {i : Slot} {g : Option FeederId} (h : s.Ordered i g) : (s.tryReserve i).Ordered i g := by
  unfold State.tryReserve
  split
  · exact h
  · split
    · exact h
    · split
      · exact h.congr (.setGap s i _)
      · exact h.addEntry _ _ _ _

namespace State.Tidy
variable {s : State} (h : s.Tidy)
include h

/-! ### Requests and grants (R45 to R57) -/

theorem setRequest {i : Slot} (hi : (s.ctx i).state ≠ .free) (t : Terms) (l : Level) : (s.setRequest i t l).Tidy :=
  h.modCtx_aside hi (fun _ => rfl) fun _ => ⟨rfl, rfl, rfl, rfl⟩

omit h in
theorem setRequest_ctx (s : State) (i : Slot) (t : Terms) (l : Level) : (s.setRequest i t l).ctx i
    = { s.ctx i with req := { tag := some t.tag, requested := t.requested, minimum := t.minimum, hold := some t.hold, level := l } } :=
  State.modCtx_ctx_self _ _ _

omit h in
theorem grantDirect_ctx (s : State) (i : Slot) (f : FeederId) (x : SectionId) (e : Timer) : (s.grantDirect i f x e).ctx i
    = { Context.settled { s.ctx i with hold := some ⟨s.candidate i f x, f, x⟩ } .drawing with
        levelAtGrant := some (s.ctx i).req.level, grantExpiry := e } := by
  unfold State.grantDirect
  rw [State.modCtx_ctx_self]
  unfold State.joinOrder
  rw [State.modFdr_ctx', State.setHold_ctx, if_pos rfl]

/-- A grant given to a slot without an entry and a place in the grant orders, its gap fields bare. -/
theorem granted {t : State} {i : Slot} (m : Moves i s t) (hl : t.Listed i none) (ho : t.Ordered i none) (hb : (t.ctx i).gap.Bare)
    (f : FeederId) (x : SectionId) (e : Timer) : (t.grantDirect i f x e).Tidy := by
  have ho' : (t.grantDirect i f x e).Ordered i (some f) := (State.Ordered.joinOrder (ho.congr (.setHold t i _)) f).congr (.modCtx _ _ _)
  have hl' : (t.grantDirect i f x e).Listed i none := by
    refine Listed.congr (s := (t.setHold i _).joinOrder i f) (fun g l => ?_) (.modCtx _ _ _)
    rw [State.joinOrder_wait]
    exact hl.congr (.setHold t i _) g l
  refine h.of_moves (m.grantDirect f x e) hl' ho' ?_
  rw [grantDirect_ctx]
  exact ⟨rfl, hb, rfl, rfl⟩

theorem acceptRequest {i : Slot} (hs : (s.ctx i).state = .tracked) (t : Terms) (l : Level) (x : SectionId) (f : FeederId) :
    (s.acceptRequest i t l x f).Tidy := by
  have h1 : ((s.setRequest i t l).wake x).Tidy := (h.setRequest (by rw [hs]; decide) t l).of_same (.wake _ _)
  have hc : (((s.setRequest i t l).wake x).ctx i).state = .tracked := by rw [State.wake_ctx, setRequest_ctx]; exact hs
  unfold State.acceptRequest
  dsimp only
  split
  · obtain ⟨w, o, hl, ho, hf⟩ := h1.fits i
    obtain ⟨-, hb, rfl, rfl⟩ := hf.tracked hc
    exact (h1.granted (.refl _) hl ho hb f x _).of_same (.sendGrt _ _ _)
  · exact ((h1.queueAt (.inl hc) f l x _).arbitrate f).of_same (.deferIfQueued _ _ _)

theorem requestFromTracked {i : Slot} (hs : (s.ctx i).state = .tracked) (t : Terms) : (s.requestFromTracked i t).Tidy := by
  unfold State.requestFromTracked
  split
  · exact h.of_same (.answer _ _ _ _)
  · split
    · exact h.of_same (.answer _ _ _ _)
    · split
      · exact h.of_same (.answer _ _ _ _)
      · exact h.acceptRequest hs _ _ _ _

theorem updateRequest {i : Slot} (hs : (s.ctx i).state = .queued) (t : Terms) : (s.updateRequest i t).Tidy := by
  unfold State.updateRequest
  split
  · exact h
  · split
    · exact ((h.giveUp i (.inl rfl)).of_same (.answer _ _ _ _)).arbitrate _
    · exact ((h.setRequest (by rw [hs]; decide) _ _).arbitrate _).of_same (.deferIfQueued _ _ _)

theorem declineAndAsk (i : Slot) (t : Terms) : (s.declineAndAsk i t).Tidy := by
  have h1 := h.giveUp i (.inl rfl)
  unfold State.declineAndAsk
  split
  · exact h
  · dsimp only
    split
    · exact (h1.of_same (.answer _ _ _ _)).arbitrate _
    · refine (arbitrate (queueAt (h1.setRequest ?_ _ _) ?_ _ _ _ _) _).of_same (.deferIfQueued _ _ _)
      · rw [State.giveUp_self]; exact nofun
      · rw [setRequest_ctx, State.giveUp_self]; exact .inl rfl

/-- A grant changes its amount or its section on its feeder. -/
theorem setHold_same {i : Slot} (hs : (s.ctx i).state = .drawing) {k : Holding} (hk : (s.ctx i).hold.map (·.feeder) = some k.feeder) :
    (s.setHold i (some k)).Tidy := by
  obtain ⟨w, o, hl, ho, hc⟩ := h.fits i
  obtain ⟨-, hb, rfl, rfl⟩ := hc.drawing hs
  refine h.of_moves ((Moves.refl s).setHold _) (hl.congr (.setHold s i _)) (ho.congr (.setHold s i _)) ?_
  rw [State.setHold_ctx, if_pos rfl]
  unfold Context.Fits
  simp only [hs]
  exact ⟨rfl, hb, trivial, hk⟩

theorem settleExpiry {i : Slot} (hi : (s.ctx i).state ≠ .free) (f : FeederId) (n : Nat) : (s.settleExpiry i f n).Tidy := by
  unfold State.settleExpiry
  split
  · exact h.modCtx_aside hi (fun _ => rfl) fun _ => ⟨rfl, rfl, rfl, rfl⟩
  · exact h

theorem renewGrant {i : Slot} (hs : (s.ctx i).state = .drawing) {k : Holding} (hk : (s.ctx i).hold = some k) (u : Terms) :
    (s.renewGrant i k u).Tidy := by
  have h1 := h.setRequest (by rw [hs]; decide : (s.ctx i).state ≠ .free) u (s.effectiveLevel i)
  have h2 : ∀ a, ((s.setRequest i u (s.effectiveLevel i)).setHold i (some { k with amount := a })).Tidy := fun a =>
    h1.setHold_same (by rw [setRequest_ctx]; exact hs) (by rw [setRequest_ctx]; exact congrArg (Option.map (·.feeder)) hk)
  have h3 : ∀ a, ((((s.setRequest i u (s.effectiveLevel i)).setHold i (some { k with amount := a })).settleExpiry i k.feeder u.hold).sendGrt
      i u.tag).Tidy := fun a =>
    ((h2 a).settleExpiry (by rw [State.setHold_ctx, if_pos rfl, setRequest_ctx]; simp [hs]) _ _).of_same (.sendGrt _ _ _)
  unfold State.renewGrant
  dsimp only
  split
  · exact (h3 _).arbitrate _
  · exact h3 _

theorem renew {i : Slot} (hs : (s.ctx i).state = .drawing) (t : Terms) : (s.renew i t).Tidy := by
  unfold State.renew
  split
  · exact h
  · next k hk =>
    split
    · exact h.of_same (.answer _ _ _ _)
    · split
      · exact h.of_same (.answer _ _ _ _)
      · exact h.renewGrant hs hk _

theorem takeDrq {i : Slot} (hi : (s.ctx i).state ≠ .free) (t : Terms) : (s.takeDrq i t).Tidy := by
  have h1 : (s.modCtx i (fun c => { c with cls := s.resolveClass c.address })).Tidy :=
    h.modCtx_aside hi (fun _ => rfl) fun _ => ⟨rfl, rfl, rfl, rfl⟩
  unfold State.takeDrq
  generalize s.modCtx i (fun c => { c with cls := s.resolveClass c.address }) = u at h1 ⊢
  dsimp only
  split
  · split
    · next hs => exact h1.requestFromTracked hs t
    · next hs =>
      split
      · exact h1.of_same (.sendDfr _ _ _)
      · exact h1.updateRequest hs t
    · split
      · exact h1.of_same (.sendOfr _ _ _)
      · exact h1.declineAndAsk i t
    · next hs =>
      split
      · exact h1.of_same (.sendGrt _ _ _)
      · exact h1.renew hs t
    · exact h1.of_same (.answer _ _ _ _)
    · exact h1.of_same (.answer _ _ _ _)
    · exact h1.of_same (.answer _ _ _ _)
    · exact h1
  · exact h1.of_same (.answer _ _ _ _)

theorem acceptOffer {i : Slot} (hs : (s.ctx i).state = .offered) {k : Holding} (hk : (s.ctx i).hold = some k) : (s.acceptOffer i k).Tidy := by
  obtain ⟨w, o, hl, ho, hc⟩ := h.fits i
  obtain ⟨-, hb, rfl, rfl⟩ := hc.offered hs
  have m : Moves i s (s.acceptOffer i k) := by
    unfold State.acceptOffer
    refine Moves.modCtx ((Moves.refl s).joinOrder _) ?_
    exact fun _ => rfl
  have hl' : (s.acceptOffer i k).Listed i none :=
    Listed.congr (s := s.joinOrder i k.feeder) (fun g l => by rw [State.joinOrder_wait]; exact hl g l) (.modCtx _ _ _)
  refine h.of_moves m hl' ((ho.joinOrder k.feeder).congr (.modCtx _ _ _)) ?_
  unfold State.acceptOffer
  rw [State.modCtx_ctx_self]
  have hj : (s.joinOrder i k.feeder).ctx i = s.ctx i := State.modFdr_ctx' _ _ _ _
  rw [hj]
  exact ⟨by show (s.ctx i).hold.isSome = true; rw [hk]; rfl, hb, rfl, by show _ = (s.ctx i).hold.map _; rw [hk]; rfl⟩

theorem takeAcc (i : Slot) (tag : Byte) : (s.takeAcc i tag).Tidy := by
  unfold State.takeAcc
  dsimp only
  split
  · split
    · next hs hk => exact (h.acceptOffer hs hk).of_same (.sendGrt _ _ _)
    · exact h.of_same (.sendGrt _ _ _)
    · exact h.of_same (.answer _ _ _ _)
  · exact h.of_same (.answer _ _ _ _)

/-! ### The end of a drop (R61, R63) -/

theorem endGapDrop {i : Slot} (hs : (s.ctx i).state = .dropping) (hr : (s.ctx i).dropReason = some .gap) : (s.endGapDrop i).Tidy :=
  (h.enterCrossing hs hr).arbitrateOn _

theorem endShedDrop {i : Slot} (hi : (s.ctx i).state ≠ .free) : (s.endShedDrop i).Tidy := by
  have h1 : (s.askForHeld i).Tidy := h.modCtx_aside hi (fun _ => rfl) fun _ => ⟨rfl, rfl, rfl, rfl⟩
  have h2 : ((s.askForHeld i).giveUp i .tracked).Tidy := h1.giveUp i (.inl rfl)
  unfold State.endShedDrop
  split
  · exact h.endHolding i (.inl rfl)
  · dsimp only
    split
    · exact (h2.of_same (.refuse _ _ _)).arbitrateOn _
    · refine (arbitrateOn ((h2.queueAt ?_ _ _ _ _).of_same (.wake _ _)) _).of_same (.deferIfQueued _ _ _)
      rw [State.giveUp_self]
      exact .inl rfl

theorem endDrop {i : Slot} (hs : (s.ctx i).state = .dropping) : (s.endDrop i).Tidy := by
  unfold State.endDrop
  split
  · next hr => exact h.endGapDrop hs hr
  · exact h.endShedDrop (by rw [hs]; decide)
  · exact h.endHolding i (.inr rfl)
  · exact h.endHolding i (.inl rfl)

theorem takeRel (i : Slot) (tag : Byte) : (s.takeRel i tag).Tidy := by
  unfold State.takeRel
  split
  · split
    · next hs =>
      exact endHolding (h.modCtx_aside (g := fun c => { c with strikes := c.strikes - 1 }) (by rw [hs]; decide) (fun _ => rfl)
        fun _ => ⟨rfl, rfl, rfl, rfl⟩) i (.inl rfl)
    · exact h.endHolding i (.inl rfl)
    · exact h.endHolding i (.inl rfl)
    · next hs => exact h.endDrop hs
    · exact h.endHolding i (.inl rfl)
    · exact h.of_same (.answer _ _ _ _)
    · exact h.of_same (.answer _ _ _ _)
    · exact h
  · exact h.of_same (.answer _ _ _ _)

/-! ### The admission engine's part of a report (R49, R55, R62, R64) -/

theorem reportQueued {i : Slot} (hs : (s.ctx i).state = .queued) : (s.reportQueued i).Tidy := by
  have h1 : ((s.rehome i).arbitrateOn (s.rehomeTouches i)).Tidy := (h.rehome hs).arbitrateOn _
  unfold State.reportQueued
  split
  · exact h
  · split
    · exact h
    · dsimp only
      split
      · exact h1.of_same (.deferIfQueued _ _ _)
      · exact h1

theorem reportOffered (i : Slot) : (s.reportOffered i).Tidy := by
  have h1 : (s.giveUp i .tracked).Tidy := h.giveUp i (.inl rfl)
  unfold State.reportOffered
  split
  · exact h
  · split
    · exact h
    · dsimp only
      split
      · exact (h1.of_same (.refuse _ _ _)).arbitrate _
      · refine (arbitrateOn ((h1.queueAt ?_ _ _ _ _).of_same (.wake _ _)) _).of_same (.deferIfQueued _ _ _)
        rw [State.giveUp_self]
        exact .inl rfl

theorem moveGrant {i : Slot} (hs : (s.ctx i).state = .drawing) {k : Holding} (hk : (s.ctx i).hold = some k) (x : SectionId) :
    (s.moveGrant i k x).Tidy := by
  have h1 : ∀ a, ((s.setHold i (some ⟨a, k.feeder, x⟩)).sendGrt i (s.ctx i).tagByte).Tidy := fun a =>
    (h.setHold_same hs (by rw [hk]; rfl)).of_same (.sendGrt _ _ _)
  unfold State.moveGrant
  dsimp only
  split
  · exact (h1 _).arbitrate _
  · exact h1 _

theorem reportDrawing {i : Slot} (hs : (s.ctx i).state = .drawing) : (s.reportDrawing i).Tidy := by
  unfold State.reportDrawing
  split
  · exact h
  · next k hk =>
    split
    · split
      · exact h
      · split
        · exact h.moveGrant hs hk _
        · exact h.startDrop hs (by decide) _
    · exact h.startDrop hs (by decide) _
    · exact h

theorem reportDropping {i : Slot} (hs : (s.ctx i).state = .dropping) : (s.reportDropping i).Tidy := by
  unfold State.reportDropping
  split
  · split
    · exact h.setWithdraw (by rw [hs]; decide) _ _
    · exact h
  · exact h.endDrop hs

theorem admissionReport (i : Slot) : (s.admissionReport i).Tidy := by
  unfold State.admissionReport
  split
  · next hs => exact h.reportQueued hs
  · exact h.reportOffered i
  · next hs => exact h.reportDrawing hs
  · next hs => exact h.reportDropping hs
  · exact h
  · exact h
  · exact h
  · exact h

/-! ### Approaches, arc risk and jumps (R91 to R95) -/

theorem approachGap {i : Slot} (hs : (s.ctx i).state = .drawing) (g : GapId) (k : Holding) : (s.approachGap i g k).Tidy := by
  obtain ⟨w, o, hl, ho, hc⟩ := h.fits i
  obtain ⟨hh, hb, rfl, rfl⟩ := hc.drawing hs
  unfold State.approachGap
  dsimp only
  generalize hu : (((s.setGap i ((s.ctx i).startCrossing g ((s.gapEntry g).approachTarget (s.ctx i).pos.heading) k.amount)).startDrop i .gap
    s.globals.gapDrop).wake ((s.gapEntry g).approachTarget (s.ctx i).pos.heading)) = u
  have hm : Moves i s u := hu ▸ (((Moves.refl s).setGap _).startDrop _ _).same (.wake _ _)
  have hlu : u.Listed i none := hu ▸ ((hl.congr (.setGap s i _)).congr (.modCtx _ _ _)).congr (.wake _ _)
  have hou : u.Ordered i ((s.ctx i).hold.map (·.feeder)) := hu ▸ ((ho.congr (.setGap s i _)).congr (.modCtx _ _ _)).congr (.wake _ _)
  have hcu : (u.ctx i).state = .dropping ∧ (u.ctx i).hold = (s.ctx i).hold ∧ (u.ctx i).dropReason = some .gap ∧ (u.ctx i).gap.feeder = none := by
    rw [← hu, State.wake_ctx, State.startDrop_ctx, if_pos rfl, State.setGap_ctx, if_pos rfl]
    exact ⟨rfl, rfl, rfl, rfl⟩
  obtain ⟨h1, h2, h3, h4⟩ := hcu
  obtain ⟨v, hlv, hx⟩ := State.tryReserve_crosses hlu h4
  have ht : (u.tryReserve i).Tidy := by
    refine h.of_moves hm.tryReserve hlv hou.tryReserve ?_
    obtain ⟨f, hf⟩ := State.tryReserve_ctx u i
    rw [hf] at hx ⊢
    unfold Context.Fits
    simp only [h1, h2, h3, if_true]
    exact ⟨hh, trivial, hx⟩
  exact ht.arbitrateOn _

theorem reportArc {i : Slot} (hi : (s.ctx i).state ≠ .free) : (s.reportArc i).Tidy := by
  have h1 : (s.report .arcRisk (s.ctx i).address.toNat (s.ctx i).pos.drawn).Tidy := h.of_same (.report _ _ _ _)
  exact h1.setGap_aside (by rw [State.report_ctx]; exact hi) ⟨rfl, rfl, rfl⟩

omit h in
theorem reportArc_state (s : State) (i : Slot) : ((s.reportArc i).ctx i).state = (s.ctx i).state := by
  unfold State.reportArc
  dsimp only
  rw [State.setGap_ctx, if_pos rfl, State.report_ctx]

theorem arcTest {i : Slot} (hi : (s.ctx i).state ≠ .free) : (s.arcTest i).Tidy := by
  unfold State.arcTest
  split
  · exact (h.reportArc hi).strike (by rw [reportArc_state]; exact hi)
  · exact h

/-- A jump begins in CROSSING, whatever its reservation attempt gives. -/
theorem beginJump {i : Slot} (hs : (s.ctx i).state = .drawing) (g : GapId) (k : Holding) :
    (s.beginJump i g k).Tidy ∧ ((s.beginJump i g k).ctx i).state = .crossing := by
  obtain ⟨w, o, hl, ho, hc⟩ := h.fits i
  obtain ⟨hh, hb, rfl, rfl⟩ := hc.drawing hs
  unfold State.beginJump
  dsimp only
  generalize hu : ((((s.setGap i ((s.ctx i).startCrossing g ((s.gapEntry g).jumpTarget k.sect (s.ctx i).pos.heading) k.amount)).enterCrossing
    i).setWithdraw i .gap true).wake ((s.gapEntry g).jumpTarget k.sect (s.ctx i).pos.heading)) = u
  have hm : Moves i s u := hu ▸ ((((Moves.refl s).setGap _).enterCrossing).setWithdraw _ _).same (.wake _ _)
  have hlu : u.Listed i none := hu ▸ (((hl.congr (.setGap s i _)).enterCrossing).congr (.modCtx _ _ _)).congr (.wake _ _)
  have hou : u.Ordered i none := by
    have h1 := (ho.congr (.setGap s i ((s.ctx i).startCrossing g ((s.gapEntry g).jumpTarget k.sect (s.ctx i).pos.heading) k.amount)))
    exact hu ▸ ((h1.enterCrossing (.inr (by rw [State.setGap_ctx, if_pos rfl]))).congr (.modCtx _ _ _)).congr (.wake _ _)
  have hcu : (u.ctx i).state = .crossing ∧ (u.ctx i).hold = none ∧ (u.ctx i).gap.feeder = none := by
    rw [← hu, State.wake_ctx, State.setWithdraw_ctx, if_pos rfl, State.enterCrossing_ctx, if_pos rfl, State.setGap_ctx, if_pos rfl]
    exact ⟨rfl, rfl, rfl⟩
  obtain ⟨h1, h2, h3⟩ := hcu
  obtain ⟨v, hlv, hx⟩ := State.tryReserve_crosses hlu h3
  obtain ⟨f, hf⟩ := State.tryReserve_ctx u i
  refine ⟨h.of_moves hm.tryReserve hlv hou.tryReserve ?_, by rw [hf]; exact h1⟩
  rw [hf] at hx ⊢
  unfold Context.Fits
  simp only [h1, h2]
  exact ⟨trivial, hx, trivial⟩

theorem jumpGap {i : Slot} (hs : (s.ctx i).state = .drawing) (g : GapId) (k : Holding) : (s.jumpGap i g k).Tidy := by
  obtain ⟨h1, hx⟩ := h.beginJump hs g k
  have hne : ((s.beginJump i g k).ctx i).state ≠ .free := by rw [hx]; decide
  unfold State.jumpGap
  dsimp only
  split
  · exact arbitrateOn ((h1.reportArc hne).strikeQuiet (by rw [reportArc_state]; exact hne)) _
  · exact h1.arbitrateOn _

/-! ### Exits (R98 to R103) -/

theorem askForCrossing {i : Slot} (hi : (s.ctx i).state ≠ .free) : (s.askForCrossing i).Tidy :=
  h.modCtx_aside hi (fun _ => rfl) fun _ => ⟨rfl, rfl, rfl, rfl⟩

theorem exitHeld (i : Slot) : (s.exitHeld i).Tidy := (h.giveUp i (.inl rfl)).of_same (.refuse _ _ _)

theorem exitQueued (i : Slot) (f : FeederId) (x : SectionId) : (s.exitQueued i f x).Tidy := by
  have h1 : (s.giveUp i .tracked).Tidy := h.giveUp i (.inl rfl)
  have hs : ((s.giveUp i .tracked).ctx i).state = .tracked := by rw [State.giveUp_self]; rfl
  unfold State.exitQueued
  exact (h1.queueAt (.inl hs) f _ x _).of_same (.wake _ _)

theorem exitGranted {i : Slot} (hs : (s.ctx i).state = .crossing) {r : Holding} (hr : (s.ctx i).gap.reserved = some r) :
    (s.exitGranted i r).Tidy := by
  obtain ⟨w, o, hl, ho, hc⟩ := h.fits i
  obtain ⟨hh, hx, rfl⟩ := hc.crossing hs
  have hn : w = none := hx.1 fun hf => by rw [reserved_none hf] at hr; cases hr
  subst hn
  unfold State.exitGranted
  dsimp only
  generalize hu : (((s.setHold i (some r)).setGap i GapFields.clear).joinOrder i r.feeder) = u
  have hm : Moves i s u := hu ▸ (((Moves.refl s).setHold _).setGap _).joinOrder _
  have hlu : u.Listed i none := hu ▸ fun f l =>
    (State.joinOrder_wait _ _ _ _ _).symm ▸ (((hl.congr (.setHold s i _)).congr (.setGap _ _ _)) f l)
  have hou : u.Ordered i (some r.feeder) := hu ▸ State.Ordered.joinOrder ((ho.congr (.setHold s i _)).congr (.setGap _ _ _)) _
  have hcu : u.ctx i = { s.ctx i with hold := some r, gap := GapFields.clear } := by
    rw [← hu]
    unfold State.joinOrder
    rw [State.modFdr_ctx', State.setGap_ctx, if_pos rfl, State.setHold_ctx, if_pos rfl]
  refine (State.Tidy.of_moves (i := i) h (Moves.modCtx hm ?_) (hlu.congr (.modCtx _ _ _)) (hou.congr (.modCtx _ _ _)) ?_).of_same (.sendGrt _ _ _)
  · exact fun _ => rfl
  · rw [State.modCtx_ctx_self, hcu]
    exact ⟨rfl, GapFields.bare_clear, rfl, rfl⟩

theorem exitReserved {i : Slot} (hs : (s.ctx i).state = .crossing) {r : Holding} (hr : (s.ctx i).gap.reserved = some r) :
    (s.exitReserved i r).Tidy := by
  unfold State.exitReserved
  split
  · exact h.exitGranted hs hr
  · split
    · exact (h.exitHeld i).arbitrate _
    · exact (arbitrate (exitQueued (h.askForCrossing (by rw [hs]; decide)) i _ _) _).of_same (.deferIfQueued _ _ _)

theorem exitEntry {i : Slot} (hs : (s.ctx i).state = .crossing) {m : Membership} (hm : s.memberOf i = some m) : (s.exitEntry i m).Tidy := by
  obtain ⟨w, o, hl, ho, hc⟩ := h.fits i
  obtain ⟨hh, hx, rfl⟩ := hc.crossing hs
  have hw := hl.of_memberOf hm
  subst hw
  unfold State.exitEntry
  split
  · exact (h.exitHeld i).arbitrate _
  · dsimp only
    refine (arbitrate (State.Tidy.of_same (State.Tidy.of_moves (i := i) h (Moves.modCtxTold ((Moves.askForCrossing (.refl s)).setGap _) ?_)
      (((hl.congr (.modCtx _ _ _)).congr (.setGap _ _ _)).congr (.modCtxTold _ _ _))
      (((ho.congr (.modCtx _ _ _)).congr (.setGap _ _ _)).congr (.modCtxTold _ _ _)) ?_) (.wake _ _)) _).of_same (.deferIfQueued _ _ _)
    · exact fun _ => rfl
    · rw [State.modCtxTold_ctx, if_pos rfl, State.setGap_ctx, if_pos rfl]
      unfold State.askForCrossing
      rw [State.modCtx_ctx_self]
      exact ⟨hh, GapFields.bare_clear, rfl, rfl⟩

theorem exitEmpty {i : Slot} (hi : (s.ctx i).state ≠ .free) (x : SectionId) : (s.exitEmpty i x).Tidy := by
  unfold State.exitEmpty
  split
  · exact (h.giveUp i (.inl rfl)).of_same (.refuse _ _ _)
  · split
    · exact h.exitHeld i
    · exact (arbitrate (exitQueued (h.askForCrossing hi) i _ _) _).of_same (.deferIfQueued _ _ _)

theorem exitTarget {i : Slot} (hs : (s.ctx i).state = .crossing) (x : SectionId) : (s.exitTarget i x).Tidy := by
  unfold State.exitTarget
  split
  · next hr => exact h.exitReserved hs hr
  · next hm => exact h.exitEntry hs hm
  · exact h.exitEmpty (by rw [hs]; decide) x

theorem dropTarget {i : Slot} (hq : (s.ctx i).state ≠ .queued) : (s.dropTarget i).Tidy := by
  have h1 := h.dropEntry hq
  have hc : (s.dropEntry i).ctx i = s.ctx i := State.dropEntry_ctx _ _ _
  have h2 := h1.unreserve i
  rw [hc] at h2
  exact h2

omit h in
/-- What a crossing that gave up its target side has: no entry, no reservation, and its state. -/
theorem dropTarget_places {w : Option Place} {i : Slot} (hl : s.Listed i w) : (s.dropTarget i).Listed i none
    ∧ (s.dropTarget i).ctx i = { s.ctx i with gap := { (s.ctx i).gap with feeder := none } } :=
  ⟨hl.dropEntry.congr (.setGap _ _ _), by unfold State.dropTarget; rw [State.setGap_ctx, if_pos rfl, State.dropEntry_ctx]⟩

theorem decideOrigin {i : Slot} (hs : (s.ctx i).state = .crossing) (hl : s.Listed i none) (x : SectionId) : (s.decideOrigin i x).Tidy := by
  unfold State.decideOrigin
  split
  · exact (h.giveUp i (.inl rfl)).of_same (.refuse _ _ _)
  · split
    · obtain ⟨w, o, -, ho, hc⟩ := h.fits i
      obtain ⟨-, -, rfl⟩ := hc.crossing hs
      unfold State.reverseGranted
      refine (h.granted ((Moves.refl s).setGap _) (hl.congr (.setGap _ _ _)) (ho.congr (.setGap _ _ _)) ?_ _ _ _).of_same (.sendGrt _ _ _)
      rw [State.setGap_ctx, if_pos rfl]
      exact GapFields.bare_clear
    · split
      · exact h.exitHeld i
      · exact (arbitrate (h.exitQueued i _ _) _).of_same (.deferIfQueued _ _ _)

end State.Tidy

/-- Arbitration leaves a slot without an entry as it is. -/
theorem State.arbitrateOn_unlisted {s : State} {i : Slot} (hl : s.Listed i none) (w : FeederId → Bool) :
    (s.arbitrateOn w).Listed i none ∧ (s.arbitrateOn w).ctx i = s.ctx i := by
  refine State.arbitrateOn_keeps (P := fun t => t.Listed i none ∧ t.ctx i = s.ctx i) (fun t f e _ hn _ ht => ?_) ⟨hl, rfl⟩
  have he : e.slot ≠ i := fun hi => nomatch ht.1.mem_iff.1 ⟨State.nextEntry_mem hn, hi⟩
  refine ⟨SameLists.listed (SameSlots.afterRound t f e).lists ?_, by rw [State.afterRound_ctx, State.serve_ctx_other he]; exact ht.2⟩
  unfold State.serve
  split
  · exact ((Moves.refl t).serveCrossing f).lists.listed i he.symm none ht.1
  · exact ((Moves.refl t).makeOffer f e.sect).lists.listed i he.symm none ht.1

namespace State.Tidy
variable {s : State} (h : s.Tidy)
include h

theorem reversal {i : Slot} (hs : (s.ctx i).state = .crossing) (x : SectionId) : (s.reversal i x).Tidy := by
  obtain ⟨w, o, hl, -, -⟩ := h.fits i
  obtain ⟨hl1, hc1⟩ := dropTarget_places hl
  obtain ⟨hl2, hc2⟩ := State.arbitrateOn_unlisted hl1 (s.targetTouches i)
  have h2 : ((s.dropTarget i).arbitrateOn (s.targetTouches i)).Tidy := (h.dropTarget (by rw [hs]; decide)).arbitrateOn _
  have hs2 : (((s.dropTarget i).arbitrateOn (s.targetTouches i)).ctx i).state = .crossing := by rw [hc2, hc1]; exact hs
  unfold State.reversal
  refine decideOrigin (h2.askForCrossing (by rw [hs2]; decide)) ?_ (hl2.congr (.modCtx _ _ _)) x
  unfold State.askForCrossing
  rw [State.modCtx_ctx_self]
  exact hs2

theorem exitInto {i : Slot} (hs : (s.ctx i).state = .crossing) (e : GapEntry) (t x : SectionId) : (s.exitInto i e t x).Tidy := by
  unfold State.exitInto
  split
  · exact h.exitTarget hs x
  · split
    · exact h.reversal hs x
    · exact h.endHolding i (.inl rfl)

theorem reportCrossing {i : Slot} (hs : (s.ctx i).state = .crossing) : (s.reportCrossing i).Tidy := by
  unfold State.reportCrossing
  dsimp only
  split
  · exact h.arcTest (by rw [hs]; decide)
  · split
    · exact h
    · exact h.exitInto hs _ _ _
  · exact h.endHolding i (.inl rfl)

theorem gapDrawing {i : Slot} (hs : (s.ctx i).state = .drawing) : (s.gapDrawing i).Tidy := by
  unfold State.gapDrawing
  dsimp only
  split
  · split
    · exact h
    · exact h.jumpGap hs _ _
  · exact h.approachGap hs _ _
  · exact h

theorem gapReport (i : Slot) : (s.gapReport i).Tidy := by
  unfold State.gapReport
  split
  · next hs => exact h.gapDrawing hs
  · next hs => exact h.arcTest (by rw [hs]; decide)
  · next hs => exact h.reportCrossing hs
  · exact h
  · exact h
  · exact h
  · exact h
  · exact h

theorem stall (i : Slot) : (s.stall i).Tidy := State.Tidy.arbitrateOn ((h.giveUp i (.inl rfl)).of_same (.report _ _ _ _)) _

end State.Tidy

end Sys2Proof.Machine
end

section
/-! PROOFS. Every step keeps the budgets, the contexts and the lists (R21, R22, R66, R67, R71 to R73). -/

namespace Sys2Proof.Machine
open Sys2Proof

/-! ### The budgets (R66, R67) -/

/-- A context whose holding and reservation are gone is freed without a change of the budgets. -/
theorem State.budgetsAgree_setCtx {s : State} {i : Slot} {c : Context} (hh : c.hold = (s.ctx i).hold)
    (hg : c.gap.reserved = (s.ctx i).gap.reserved) (h : s.budgetsAgree) : (s.setCtx i c).budgetsAgree := by
  refine budgetsAgree_of_same (s := s) (fun j => ?_) (fun f => by simp) (fun x => by simp) h
  rw [State.setCtx_ctx]
  split
  · next hj => subst hj; exact ⟨hh, hg⟩
  · exact ⟨rfl, rfl⟩

theorem State.budgetsAgree_modFdr {s : State} (f : FeederId) {g : Feeder → Feeder} (hg : ∀ d, (g d).committed = d.committed)
    (h : s.budgetsAgree) : (s.modFdr f g).budgetsAgree := by
  refine budgetsAgree_of_same (s := s) (fun j => by simp) (fun k => ?_) (fun x => by simp) h
  rw [State.modFdr_fdr]
  split
  · next hk => subst hk; exact hg _
  · rfl

theorem State.budgetsAgree_dropEntry {s : State} (i : Slot) (h : s.budgetsAgree) : (s.dropEntry i).budgetsAgree :=
  budgetsAgree_of_same (s := s) (fun j => by simp [State.dropEntry_ctx]) (fun f => State.dropEntry_committed _ _ _)
    (fun x => State.dropEntry_load _ _ _) h

theorem State.budgetsAgree_releaseHold {s : State} (i : Slot) (h : s.budgetsAgree) : (s.releaseHold i).budgetsAgree := by
  unfold State.releaseHold
  split
  · exact h
  · exact State.budgetsAgree_modFdr _ (fun _ => rfl) (budgetsAgree_setHold i none h)

/-- What freeing a slot leaves before its record is replaced. -/
theorem State.budgetsAgree_emptied {s : State} (i : Slot) {c : Context} (hh : c.hold = none) (hg : c.gap.reserved = none) (h : s.budgetsAgree) :
    ((((s.releaseHold i).setGap i GapFields.clear).dropEntry i).setCtx i c).budgetsAgree := by
  refine State.budgetsAgree_setCtx ?_ ?_ (State.budgetsAgree_dropEntry i (budgetsAgree_setGap i _ (State.budgetsAgree_releaseHold i h)))
  · rw [State.dropEntry_ctx, State.setGap_ctx, if_pos rfl, State.releaseHold_ctx, if_pos rfl]
    exact hh
  · rw [State.dropEntry_ctx, State.setGap_ctx, if_pos rfl]
    exact hg

theorem keeps_budgetsAgree : Keeps State.budgetsAgree where
  frame := fun c h => budgetsAgree_of_same (fun j => by simp [State.ctx, c.contexts]) (fun f => by simp [State.fdr, c.feeders])
    (fun x => by simp [State.load, c.loads]) h
  sendNormal := fun {s} f h => budgetsAgree_of_same (s := s) (fun j => by simp) (fun f => by simp) (fun x => by simp) h
  offerC := fun {s} f _ h => budgetsAgree_of_same (s := s) (fun j => by simp) (fun f => by simp) (fun x => by simp) h
  ctx := fun {s} i g hg h => State.budgetsAgree_setCtx (hg _).1 (hg _).2 h
  setHold := fun i h _ k => budgetsAgree_setHold i h k
  setGap := fun i g _ k => budgetsAgree_setGap i g k
  turnGrant := fun i r _ k => budgetsAgree_setGap i _ (budgetsAgree_setHold i _ k)
  freeQuiet := fun i h => State.budgetsAgree_emptied i rfl rfl h
  newcomer := fun {s} i truck k h => by
    have hc : (s.freeQuiet i).ctx i = Context.freed := by rw [State.freeQuiet_ctx, if_pos rfl]
    exact State.budgetsAgree_setCtx (by rw [hc]; rfl) (by rw [hc]; rfl) (State.budgetsAgree_emptied i rfl rfl h)
  fdr := fun f _ hg h => State.budgetsAgree_modFdr f (fun d => (hg d).1) h
  sec := fun _ _ _ _ h => h
  ring := fun _ _ _ h => h
  stored := fun _ _ h => h
  meter := fun _ _ h => h
  missed := fun _ _ h => h
  flip := fun h => h
  setSwap := fun _ _ h => h

theorem State.Vacant.of_contexts {s : State} (hc : s.contexts = Vector.replicate 48 Context.freed) (hl : s.loads = Vector.replicate 64 0)
    (hf : ∀ f, (s.fdr f).committed = 0 ∧ (s.fdr f).grantOrder = [] ∧ (s.fdr f).wait1 = [] ∧ (s.fdr f).wait2 = []) : s.Vacant where
  ctx := fun i => by simp [State.ctx, hc]
  committed := fun f => (hf f).1
  load := fun x => by simp [State.load, hl]
  order := fun f => (hf f).2.1
  waits := fun f l => by cases l; exacts [(hf f).2.2.1, (hf f).2.2.2]

theorem State.powerOn_vacant (a : Byte) (line : Bool) (m : SampleMemory) (n : Nat) (q : List Instr) : (State.powerOn a line m n q).Vacant :=
  .of_contexts rfl rfl fun f => by simp [State.fdr, State.powerOn, Feeder.reset, Feeder.resetWith]

theorem State.restarted_vacant (s : State) : s.restarted.Vacant :=
  .of_contexts rfl rfl fun f => by simp [State.fdr, State.restarted, Feeder.resetWith]

theorem keepsAll_budgetsAgree : KeepsAll State.budgetsAgree where
  toKeeps := keeps_budgetsAgree
  sendReply := fun {s} f h => budgetsAgree_of_same (s := s) (fun j => by simp) (fun f => by simp) (fun x => by simp) h
  offerRequest := fun f h => by
    unfold State.offerRequest
    split <;> exact h
  popRequest := fun _ h => h
  popNormal := fun _ h => h
  popC := fun _ h => h
  stopped := fun n h => keeps_budgetsAgree.takeRampStop_of n (fun _ _ h => h) h
  resumed := fun h => keeps_budgetsAgree.takeRampResume_of h fun _ _ _ h => h
  enabled := fun _ h => h
  poweredOn := fun _ _ => (State.powerOn_vacant ..).budgetsAgree
  restarted := fun {s} _ => s.restarted_vacant.budgetsAgree
  ticked := fun {s} h => budgetsAgree_of_same (s := s) (fun j => by rw [State.tick_ctx]; exact ⟨rfl, rfl⟩)
    (fun f => by rw [State.tick_fdr]; rfl) (fun _ => rfl) h
  setGlobals := fun _ h => h
  setBank := fun k _ h => by cases k <;> exact h
  setClasses := fun _ h => h
  setLine := fun _ h => h
  setPin := fun h => h
  descriptor := fun _ _ _ _ h => h

/-! ### Trucks come and go (R23 to R25) -/

/-- A truck without a slot is carried by no context. -/
theorem State.Tidy.truck_of_slotOf {s : State} (h : s.Tidy) {truck : Byte} (hn : s.slotOf truck = none) (j : Slot) :
    (s.ctx j).truck ≠ some truck := by
  intro ht
  have hj := List.find?_eq_none.1 hn j (mem_allSlots j)
  have hfree : (s.ctx j).state = .free := by simpa [ht] using hj
  obtain ⟨w, g, -, -, hf⟩ := h.fits j
  have hc : s.ctx j = Context.freed := by
    unfold Context.Fits at hf
    rw [hfree] at hf
    exact hf.1
  rw [hc] at ht
  cases ht

/-- A slot is given to a truck that no other context carries. -/
theorem State.Tidy.newcomer {s : State} (h : s.Tidy) (i : Slot) {truck : Byte} (k : TruckClass) (hn : ∀ j, (s.ctx j).truck ≠ some truck) :
    ((s.freeQuiet i).setCtx i (Context.newcomer truck k)).Tidy := by
  have hq := h.freeQuiet i
  have hlist := SameLists.setCtx (s.freeQuiet i) i (Context.newcomer truck k)
  have hfree : (s.freeQuiet i).ctx i = Context.freed := by rw [State.freeQuiet_ctx, if_pos rfl]
  have hc : ∀ j, j ≠ i → ((s.freeQuiet i).setCtx i (Context.newcomer truck k)).ctx j = (s.freeQuiet i).ctx j := fun j hj => by
    rw [State.setCtx_ctx, if_neg hj.symm]
  have hi : ((s.freeQuiet i).setCtx i (Context.newcomer truck k)).ctx i = Context.newcomer truck k := by rw [State.setCtx_ctx, if_pos rfl]
  have ho : ∀ j, ((s.freeQuiet i).ctx j).truck ≠ some truck := fun j => by
    rw [State.freeQuiet_ctx]
    split
    · exact nofun
    · exact hn j
  refine ⟨fun j => ?_, hlist.sorted hq.sorted, fun j l hj hjl => ?_⟩
  · obtain ⟨w, g, hl, ho, hf⟩ := hq.fits j
    refine ⟨w, g, hlist.listed hl, hlist.ordered ho, ?_⟩
    by_cases hj : j = i
    · subst hj
      rw [hfree] at hf
      obtain ⟨-, rfl, rfl⟩ := hf
      rw [hi]
      exact ⟨rfl, GapFields.bare_clear, rfl, rfl⟩
    · rw [hc j hj]
      exact hf
  · by_cases hji : j = i
    · by_cases hli : l = i
      · rw [hji, hli]
      · rw [hji, hi, hc l hli] at hjl
        exact absurd hjl.symm (ho l)
    · by_cases hli : l = i
      · rw [hli, hi, hc j hji] at hjl
        exact absurd hjl (ho j)
      · rw [hc j hji] at hj hjl
        rw [hc l hli] at hjl
        exact hq.trucks j l hj hjl

namespace State.Tidy
variable {s : State} (h : s.Tidy)
include h

/-! ### Position reports (R23, R26, R28) -/

theorem heard {i : Slot} (hi : (s.ctx i).state ≠ .free) : (s.heard i).Tidy :=
  h.modCtx_aside hi (fun _ => rfl) fun _ => ⟨rfl, rfl, rfl, rfl⟩

theorem settle {i : Slot} (hi : (s.ctx i).state ≠ .free) (p : Report) (r : Resolution) : (s.settle i p r).Tidy :=
  h.modCtx_aside hi (fun _ => rfl) fun _ => ⟨rfl, rfl, rfl, rfl⟩

theorem countOverdraw (i : Slot) : (s.countOverdraw i).Tidy := by
  unfold State.countOverdraw
  dsimp only
  split
  · next hs _ =>
    have hi : (s.ctx i).state ≠ .free := by rw [hs]; decide
    have h1 := h.of_same (.report _ .overdraw (s.ctx i).address.toNat (s.ctx i).pos.drawn)
    split
    · split
      · refine strike (h1.modCtx_aside (g := fun c => { c with overdraw := 0 }) (by rw [State.report_ctx]; exact hi) (fun _ => rfl)
          fun _ => ⟨rfl, rfl, rfl, rfl⟩) ?_
        rw [State.modCtx_ctx_self, State.report_ctx]
        exact hi
      · exact h.modCtx_aside hi (fun _ => rfl) fun _ => ⟨rfl, rfl, rfl, rfl⟩
    · exact h.modCtx_aside hi (fun _ => rfl) fun _ => ⟨rfl, rfl, rfl, rfl⟩
  · exact h

omit h in
theorem offerC_same (s : State) (f : Frame) : SameSlots s (s.offerC f) := ⟨.of_fdr fun _ => by simp, fun _ => by simp⟩

theorem psaFor (i : Slot) (p : Report) (r : Resolution) : (s.psaFor i p r).Tidy := by
  unfold State.psaFor
  dsimp only
  split
  · exact h.of_same (offerC_same _ _)
  · exact h

theorem psaWithout (truck : Byte) (p : Report) (r : Resolution) : (s.psaWithout truck p r).Tidy := by
  unfold State.psaWithout
  split
  · exact h.of_same (offerC_same _ _)
  · exact h

theorem actOnReport (i : Slot) (p : Report) (r : Resolution) : (s.actOnReport i p r).Tidy :=
  ((((((h.countOverdraw i).admissionReport i).gapReport i).reconfigReport i).of_same (.approachWake _ _)).psaFor i p r).evalSwap

theorem takeReport {i : Slot} (hi : (s.ctx i).state ≠ .free) (p : Report) : (s.takeReport i p).Tidy := by
  have h1 : ((s.heard i).settle i p (s.resolve p.chainage)).Tidy :=
    (h.heard hi).settle (by unfold State.heard; rw [State.modCtx_ctx_self]; exact hi) p _
  unfold State.takeReport
  dsimp only
  split
  · exact ((h1.freeCtx i).psaWithout _ _ _).evalSwap
  · exact h1.actOnReport i p _

theorem admitTruck (i : Slot) {truck : Byte} (hn : ∀ j, (s.ctx j).truck ≠ some truck) (p : Report) (r : Resolution) :
    (s.admitTruck i truck p r).Tidy := by
  have h1 := h.newcomer i (s.resolveClass truck) hn
  have hc : ((s.freeQuiet i).setCtx i (Context.newcomer truck (s.resolveClass truck))).ctx i = Context.newcomer truck (s.resolveClass truck) := by
    rw [State.setCtx_ctx, if_pos rfl]
  refine actOnReport (settle (h1.heard (by rw [hc]; exact nofun)) ?_ p r) i p r
  unfold State.heard
  rw [State.modCtx_ctx_self, hc]
  exact nofun

omit h in
/-- Freeing a slot gives no truck a context. -/
theorem freeCtx_trucks (i : Slot) {truck : Byte} (hn : ∀ j, (s.ctx j).truck ≠ some truck) (j : Slot) :
    ((s.freeCtx i).ctx j).truck ≠ some truck := by
  unfold State.freeCtx
  rw [((Waited.arbitrateOn (s.freeQuiet i) (s.touches i)).stays j).truck, State.freeQuiet_ctx]
  split
  · exact nofun
  · exact hn j

theorem takeStranger {truck : Byte} (hn : s.slotOf truck = none) (p : Report) : (s.takeStranger truck p).Tidy := by
  have ht := h.truck_of_slotOf hn
  unfold State.takeStranger
  dsimp only
  split
  · exact (h.psaWithout _ _ _).evalSwap
  · split
    · exact h.admitTruck _ ht p _
    · exact (h.freeCtx _).admitTruck _ (freeCtx_trucks _ ht) p _
    · exact evalSwap (psaWithout ((h.of_same (.sendNormal _ _)).of_same (.report _ _ _ _)) _ _ _)

theorem dispatchPsn (truck : Byte) (p : Report) : (s.dispatchPsn truck p).Tidy := by
  unfold State.dispatchPsn
  split
  · next hi => exact h.takeReport (State.slotOf_spec hi).1 p
  · next hn => exact h.takeStranger hn p

/-! ### Requests, silence and orders -/

omit h in
theorem heard_state (s : State) (i : Slot) : ((s.heard i).ctx i).state = (s.ctx i).state := by
  unfold State.heard
  rw [State.modCtx_ctx_self]

theorem dispatchDrq (truck : Byte) (u : Terms) : (s.dispatchDrq truck u).Tidy := by
  unfold State.dispatchDrq
  split
  · next hi =>
    have hf := (State.slotOf_spec hi).1
    exact ((h.heard hf).takeDrq (by rw [heard_state]; exact hf) u).evalSwap
  · exact h.of_same (.sendNormal _ _)

theorem dispatchAcc (truck tag : Byte) : (s.dispatchAcc truck tag).Tidy := by
  unfold State.dispatchAcc
  split
  · next hi => exact ((h.heard (State.slotOf_spec hi).1).takeAcc _ tag).evalSwap
  · exact h.of_same (.sendNormal _ _)

theorem dispatchRel (truck tag : Byte) : (s.dispatchRel truck tag).Tidy := by
  unfold State.dispatchRel
  split
  · next hi => exact ((h.heard (State.slotOf_spec hi).1).takeRel _ tag).evalSwap
  · exact h.of_same (.sendNormal _ _)

/-- In a tidy state a FREE slot runs no timer. -/
theorem not_free_of {i : Slot} {timer : Context → Timer} (hz : timer Context.freed = none) (ht : (timer (s.ctx i)).isSome = true) :
    (s.ctx i).state ≠ .free := by
  intro hfree
  obtain ⟨w, g, -, -, hf⟩ := h.fits i
  unfold Context.Fits at hf
  rw [hfree] at hf
  rw [hf.1, hz] at ht
  cases ht

theorem actOnSilence (i : Slot) : (s.actOnSilence i).Tidy := by
  unfold State.actOnSilence
  split
  · refine ((h.withdrawNow i _ (.inl rfl)).arbitrateOn _).strike ?_
    rw [State.arbitrateOn_ctx (by simp [State.withdrawNow_ctx, Context.settled]) (by simp [State.withdrawNow_ctx, Context.settled])]
    simp [State.withdrawNow_ctx, Context.settled]
  · exact h.endHolding i (.inl rfl)
  · exact h.endHolding i (.inl rfl)
  · exact h
  · exact h
  · split
    · exact h.freeCtx i
    · exact h
  · split
    · exact h.freeCtx i
    · exact h
  · exact h

theorem silence {i : Slot} (hi : (s.ctx i).state ≠ .free) : (s.silence i).Tidy := by
  have h1 : (s.countSilence i).Tidy := h.modCtx_aside hi (fun _ => rfl) fun _ => ⟨rfl, rfl, rfl, rfl⟩
  exact (h1.actOnSilence i).evalSwap

theorem orderLower {i : Slot} (hi : (s.ctx i).state ≠ .free) : (s.orderLower i).Tidy := by
  unfold State.orderLower
  split
  · next hs => exact h.startDrop hs (by decide) _
  · next hs =>
    split
    · exact h.setWithdraw hi _ _
    · exact (h.redirectDrop hs (by decide)).arbitrateOn _
  · exact (h.withdrawNow i _ (.inl rfl)).arbitrateOn _
  · exact (h.withdrawNow i _ (.inl rfl)).arbitrateOn _
  · exact (h.withdrawNow i _ (.inl rfl)).arbitrateOn _
  · exact h.setWithdraw hi _ _
  · exact h.setWithdraw hi _ _
  · exact h

theorem setHoldFlag {i : Slot} (hi : (s.ctx i).state ≠ .free) (b : Bool) : (s.setHoldFlag i b).Tidy :=
  h.modCtx_aside hi (fun _ => rfl) fun _ => ⟨rfl, rfl, rfl, rfl⟩

theorem endHeld (i : Slot) : (s.endHeld i).Tidy := State.Tidy.arbitrateOn ((h.giveUp i (.inl rfl)).of_same (.refuse _ _ _)) _

theorem orderHold {i : Slot} (hi : (s.ctx i).state ≠ .free) : (s.orderHold i).Tidy := by
  have h1 := h.setHoldFlag hi true
  unfold State.orderHold
  split
  · exact h
  · split
    · exact h1.endHeld i
    · exact h1.endHeld i
    · exact h1

end State.Tidy

/-- A context whose fault is cleared fits as it did (R39). -/
theorem Context.Fits.unfaulted {c d : Context} {w : Option Place} {g : Option FeederId} (h : c.Fits w g) (hf : c.state ≠ .free)
    (hs : d.state = c.unfaulted.state) (hh : d.hold = c.hold) (hg : d.gap = c.gap) (hr : d.dropReason = c.unfaulted.dropReason) :
    d.Fits w g := by
  unfold Context.Fits Context.unfaulted at *
  rw [hs, hh, hg, hr]
  cases hc : c.state <;> simp only [hc] at h hf ⊢
  case free => exact absurd rfl hf
  case dropping =>
    obtain ⟨h1, h2, h3⟩ := h
    refine ⟨h1, h2, ?_⟩
    by_cases hx : c.dropReason = some .fault
    · rw [if_pos hx, if_neg (by simp)]
      rw [if_neg (by rw [hx]; simp)] at h3
      exact h3
    · rw [if_neg hx]
      exact h3
  all_goals exact h

namespace State.Tidy
variable {s : State} (h : s.Tidy)
include h

theorem orderClearFault {i : Slot} (hi : (s.ctx i).state ≠ .free) : (s.orderClearFault i).Tidy :=
  h.modCtx (fun c => by cases hc : c.state <;> simp [Context.unfaulted, hc]) fun _ _ hc =>
    hc.unfaulted hi rfl (Keeps.unfaulted_keeps _).1 (Keeps.unfaulted_keeps _).2 rfl

theorem clearExclusion (i : Slot) : (s.clearExclusion i).Tidy := by
  unfold State.clearExclusion
  split
  · exact h
  · next hi =>
    exact h.modCtx (fun c => by cases hc : c.state <;> simp [Context.unfaulted, hc]) fun _ _ hc =>
      hc.unfaulted (by simpa using hi) rfl (Keeps.unfaulted_keeps _).1 (Keeps.unfaulted_keeps _).2 rfl

/-! ### Feeders and timers -/

theorem sectionsDown (f : FeederId) : (s.sectionsDown f).Tidy :=
  h.of_same (.eachSection (fun t x => by
    split
    · exact .modSec _ _ _
    · exact .refl _) s)

theorem stopFeeder (f : FeederId) (st : FeederState) : (s.stopFeeder f st).Tidy := by
  refine h.of_same (.modFdr _ _ ?_)
  exact fun _ => ⟨rfl, rfl, rfl⟩

theorem feederOffline (f : FeederId) : (s.feederOffline f).Tidy := by
  unfold State.feederOffline
  split
  · exact h
  · exact (((h.stopFeeder f .offline).tripConsequences f _).sectionsDown f).evalSwap

theorem feederLost (f : FeederId) : (s.feederLost f).Tidy :=
  ((((h.stopFeeder f .offline).of_same (.report _ _ _ _)).tripConsequences f _).sectionsDown f).evalSwap

theorem feederTrip (f : FeederId) : (s.feederTrip f).Tidy :=
  (((h.stopFeeder f .tripped).of_same (.report _ _ _ _)).tripConsequences f _).sectionsDown f

omit h in
theorem startPostTrip_same (s : State) (f : FeederId) : SameSlots s (s.startPostTrip f) := by
  have hr : ∀ (g : Ring → Ring), SameSlots s (s.modRing f g) := fun g => .of_eq rfl rfl
  unfold State.startPostTrip
  dsimp only
  split
  · split
    · exact (hr _).trans (.report _ _ _ _)
    · exact hr _
  · exact .refl s

omit h in
theorem countShed_same (s : State) : SameSlots s s.countShed := .of_eq rfl rfl

omit h in
theorem countLapsed_same (s : State) : SameSlots s s.countLapsed := .of_eq rfl rfl

theorem restartOverload (f : FeederId) : (s.restartOverload f).Tidy := by
  refine h.of_same (.modFdr _ _ ?_)
  exact fun _ => ⟨rfl, rfl, rfl⟩

theorem shed (f : FeederId) : (s.shed f).Tidy := by
  unfold State.shed
  split
  · next i hv =>
    have hs : (s.ctx i).state = .drawing := by
      unfold State.victim at hv
      have hnew : ∀ p, s.newest f p = some i → (s.ctx i).state = .drawing := fun p hp => by
        have hm := List.mem_of_getLast? hp
        have hd := (List.mem_filter.1 hm).2
        rw [Bool.and_eq_true, beq_iff_eq] at hd
        exact hd.1
      rcases Option.or_eq_some_iff.1 hv with h1 | ⟨-, h1⟩
      · exact hnew _ h1
      · rcases Option.or_eq_some_iff.1 h1 with h2 | ⟨-, h2⟩
        · exact hnew _ h2
        · exact hnew _ h2
    have h1 := (h.startDrop hs (r := .shed) (by decide) s.globals.shedDrop).of_same
      (.report _ .overloadShed (s.ctx i).address.toNat (s.latestCurrent f))
    exact (h1.of_same (countShed_same _)).restartOverload f
  · exact (h.of_same (.report _ _ _ _)).restartOverload f

theorem lapse {i : Slot} (hi : (s.ctx i).state ≠ .free) : (s.lapse i).Tidy := by
  unfold State.lapse
  dsimp only
  split
  · have h1 := (h.giveUp i (.inl rfl)).of_same (.report _ .offerLapsed (s.ctx i).address.toNat (((s.ctx i).hold.map (·.amount)).getD 0))
    exact ((h1.of_same (countLapsed_same _)).arbitrateOn _).evalSwap
  · exact h.modCtx_aside hi (fun _ => rfl) fun _ => ⟨rfl, rfl, rfl, rfl⟩

theorem repeatOffer {i : Slot} (hi : (s.ctx i).state ≠ .free) : (s.repeatOffer i).Tidy := by
  unfold State.repeatOffer
  split
  · exact h.lapse hi
  · split
    · refine State.Tidy.of_same (h.modCtx_aside hi ?_ ?_) (.sendOfr _ _ _)
      · exact fun _ => rfl
      · exact fun _ => ⟨rfl, rfl, rfl, rfl⟩
    · exact h.modCtx_aside hi (fun _ => rfl) fun _ => ⟨rfl, rfl, rfl, rfl⟩

theorem dropLate {i : Slot} (hi : (s.ctx i).state ≠ .free) : (s.dropLate i).Tidy := by
  by_cases hs : (s.ctx i).state = .dropping
  · rw [State.dropLate_dropping hs]
    have h1 : (s.endedLate i).Tidy := (h.of_same (.report _ _ _ _)).endDrop (by rw [State.report_ctx]; exact hs)
    refine (h1.strikeLate ?_).evalSwap
    rcases (s.endedLate_ended i).states with e | e | e | e | e <;> rw [e] <;> decide
  · unfold State.dropLate
    rw [if_neg (by simpa using hs)]
    exact h.modCtx_aside hi (fun _ => rfl) fun _ => ⟨rfl, rfl, rfl, rfl⟩

theorem expireGrant {i : Slot} (hi : (s.ctx i).state ≠ .free) : (s.expireGrant i).Tidy := by
  unfold State.expireGrant
  split
  · next hs => exact h.startDrop (by simpa using hs) (by decide) _
  · exact h.modCtx_aside hi (fun _ => rfl) fun _ => ⟨rfl, rfl, rfl, rfl⟩

theorem crossingOut {i : Slot} (hi : (s.ctx i).state ≠ .free) : (s.crossingOut i).Tidy := by
  unfold State.crossingOut
  split
  · exact (h.stall i).evalSwap
  · exact h.setGap_aside hi ⟨rfl, rfl, rfl⟩

theorem tick : s.tick.Tidy := by
  have hl : SameLists s s.tick := fun f => by
    rw [State.tick_fdr]
    exact ⟨rfl, fun l => by cases l <;> rfl⟩
  refine ⟨fun i => ?_, hl.sorted h.sorted, fun i j => by rw [State.tick_ctx, State.tick_ctx]; exact h.trucks i j⟩
  obtain ⟨w, g, hw, ho, hf⟩ := h.fits i
  refine ⟨w, g, hl.listed hw, hl.ordered ho, ?_⟩
  rw [State.tick_ctx]
  by_cases hs : (s.ctx i).state = .free
  · unfold Context.Fits at hf
    rw [hs] at hf
    obtain ⟨hc, rfl, rfl⟩ := hf
    rw [hc]
    exact Context.freed_fits
  · exact hf.congr hs rfl rfl ⟨rfl, rfl, rfl⟩ rfl

end State.Tidy

theorem State.Vacant.tidy {s : State} (h : s.Vacant) : s.Tidy := (State.tidy_iff s).2 ⟨h.contextsFit, h.listsFit⟩

theorem effects_tidy : Effects State.Tidy where
  body := fun b h => h.of_same (.of_eq b.contexts b.feeders)
  sec := fun _ _ h => h.of_same (.modSec _ _ _)
  ring := fun _ _ _ h => h.of_same (.of_eq rfl rfl)
  meter := fun _ _ h => h.of_same (.of_eq rfl rfl)
  fdr := fun f _ hg h => h.of_same (.modFdr _ f fun d => (hg d).2.2)
  admissionSet := fun _ h => h.of_same (.of_eq rfl rfl)
  psn := fun truck p h => h.dispatchPsn truck p
  drq := fun truck u h => h.dispatchDrq truck u
  acc := fun truck tag h => h.dispatchAcc truck tag
  rel := fun truck tag h => h.dispatchRel truck tag
  heard := fun hi h => h.heard (State.slotOf_spec hi).1
  sst := fun x u h => (h.takeStatus x u).evalSwap
  arbitrate := fun f h => h.arbitrate f
  abandonSwap := fun {s} h => (h.of_same (t := { s with swap := .none, swapTimer := none }) (.of_eq rfl rfl)).arbitrateAll
  timeoutSwap := fun {s} h =>
    ((h.of_same (t := { s with swap := .none, swapTimer := none }) (.of_eq rfl rfl)).of_same (.report _ _ _ _)).arbitrateAll
  isolate := fun x h => (h.isolate x).evalSwap
  offline := fun f h => h.feederOffline f
  lost := fun f h => h.feederLost f
  lower := fun hi h => (h.orderLower (State.slotOf_spec hi).1).evalSwap
  hold := fun hi h => (h.orderHold (State.slotOf_spec hi).1).evalSwap
  unhold := fun hi h => h.setHoldFlag (State.slotOf_spec hi).1 false
  clearFault := fun hi h => h.orderClearFault (State.slotOf_spec hi).1
  evict := fun {s i} h => (h.freeCtx i).evalSwap
  stop := fun n h => (h.takeRampStop n).evalSwap
  restart := fun {s} _ => s.restarted_vacant.tidy
  withdrawn := fun {s i w} hw h => by
    refine h.modCtx_aside (fun hf => ?_) (fun _ => rfl) fun _ => ⟨rfl, rfl, rfl, rfl⟩
    obtain ⟨_, _, -, -, hc⟩ := h.fits i
    unfold Context.Fits at hc
    rw [hf] at hc
    rw [hc.1] at hw
    cases hw
  silence := fun ht h => h.silence (h.not_free_of (timer := (·.silenceTimer)) rfl ht)
  expireGrant := fun ht h => h.expireGrant (h.not_free_of (timer := (·.grantExpiry)) rfl ht)
  lapse := fun ht h => h.lapse (h.not_free_of (timer := (·.offerWindow)) rfl ht)
  repeatOffer := fun ht h => h.repeatOffer (h.not_free_of (timer := (·.offerRepeat)) rfl ht)
  dropLate := fun ht h => h.dropLate (h.not_free_of (timer := (·.dropDeadline)) rfl ht)
  crossingOut := fun ht h => h.crossingOut (h.not_free_of (timer := (·.gap.crossing)) rfl ht)
  carriedOut := fun ht h => h.setGap_aside (h.not_free_of (timer := (·.gap.carried)) rfl ht) ⟨rfl, rfl, rfl⟩
  shed := fun f h => h.shed f
  raiseFails := fun x b h => (h.failRaise x b).evalSwap

theorem begins_tidy : Begins State.Tidy State.Tidy where
  unforced := fun {s} h =>
    (h.of_same (t := { s with swap := .pending, swapTimer := seconds s.globals.swapTime }) (.of_eq rfl rfl)).evalSwap
  forced := fun {s} h => (h.of_same (t := { s with swap := .pendingForced }) (.of_eq rfl rfl)).reconfigAll.evalSwap

theorem writes_tidy : Writes State.Tidy State.Tidy where
  bank := fun k b _ _ h => h.of_same (.of_eq (by cases k <;> rfl) (by cases k <;> rfl))
  classes := fun _ h => h.of_same (.of_eq rfl rfl)
  globals := fun _ h => h.of_same (.of_eq rfl rfl)
  reconfigured := fun f k h => by
    refine h.of_same (.modFdr _ f ?_)
    exact fun _ => ⟨rfl, rfl, rfl⟩
  rewritten := fun _ _ h => h.of_same (.of_eq rfl rfl)
  unexcluded := fun i h => h.clearExclusion i
  poweredOn := fun _ _ => (State.powerOn_vacant ..).tidy

end Sys2Proof.Machine

open Sys2Proof Sys2Proof.Machine

/-- Settles O12: the budgets by the primitive changes; the contexts and the lists slot by slot, by the effects of the commands. -/
theorem stepKeepsTheBudgets : Obligations.StepKeepsTheBudgets := by
  refine ⟨fun s t h hs => keepsAll_budgetsAgree.step_keeps (fun f k h => State.budgetsAgree_modFdr f (fun _ => rfl) h) (fun _ _ h => h) h hs,
    fun s t h hs => (State.tidy_iff t).1 (effects_tidy.step_keeps effects_tidy.arrives begins_tidy writes_tidy (fun f m h => ?_)
      (fun h => h.tick) ((State.tidy_iff s).2 h) hs)⟩
  exact effects_tidy.takeSample (fun _ h => h.of_same (.of_eq rfl rfl))
    (fun f h => ((h.feederTrip f).of_same (State.Tidy.startPostTrip_same _ f)).evalSwap) f m h

end

section
/-! PROOFS. No step overcommits a feeder or a section. -/

namespace Sys2Proof.Machine
open Sys2Proof

/-- `t` has come from `s0` without passing a limit: a committed current is at most what it was or the feeder's limit now, a load at
most what it was or the section's limit then or now. The limits are those of `s0` still, or no swap is pending that could change
them again. -/
structure Within (s0 t : State) : Prop where
  committed : ∀ f, (t.fdr f).committed ≤ max (s0.fdr f).committed (t.fdr f).config.limit
  loads : ∀ x, t.load x ≤ max (s0.load x) (max (s0.sectionLimit x) (t.sectionLimit x))
  limits : (∀ x, t.sectionLimit x = s0.sectionLimit x) ∨ t.swap = .none

namespace Within
variable {s0 s t : State}

theorem congr (h : Within s0 s) (hf : ∀ f, (t.fdr f).committed = (s.fdr f).committed ∧ (t.fdr f).config.limit = (s.fdr f).config.limit)
    (hx : ∀ x, t.load x = s.load x ∧ t.sectionLimit x = s.sectionLimit x) (hs : s.swap = .none → t.swap = .none) : Within s0 t where
  committed := fun f => by rw [(hf f).1, (hf f).2]; exact h.committed f
  loads := fun x => by rw [(hx x).1, (hx x).2]; exact h.loads x
  limits := h.limits.imp (fun hl x => (hx x).2.trans (hl x)) hs

/-- What goes on passes no limit (R68). -/
theorem onward (h : Within s0 s) (k : Onward s t) : Within s0 t := by
  have hl : t.limitIn = s.limitIn := State.limitIn_congr k.bankA k.bankB
  have same : t.active = s.active → ∀ x, t.sectionLimit x = s.sectionLimit x := fun ha x => by
    show t.limitIn t.active x = s.limitIn s.active x
    rw [hl, ha]
  refine ⟨fun f => ?_, fun x => ?_, ?_⟩
  · obtain ⟨hc, hn⟩ := k.records f
    have hf := h.committed f
    rw [hc]
    omega
  · have kx : t.load x ≤ max (s.load x) (max (s.sectionLimit x) (t.sectionLimit x)) := by
      have hk := k.loads x
      rw [← hl] at hk
      rwa [← show s.sectionLimit x = t.limitIn s.active x by rw [hl]; rfl] at hk
    have hx := h.loads x
    rcases h.limits with hs | hs
    · rw [hs x] at hx kx
      omega
    · rw [same (k.swap_none hs).2.2] at kx ⊢
      omega
  · rcases k.swapping with ⟨hs, -, ha⟩ | ⟨-, hs, -⟩
    · exact h.limits.imp (fun h x => (same ha x).trans (h x)) hs.trans
    · exact .inr hs

theorem body (k : SameBody s t) (h : Within s0 s) : Within s0 t :=
  h.congr (fun f => by simp only [State.fdr, k.feeders, and_self])
    (fun x => ⟨by simp only [State.load, k.loads], by
      show t.limitIn t.active x = s.limitIn s.active x
      rw [State.limitIn_congr k.bankA k.bankB, k.active]⟩)
    k.swap.trans

theorem of_sameBody (k : SameBody s0 t) : Within s0 t :=
  body k ⟨fun _ => Nat.le_max_left _ _, fun _ => Nat.le_max_left _ _, .inl fun _ => rfl⟩

theorem modFdr (h : Within s0 s) (f : FeederId) (g : Feeder → Feeder)
    (hg : ∀ d, (g d).committed = d.committed ∧ (g d).config.limit = d.config.limit) : Within s0 (s.modFdr f g) :=
  h.congr (fun k => by
    rw [State.modFdr_fdr]
    split
    · next e => subst e; exact hg _
    · exact ⟨rfl, rfl⟩) (fun _ => ⟨rfl, rfl⟩) id

/-- With nothing committed and no swap pending no limit is passed. -/
theorem of_vacant (hf : ∀ f, (t.fdr f).committed = 0) (hx : ∀ x, t.load x = 0) (hs : t.swap = .none) : Within s0 t :=
  ⟨fun f => by rw [hf f]; exact Nat.zero_le _, fun x => by rw [hx x]; exact Nat.zero_le _, .inr hs⟩

end Within

theorem effects_within (s0 : State) : Effects (Within s0) :=
  .ofOnward (fun k h => h.onward k) Within.body (fun _ _ h => h.congr (fun _ => ⟨rfl, rfl⟩) (fun _ => ⟨rfl, rfl⟩) id)
    (fun _ _ h => h.congr (fun _ => ⟨rfl, rfl⟩) (fun _ => ⟨rfl, rfl⟩) id)
    (fun _ _ h => h.congr (fun _ => ⟨rfl, rfl⟩) (fun _ => ⟨rfl, rfl⟩) id) (fun _ h => h.congr (fun _ => ⟨rfl, rfl⟩) (fun _ => ⟨rfl, rfl⟩) id)
    (fun h => h.congr (fun _ => ⟨rfl, rfl⟩) (fun _ => ⟨rfl, rfl⟩) fun _ => rfl)
    (fun {s} _ => .of_vacant (fun f => by simp [State.fdr, State.restarted, Feeder.resetWith]) (fun x => by simp [State.load, State.restarted]) rfl)

theorem arrives_within (s0 : State) : Arrives (SameBody s0) (Within s0) := ⟨fun k h => h.trans k, Within.of_sameBody⟩

/-- The state of the swap alone changes. -/
theorem Within.reswapped {s0 s : State} (h : SameBody s0 s) (w : SwapState) (n : Timer) : Within s0 { s with swap := w, swapTimer := n } :=
  ⟨(Within.of_sameBody h).committed, (Within.of_sameBody h).loads, .inl fun x => by
    show s.limitIn s.active x = s0.limitIn s0.active x
    rw [State.limitIn_congr h.bankA h.bankB, h.active]⟩

/-- A write of the other bank leaves the limits in force (R1, R4). -/
theorem State.sectionLimit_setBank {s : State} {k : BankId} (hk : k ≠ s.active) (b : Bank) (x : SectionId) :
    (s.setBank k b).sectionLimit x = s.sectionLimit x := by
  have ha : (s.setBank k b).activeBank = s.activeBank := by
    unfold State.setBank State.activeBank
    cases k <;> cases hs : s.active
    · exact absurd hs.symm hk
    · rfl
    · rfl
    · exact absurd hs.symm hk
  unfold State.sectionLimit State.entry
  rw [ha]

/-- The limits are those of before when a swap begins; it may be done in the same step (R10, R15). -/
theorem begins_within (s0 : State) : Begins (SameBody s0) (Within s0) where
  unforced := fun {s} h => (Within.reswapped h .pending (seconds s.globals.swapTime)).onward (Onward.refl _).evalSwap
  forced := fun {s} h => (Within.reswapped h .pendingForced s.swapTimer).onward (Onward.refl _).reconfigAll.evalSwap

theorem writes_within (s0 : State) : Writes (SameBody s0) (Within s0) where
  bank := fun {s} k b ha _ h => (Within.of_sameBody h).congr (fun f => by cases k <;> exact ⟨rfl, rfl⟩)
    (fun x => ⟨by cases k <;> rfl, by rw [State.sectionLimit_setBank ha]⟩) (by cases k <;> exact id)
  reconfigured := fun {s} f k h => by
    have hc : ∀ i, ((s.modFdr f (fun d => d.reconfigured k)).fdr i).committed = (s0.fdr i).committed := fun i => by
      rw [State.modFdr_fdr]
      split
      · next e => subst e; simp only [State.fdr, h.feeders]; rfl
      · simp only [State.fdr, h.feeders]
    have hw := Within.of_sameBody h
    exact ⟨fun i => (hc i).trans_le (Nat.le_max_left _ _), hw.loads, hw.limits⟩
  classes := fun _ h => h.congr (fun _ => ⟨rfl, rfl⟩) (fun _ => ⟨rfl, rfl⟩) id
  globals := fun _ h => h.congr (fun _ => ⟨rfl, rfl⟩) (fun _ => ⟨rfl, rfl⟩) id
  rewritten := fun _ _ h => h.congr (fun _ => ⟨rfl, rfl⟩) (fun _ => ⟨rfl, rfl⟩) id
  unexcluded := fun i h => h.onward ((Onward.refl _).clearExclusion i)
  poweredOn := fun a _ => .of_vacant (fun f => by simp [State.fdr, State.powerOn, Feeder.reset, Feeder.resetWith]) (fun x => by simp [State.load, State.powerOn]) rfl

theorem Within.tick {s0 s : State} (h : Within s0 s) : Within s0 s.tick :=
  h.congr (fun f => by rw [State.tick_fdr]; exact ⟨rfl, rfl⟩) (fun _ => ⟨rfl, rfl⟩) id

end Sys2Proof.Machine

open Sys2Proof Sys2Proof.Machine

/-- Settles O14: what goes on passes no limit, one flip of the selector at most falls in a step, and a write of a feeder's limit or the
beginning of a swap finds the state as it was. -/
theorem noStepOvercommitsAFeeder : Obligations.NoStepOvercommitsAFeeder := by
  intro s t hs
  have E := effects_within s
  have h := E.step_keeps (arrives_within s) (begins_within s) (writes_within s)
    (fun f m h => E.takeSample (fun _ h => h.congr (fun _ => ⟨rfl, rfl⟩) (fun _ => ⟨rfl, rfl⟩) id) (fun {u} f h => ?_) f m h)
    Within.tick (.of rfl) hs
  · exact ⟨h.committed, h.loads⟩
  · have ht := h.onward ((Onward.refl u).feederTrip f)
    have hp : Within s ((u.feederTrip f).startPostTrip f) := by
      unfold State.startPostTrip
      dsimp only
      generalize u.feederTrip f = v at ht ⊢
      split
      · split
        · exact E.freezeRing _ ht
        · exact ht.congr (fun _ => ⟨rfl, rfl⟩) (fun _ => ⟨rfl, rfl⟩) id
      · exact ht
    exact hp.onward (Onward.refl _).evalSwap

end

section
/-! PROOFS. Where holders come and go, a section's idle timer alone changes; status reports and the return of a feeder. -/

namespace Sys2Proof.Machine
open Sys2Proof

/-! ### Idle timers -/

/-- A section record changes at most in its idle timer, which starts in ENERGISED alone (R110). -/
def SectionRec.IdleOnly (r q : SectionRec) : Prop :=
  q = { r with idleTimer := q.idleTimer } ∧ (r.state = .energised ∨ q.idleTimer = r.idleTimer ∨ q.idleTimer = none)

namespace SectionRec.IdleOnly
variable {r q p : SectionRec}

theorem refl (r : SectionRec) : r.IdleOnly r := ⟨rfl, .inr (.inl rfl)⟩

theorem state (h : r.IdleOnly q) : q.state = r.state := by rw [h.1]
theorem lockout (h : r.IdleOnly q) : q.lockout = r.lockout := by rw [h.1]
theorem command (h : r.IdleOnly q) : q.command = r.command := by rw [h.1]
theorem raiseOrigin (h : r.IdleOnly q) : q.raiseOrigin = r.raiseOrigin := by rw [h.1]
theorem raiseTimer (h : r.IdleOnly q) : q.raiseTimer = r.raiseTimer := by rw [h.1]

theorem trans (h : r.IdleOnly q) (k : q.IdleOnly p) : r.IdleOnly p := by
  refine ⟨by rw [k.1, h.1], ?_⟩
  rcases k.2 with k | k | k
  · exact .inl (h.state ▸ k)
  · rw [k]; exact h.2
  · exact .inr (.inr k)

/-- Outside ENERGISED a record whose idle timer has stopped stands. -/
theorem eq_of_stopped (h : r.IdleOnly q) (hs : r.state ≠ .energised) (hi : r.idleTimer = none) : q = r := by
  have hq : q.idleTimer = r.idleTimer := by
    rcases h.2 with k | k | k
    · exact absurd k hs
    · exact k
    · exact k.trans hi.symm
  rw [h.1, hq]

end SectionRec.IdleOnly

/-- From `s` to `t` every section changes at most in its idle timer. -/
def IdleOnly (s t : State) : Prop := ∀ x, (s.sec x).IdleOnly (t.sec x)

namespace IdleOnly
variable {s t u : State}

theorem refl (s : State) : IdleOnly s s := fun _ => .refl _

theorem trans (h : IdleOnly s t) (k : IdleOnly t u) : IdleOnly s u := fun x => (h x).trans (k x)

section
variable {s0 : State} (h : IdleOnly s0 s)
include h

theorem of_sections (hx : t.sections = s.sections) : IdleOnly s0 t :=
  h.trans fun x => by simp only [State.sec, hx]; exact .refl _

theorem modCtx (i : Slot) (g : Context → Context) : IdleOnly s0 (s.modCtx i g) := h.of_sections rfl

theorem modFdr (f : FeederId) (g : Feeder → Feeder) : IdleOnly s0 (s.modFdr f g) := h.of_sections rfl

theorem sendNormal (f : Frame) : IdleOnly s0 (s.sendNormal f) := h.of_sections (by simp)

theorem report (k : EventKind) (a b : Nat) : IdleOnly s0 (s.report k a b) := h.of_sections (by simp)

theorem refuse (i : Slot) (r : Refuse) : IdleOnly s0 (s.refuse i r) := h.sendNormal _

theorem sendOfr (i : Slot) (g : Byte) : IdleOnly s0 (s.sendOfr i g) := by
  unfold State.sendOfr
  dsimp only
  split
  · exact h
  · exact h.sendNormal _

theorem sendDfr (i : Slot) (g : Byte) : IdleOnly s0 (s.sendDfr i g) := by
  unfold State.sendDfr
  split
  · exact h
  · exact h.sendNormal _

theorem deferIfQueued (i : Slot) (g : Byte) : IdleOnly s0 (s.deferIfQueued i g) := by
  unfold State.deferIfQueued
  split
  · exact h.sendDfr i g
  · exact h

theorem sendGrt (i : Slot) (g : Byte) : IdleOnly s0 (s.sendGrt i g) := by
  unfold State.sendGrt
  dsimp only
  split
  · exact h
  · exact h.sendNormal _

theorem tellHolder (s1 : State) (x : SectionId) : IdleOnly s0 (s.tellHolder s1 x) := by
  have idle : ∀ n : Timer, (s.sec x).state = .energised ∨ n = none → IdleOnly s0 (s.modSec x (fun r => { r with idleTimer := n })) :=
    fun n hn => h.trans fun y => by
      by_cases e : x = y
      · subst e
        rw [State.modSec_sec_self]
        exact ⟨rfl, hn.imp id .inr⟩
      · rw [State.modSec_sec_other _ _ e]
        exact .refl _
  unfold State.tellHolder
  split
  · split
    next he => exact idle _ (.inl (by simpa using he))
    next => exact h
  · exact idle _ (.inr rfl)
  · exact h
  · exact h

theorem tellHold (s1 : State) (k : Option Holding) : IdleOnly s0 (s.tellHold s1 k) := by
  cases k with
  | none => exact h
  | some g => exact h.tellHolder _ _

theorem commitHold (k : Option Holding) : IdleOnly s0 (s.commitHold k) := by
  cases k <;> exact h.of_sections rfl

theorem uncommitHold (k : Option Holding) : IdleOnly s0 (s.uncommitHold k) := by
  cases k <;> exact h.of_sections rfl

theorem setHold (i : Slot) (k : Option Holding) : IdleOnly s0 (s.setHold i k) := by
  unfold State.setHold
  exact ((((h.commitHold _).uncommitHold _).modCtx _ _).tellHold _ _).tellHold _ _

theorem setGap (i : Slot) (k : GapFields) : IdleOnly s0 (s.setGap i k) := by
  unfold State.setGap
  exact ((((h.commitHold _).uncommitHold _).modCtx _ _).tellHold _ _).tellHold _ _

theorem releaseHold (i : Slot) : IdleOnly s0 (s.releaseHold i) := by
  unfold State.releaseHold
  split
  · exact h
  · exact (h.setHold _ _).modFdr _ _

theorem dropEntry (i : Slot) : IdleOnly s0 (s.dropEntry i) := by
  unfold State.dropEntry
  split
  · exact h
  · exact (h.modFdr _ _).tellHolder _ _

theorem addEntry (i : Slot) (f : FeederId) (l : Level) (x : SectionId) (k : Mark) : IdleOnly s0 (s.addEntry i f l x k) :=
  ((h.dropEntry i).modFdr _ _).tellHolder _ _

theorem moveEntry (i : Slot) (x : SectionId) : IdleOnly s0 (s.moveEntry i x) := by
  unfold State.moveEntry
  split
  · exact h
  · exact ((h.modFdr _ _).tellHolder _ _).tellHolder _ _

theorem modCtxTold (i : Slot) (g : Context → Context) : IdleOnly s0 (s.modCtxTold i g) := by
  unfold State.modCtxTold
  split
  · exact h.modCtx _ _
  · exact (h.modCtx _ _).tellHolder _ _

theorem queueAt (i : Slot) (f : FeederId) (l : Level) (x : SectionId) (k : Mark) : IdleOnly s0 (s.queueAt i f l x k) :=
  (h.modCtxTold _ _).addEntry _ _ _ _ _

theorem giveUp (i : Slot) (st : CtxState) : IdleOnly s0 (s.giveUp i st) := (((h.releaseHold i).setGap i _).dropEntry i).modCtx i _

theorem setWithdraw (i : Slot) (r : Reason) (b : Bool) : IdleOnly s0 (s.setWithdraw i r b) := h.modCtx _ _

theorem startDrop (i : Slot) (r : Reason) (n : Nat) : IdleOnly s0 (s.startDrop i r n) := h.modCtx _ _

theorem withdrawNow (i : Slot) (r : Reason) (st : CtxState) : IdleOnly s0 (s.withdrawNow i r st) := (h.giveUp i st).setWithdraw i r true

theorem stripTarget (i : Slot) (x : SectionId) : IdleOnly s0 (s.stripTarget i x) := by
  unfold State.stripTarget
  dsimp only
  split <;> split
  · exact (h.setGap _ _).dropEntry _
  · exact h.setGap _ _
  · exact h.dropEntry _
  · exact h

theorem isolateContext (x : SectionId) (i : Slot) : IdleOnly s0 (State.isolateContext x s i) := by
  unfold State.isolateContext
  dsimp only
  split
  · split
    · exact h.startDrop _ _ _
    · exact h
  · split
    · exact (h.giveUp _ _).refuse _ _
    · exact h
  · split
    · exact (h.giveUp _ _).refuse _ _
    · exact h
  · exact h.stripTarget _ _
  · exact h.stripTarget _ _
  all_goals exact h

theorem afterRound (f : FeederId) (e : Entry) : IdleOnly s0 (s.afterRound f e) := by
  refine modFdr ?_ _ _
  unfold State.serve
  split
  · exact (h.setGap _ _).dropEntry _
  · exact (((h.setHold _ _).dropEntry _).modCtx _ _).sendOfr _ _

theorem arbitrate (f : FeederId) : IdleOnly s0 (s.arbitrate f) := State.arbitrate_keeps f (fun _ e _ _ k => k.afterRound f e) h

theorem arbitrateOn (w : FeederId → Bool) : IdleOnly s0 (s.arbitrateOn w) := State.arbitrateOn_keeps (fun _ f e _ _ _ k => k.afterRound f e) h

theorem arbitrateSection (x : SectionId) : IdleOnly s0 (s.arbitrateSection x) := by
  unfold State.arbitrateSection
  split
  · exact h.arbitrate _
  · exact h

theorem eachSlot {g : State → Slot → State} (hg : ∀ t i, IdleOnly s0 t → IdleOnly s0 (g t i)) : IdleOnly s0 (s.eachSlot g) := by
  unfold State.eachSlot
  generalize allSlots = l
  induction l generalizing s with
  | nil => exact h
  | cons i l ih => exact ih (hg s i h)

end
end IdleOnly

theorem State.modSec_modSec (s : State) (x : SectionId) (g k : SectionRec → SectionRec) :
    (s.modSec x g).modSec x k = s.modSec x (fun r => k (g r)) := by
  unfold State.modSec
  rw [show ({ s with sections := s.sections.set x (g (s.sec x)) } : State).sec x = g (s.sec x) from by simp [State.sec], Vector.set_set]

/-! ### Status reports (R115, R116, R118) -/

/-- A completed raise leaves the section ENERGISED and its raise over (R115). -/
theorem State.completeRaise_sec (s : State) (x : SectionId) :
    ((s.completeRaise x).sec x).state = .energised ∧ ((s.completeRaise x).sec x).raiseOrigin = none
      ∧ ((s.completeRaise x).sec x).raiseTimer = none := by
  unfold State.completeRaise
  dsimp only
  generalize (if s.hasHolder x then none else codeTimer (s.entry x).idleCode) = n
  have h := (IdleOnly.refl (s.modSec x (fun r =>
    { r with state := .energised, raiseOrigin := none, raiseTimer := none, idleTimer := n }))).arbitrateSection x x
  rw [State.modSec_sec_self] at h
  exact ⟨h.state, h.raiseOrigin, h.raiseTimer⟩

theorem restoreFailValue_fault (o : Option RaiseOrigin) : restoreFailValue true o = if o = some .standby then 3 else 2 := by
  by_cases h : o = some .standby <;> simp [restoreFailValue, h]

theorem restoreFailValue_limit (o : Option RaiseOrigin) : restoreFailValue false o = if o = some .standby then 1 else 0 := by
  by_cases h : o = some .standby <;> simp [restoreFailValue, h]

/-- A status with the breaker closed, voltage present and no fault (R118). -/
def SsuStatus.sound (u : SsuStatus) : Bool := u.closed && u.voltage && !u.fault

theorem SsuStatus.sound_iff (u : SsuStatus) : u.sound = true ↔ u.closed = true ∧ u.voltage = true ∧ u.fault = false := by
  simp [SsuStatus.sound, and_assoc]

/-- The section with the reported status stored. -/
def State.storeSsu (s : State) (x : SectionId) (u : SsuStatus) : State := s.modSec x (fun r => { r with ssu := some u })

section
variable {s : State} {x : SectionId} (u : SsuStatus)

theorem State.takeStatus_energised (h : (s.sec x).state = .energised) : s.takeStatus x u =
    if u.sound then s.storeSsu x u else ((s.storeSsu x u).isolate x).reportMismatch x (s.load x) := by
  unfold State.takeStatus
  rw [h]
  rfl

theorem State.takeStatus_idle (h : (s.sec x).state = .idle) : s.takeStatus x u =
    if u.sound then s.storeSsu x u
    else if u.fault then ((s.storeSsu x u).isolate x).reportMismatch x (s.load x)
    else ((s.storeSsu x u).openToStandby x).reportMismatch x (s.load x) := by
  unfold State.takeStatus
  rw [h]
  rfl

theorem State.takeStatus_raising (h : (s.sec x).state = .raising) : s.takeStatus x u =
    if u.sound then (s.storeSsu x u).completeRaise x
    else if u.fault then (s.storeSsu x u).failRaise x true else s.storeSsu x u := by
  unfold State.takeStatus
  rw [h]
  rfl

theorem State.takeStatus_standby (h : (s.sec x).state = .standby) : s.takeStatus x u =
    if u.fault then ((s.storeSsu x u).isolate x).reportMismatch x (s.load x)
    else if u.closed then ((s.storeSsu x u).writeOpen x).reportMismatch x (s.load x) else s.storeSsu x u := by
  unfold State.takeStatus
  rw [h]
  rfl

/-- An ISOLATED section with a fault is locked out, with OPEN pending where the breaker is closed (R118). -/
def State.lockFaulted (s : State) (x : SectionId) (u : SsuStatus) : State :=
  (if u.closed then (s.storeSsu x u).writeOpen x else s.storeSsu x u).modSec x (fun r => { r with lockout := true })

theorem State.takeStatus_isolated (h : (s.sec x).state = .isolated) : s.takeStatus x u =
    if u.fault then (if (s.sec x).lockout then s.lockFaulted x u else (s.lockFaulted x u).reportMismatch x (s.load x))
    else if u.closed then ((s.storeSsu x u).writeOpen x).reportMismatch x (s.load x) else s.storeSsu x u := by
  have hl : s.lockFaulted x u = if u.closed then ((s.storeSsu x u).modSec x (fun r => { r with lockout := true })).writeOpen x
      else (s.storeSsu x u).modSec x (fun r => { r with lockout := true }) := by
    unfold State.lockFaulted
    split
    · unfold State.writeOpen
      rw [State.modSec_modSec, State.modSec_modSec]
    · rfl
  unfold State.takeStatus
  rw [h, hl]
  rfl

theorem State.raised_swap (h : s.swap = .none) : ((s.storeSsu x u).completeRaise x).swap = .none :=
  (((Onward.refl s).modSec x (fun r => { r with ssu := some u })).completeRaise x).swap_none h |>.1

theorem State.failRaise_storeSsu (b : Bool) : (s.storeSsu x u).failRaise x b
    = ((s.storeSsu x u).isolate x).report .restoreFail x.val (restoreFailValue b (s.sec x).raiseOrigin) := by
  unfold State.failRaise State.storeSsu
  rw [State.modSec_sec_self]

end

end Sys2Proof.Machine

open Sys2Proof Sys2Proof.Machine

/-- Settles O42: a status report state by state; the section that a completed raise leaves. -/
theorem statusReportsMoveSections : Obligations.StatusReportsMoveSections := by
  refine ⟨fun sect closed voltage fault s hp hw => ⟨fun h => exec_sst_foreign hp hw h _ _ _, fun x h => ?_⟩, fun x s hp => ⟨fun h => ?_, fun h hr => ?_⟩⟩
  · dsimp only
    rw [exec_sst hp hw h]
    have yes : closed = true ∧ voltage = true ∧ fault = false → (SsuStatus.mk closed voltage fault).sound = true :=
      (SsuStatus.sound_iff ⟨closed, voltage, fault⟩).2
    have no : ¬(closed = true ∧ voltage = true ∧ fault = false) → ¬(SsuStatus.mk closed voltage fault).sound = true :=
      fun h hs => h ((SsuStatus.sound_iff _).1 hs)
    have broken : fault = true → ¬(SsuStatus.mk closed voltage fault).sound = true := fun h hs => by
      have := ((SsuStatus.sound_iff _).1 hs).2.2
      rw [h] at this
      cases this
    have hs : s.goodW.sec x = s.sec x := s.goodW_sec x
    have hload : s.goodW.load x = s.load x := s.goodW_load x
    refine ⟨fun he => ?_, fun he => ?_, fun he => ?_, fun he => ?_, fun he => ?_⟩ <;> rw [← hs] at he
    · rw [State.takeStatus_energised _ he, hload]
      exact ⟨fun h => by rw [if_pos (yes h)]; rfl, fun h => by rw [if_neg (no h)]; rfl⟩
    · rw [State.takeStatus_idle _ he, hload]
      refine ⟨fun h => by rw [if_pos (yes h)]; rfl, fun hf => ?_, fun hf hd => ?_⟩
      · rw [if_neg (broken hf), if_pos hf]
        rfl
      · rw [if_neg (no fun h => ?_), if_neg (by simp [hf])]
        · rfl
        · rcases hd with hd | hd
          · rw [hd] at h; exact absurd h.1 (by decide)
          · rw [hd] at h; exact absurd h.2.1 (by decide)
    · rw [State.takeStatus_raising _ he]
      refine ⟨fun h => ?_, fun hf => ?_, fun h hf => ?_⟩
      · rw [if_pos (yes h)]
        refine ⟨_, rfl, fun hn => ?_⟩
        rw [State.evalSwap_none (State.raised_swap _ (s.goodW_swap.trans hn))]
        exact State.completeRaise_sec _ _
      · rw [if_neg (broken hf), if_pos hf, State.failRaise_storeSsu, restoreFailValue_fault, hs]
        rfl
      · rw [if_neg (no h), if_neg (by simp [hf])]
        rfl
    · rw [State.takeStatus_standby _ he, hload]
      refine ⟨fun hc hf => ?_, fun hc hf => ?_, fun hf => ?_⟩
      · rw [if_neg (by simp [hf]), if_neg (by simp [hc])]
        rfl
      · rw [if_neg (by simp [hf]), if_pos hc]
        rfl
      · rw [if_pos hf]
        rfl
    · rw [State.takeStatus_isolated _ he, hload, hs]
      refine ⟨fun hc hf => ?_, fun hc hf => ?_, fun hf => ⟨fun hl => ?_, fun hl => ?_⟩⟩
      · rw [if_neg (by simp [hf]), if_neg (by simp [hc])]
        rfl
      · rw [if_neg (by simp [hf]), if_pos hc]
        rfl
      · rw [if_pos hf, if_pos hl]
        rfl
      · rw [if_pos hf, if_neg (by simp [hl])]
        rfl
  · rw [exec_raiseLimitExpiry hp, State.expire_none h]
  · rw [exec_raiseLimitExpiry hp, State.expire_some h]
    unfold State.raiseOut
    rw [if_pos (by simp [hr])]
    unfold State.failRaise
    rw [restoreFailValue_limit]

end

section
/-! PROOFS. Passes over the sections, and the return of a feeder. -/

namespace Sys2Proof.Machine
open Sys2Proof

/-! ### Passes over the sections -/

theorem State.modSec_congr {s : State} {x : SectionId} {g k : SectionRec → SectionRec} (h : g (s.sec x) = k (s.sec x)) :
    s.modSec x g = s.modSec x k := by
  unfold State.modSec
  rw [h]

theorem State.eq_modSec_self {s : State} {x : SectionId} {g : SectionRec → SectionRec} (h : g (s.sec x) = s.sec x) : s = s.modSec x g :=
  (State.modSec_eq_self h).symm

section
variable {g : State → SectionId → State} {G : State → SectionId → SectionRec → SectionRec}
  (hg : ∀ t x, g t x = t.modSec x (G t x)) (hG : ∀ (t : State) v x, G { t with sections := v } x = G t x)
include hg hG

/-- A pass whose step at a section changes that section's record alone, by what no section's record says, changes the records it
meets. -/
theorem State.foldSections {l : List SectionId} (hl : l.Nodup) (s : State) :
    l.foldl g s = { s with sections := (l.foldl g s).sections }
      ∧ ∀ x, (l.foldl g s).sec x = if x ∈ l then G s x (s.sec x) else s.sec x := by
  induction l generalizing s with
  | nil => exact ⟨rfl, fun _ => rfl⟩
  | cons y l ih =>
    obtain ⟨hy, hl⟩ := List.nodup_cons.1 hl
    have hr : ∀ v, ({ g s y with sections := v } : State) = { s with sections := v } := fun v => by rw [hg]; rfl
    obtain ⟨h1, h2⟩ := ih hl (g s y)
    refine ⟨h1.trans (hr _), fun x => (h2 x).trans ?_⟩
    have hx : G (g s y) x = G s x := by rw [hg]; exact hG s _ x
    rw [hx, hg]
    by_cases e : y = x
    · subst e
      rw [if_neg hy, if_pos (List.mem_cons_self ..), State.modSec_sec_self]
    · rw [State.modSec_sec_other _ _ e]
      simp only [List.mem_cons, Ne.symm e, false_or]

theorem State.eachSection_rest (s : State) : s.eachSection g = { s with sections := (s.eachSection g).sections } :=
  (State.foldSections hg hG (List.nodup_finRange 64) s).1

theorem State.eachSection_sec (s : State) (x : SectionId) : (s.eachSection g).sec x = G s x (s.sec x) :=
  ((State.foldSections hg hG (List.nodup_finRange 64) s).2 x).trans (if_pos (List.mem_finRange x))

end

/-! ### Wakes (R112, R117) -/

/-- A section record as its raise begins (R112). -/
def SectionRec.raised (origin : RaiseOrigin) (command : SecCommand) (limit : Timer) (r : SectionRec) : SectionRec :=
  { r with state := .raising, raiseOrigin := some origin, raiseTimer := limit, idleTimer := none, standbyTimer := none
           command := some command }

/-- What a wake makes of the section's record (R112). -/
def State.wakeRec (s : State) (x : SectionId) (r : SectionRec) : SectionRec :=
  match s.feederOf x with
  | none => r
  | some f =>
    if (s.fdr f).state == .online then
      match r.state with
      | .idle => r.raised .idle .close (tenths s.globals.idleRaise)
      | .standby =>
        if (s.entry x).fastRaise && s.fastVoltage f then r.raised .standby .closeFast (tenths s.globals.idleRaise)
        else r.raised .standby .close (seconds s.globals.standbyRaise)
      | .energised => r
      | .raising => r
      | .isolated => r
    else r

theorem State.wake_eq (s : State) (x : SectionId) : s.wake x = s.modSec x (s.wakeRec x) := by
  unfold State.wake
  cases hf : s.feederOf x with
  | none => exact State.eq_modSec_self (by unfold State.wakeRec; rw [hf])
  | some f =>
    dsimp only
    split
    next ho =>
      cases hr : (s.sec x).state
      case idle => exact State.modSec_congr (by unfold State.wakeRec; rw [hf]; dsimp only; rw [if_pos ho, hr]; rfl)
      case standby =>
        dsimp only
        split
        next hv => exact State.modSec_congr (by unfold State.wakeRec; rw [hf]; dsimp only; rw [if_pos ho, hr]; dsimp only; rw [if_pos hv]; rfl)
        next hv => exact State.modSec_congr (by unfold State.wakeRec; rw [hf]; dsimp only; rw [if_pos ho, hr]; dsimp only; rw [if_neg hv]; rfl)
      all_goals exact State.eq_modSec_self (by unfold State.wakeRec; rw [hf]; dsimp only; rw [if_pos ho, hr])
    next ho => exact State.eq_modSec_self (by unfold State.wakeRec; rw [hf]; dsimp only; rw [if_neg ho])

theorem State.wakeRec_raising {s : State} {x : SectionId} {f : FeederId} (hf : s.feederOf x = some f) (ho : (s.fdr f).state = .online)
    {r : SectionRec} (hr : r.state = .idle ∨ r.state = .standby) : (s.wakeRec x r).state = .raising := by
  unfold State.wakeRec
  rw [hf]
  dsimp only
  rw [if_pos (by simp [ho])]
  rcases hr with hr | hr <;> rw [hr]
  · rfl
  · dsimp only
    split <;> rfl

theorem State.hasHolder_iff (s : State) (x : SectionId) : s.hasHolder x = true ↔ 0 < s.load x
    ∨ ∃ g e, (e ∈ (s.fdr g).wait1 ∨ e ∈ (s.fdr g).wait2) ∧ e.sect = x ∧ (s.ctx e.slot).state = .queued := by
  unfold State.hasHolder State.queuedEntryFor
  simp only [Bool.or_eq_true, decide_eq_true_eq, List.any_eq_true, Bool.and_eq_true, beq_iff_eq]
  refine or_congr Iff.rfl ⟨?_, ?_⟩
  · rintro ⟨r, hr, h⟩
    obtain ⟨n, hn, rfl⟩ := Vector.mem_iff_getElem.1 (Vector.mem_toList_iff.1 hr)
    refine ⟨⟨n, hn⟩, ?_⟩
    rcases h with ⟨e, he, hx, hq⟩ | ⟨e, he, hx, hq⟩
    · exact ⟨e, .inl he, hx, hq⟩
    · exact ⟨e, .inr he, hx, hq⟩
  · rintro ⟨g, e, he, hx, hq⟩
    refine ⟨s.fdr g, Vector.mem_toList_iff.2 (Vector.getElem_mem g.isLt), ?_⟩
    exact he.imp (fun h => ⟨e, h, hx, hq⟩) (fun h => ⟨e, h, hx, hq⟩)

/-- The return of a feeder wakes its sections with a holder (R117). -/
theorem State.sectionsBack_eq (s : State) (f : FeederId) : s.sectionsBack f = { s with sections := (s.sectionsBack f).sections }
    ∧ ∀ x, (s.sectionsBack f).sec x = if s.feederOf x == some f && s.hasHolder x then s.wakeRec x (s.sec x) else s.sec x := by
  have hg : ∀ (t : State) (x : SectionId), (if t.feederOf x == some f && t.hasHolder x then t.wake x else t)
      = t.modSec x (fun r => if t.feederOf x == some f && t.hasHolder x then t.wakeRec x r else r) := fun t x => by
    split
    · exact t.wake_eq x
    · exact State.eq_modSec_self rfl
  exact ⟨State.eachSection_rest hg (fun _ _ _ => rfl) s, State.eachSection_sec hg (fun _ _ _ => rfl) s⟩

/-- The state in which a feeder's return is told to its sections (R79). -/
def State.putOnline (s : State) (f : FeederId) : State :=
  (s.modRing f Ring.released).modFdr f (fun d => { d with state := .online, meterLost := none })

theorem State.putOnline_holders (s : State) (f : FeederId) (x : SectionId) : (s.putOnline f).hasHolder x = s.hasHolder x := by
  have hw : ∀ g, ((s.putOnline f).fdr g).wait1 = (s.fdr g).wait1 ∧ ((s.putOnline f).fdr g).wait2 = (s.fdr g).wait2 := fun g => by
    unfold State.putOnline
    rw [State.modFdr_fdr]
    split
    · next e => subst e; exact ⟨rfl, rfl⟩
    · exact ⟨rfl, rfl⟩
  rw [Bool.eq_iff_iff, State.hasHolder_iff, State.hasHolder_iff]
  simp only [hw]
  rfl

theorem State.putOnline_fdr (s : State) (f : FeederId) :
    (s.putOnline f).fdr f = { s.fdr f with state := .online, meterLost := none } := by
  unfold State.putOnline
  rw [State.modFdr_fdr_self]
  rfl

theorem State.putOnline_fdr_other (s : State) {f g : FeederId} (h : f ≠ g) : (s.putOnline f).fdr g = s.fdr g := by
  unfold State.putOnline
  rw [State.modFdr_fdr_other _ _ h]
  rfl

/-- A resume, up to the rounds that follow: the sections of the feeder that have a holder are woken (R79, R117). -/
theorem State.resumeFeeder_served (s : State) (f : FeederId) : ∃ u, Served u (s.resumeFeeder f)
    ∧ u = { s.putOnline f with sections := u.sections }
    ∧ ∀ x, u.sec x = if s.feederOf x = some f ∧ s.hasHolder x = true then (s.putOnline f).wakeRec x (s.sec x) else s.sec x := by
  obtain ⟨hr, hx⟩ := (s.putOnline f).sectionsBack_eq f
  refine ⟨(s.putOnline f).sectionsBack f, .arbitrate _ f, hr, fun x => (hx x).trans ?_⟩
  rw [State.putOnline_holders, show (s.putOnline f).feederOf x = s.feederOf x from rfl, show (s.putOnline f).sec x = s.sec x from rfl]
  simp only [Bool.and_eq_true, beq_iff_eq]

section
variable (s : State) (f : FeederId)

theorem State.resumeFeeder_links : (s.resumeFeeder f).cQueue = s.cQueue ∧ (s.resumeFeeder f).cAddress = s.cAddress := by
  obtain ⟨u, hu, hr, -⟩ := s.resumeFeeder_served f
  rw [hu.rest, hr]
  exact ⟨rfl, rfl⟩

theorem State.resumeFeeder_ring : (s.resumeFeeder f).ring f = (s.ring f).released := by
  obtain ⟨u, hu, hr, -⟩ := s.resumeFeeder_served f
  have h1 : (s.resumeFeeder f).rings = u.rings := by rw [hu.rest]
  have h2 : u.rings = (s.modRing f Ring.released).rings := by rw [hr]; rfl
  rw [← State.modRing_ring_self s f Ring.released]
  unfold State.ring
  rw [h1, h2]

theorem State.resumeFeeder_fdr : ((s.resumeFeeder f).fdr f).state = .online ∧ ((s.resumeFeeder f).fdr f).meterLost = none
    ∧ ((s.resumeFeeder f).fdr f).config = (s.fdr f).config := by
  obtain ⟨u, hu, hr, -⟩ := s.resumeFeeder_served f
  obtain ⟨hc, hs, -, hm, -⟩ := hu.records f
  have huf : u.fdr f = { s.fdr f with state := .online, meterLost := none } := by
    rw [← s.putOnline_fdr, hr]
    rfl
  rw [hc, hs, hm, huf]
  exact ⟨rfl, rfl, rfl⟩

theorem State.resumeFeeder_fdr_other {g : FeederId} (h : f ≠ g) : ((s.resumeFeeder f).fdr g).state = (s.fdr g).state := by
  obtain ⟨u, hu, hr, -⟩ := s.resumeFeeder_served f
  rw [(hu.records g).2.1, ← s.putOnline_fdr_other h, hr]
  rfl

theorem State.resumeFeeder_sec (x : SectionId) : ((s.resumeFeeder f).sec x).state
    = (if s.feederOf x = some f ∧ s.hasHolder x = true then (s.putOnline f).wakeRec x (s.sec x) else s.sec x).state := by
  obtain ⟨u, hu, -, hx⟩ := s.resumeFeeder_served f
  rw [hu.states, hx]

theorem State.resumeFeeder_ctx {i : Slot} (hq : (s.ctx i).state ≠ .queued) (hx : (s.ctx i).state ≠ .crossing) :
    (s.resumeFeeder f).ctx i = s.ctx i := by
  obtain ⟨u, hu, hr, -⟩ := s.resumeFeeder_served f
  have hui : u.ctx i = s.ctx i := by rw [hr]; rfl
  rw [hu.others i ((Served.waits_iff _).2 (by rw [hui]; exact ⟨hq, hx⟩)), hui]

end

theorem Ring.released_eq (r : Ring) :
    r.released = if r.state = .frozen ∨ r.state = .postTrip then { r with state := .recording, countdown := none } else r := by
  unfold Ring.released
  simp only [Bool.or_eq_true, beq_iff_eq]

end Sys2Proof.Machine

open Sys2Proof Sys2Proof.Machine

/-- Settles O43: a resume wakes the sections with a holder, then serves who waits on the feeder. -/
theorem feedersAreResumed : Obligations.FeedersAreResumed := by
  intro c b s ht
  have hq := State.taken_room ht
  have he : exec (.feederCmdResume c b) s = .next (s.taken.forFeeder c b (fun f => s.taken.commandResume c b f)) := exec_taken (a := 0) rfl ht
  simp only [he]
  unfold State.forFeeder
  refine ⟨fun h => ?_, fun f hf => ?_⟩
  · rw [feederOfByte_none h]
    exact congrArg Host.Outcome.next (State.nak_room hq c .badIndex 0 b)
  rw [feederOfByte_val hf]
  dsimp only
  have hready : ((s.meter f).silence ≠ none ∧ ∃ m, (s.meter f).latest = some m ∧ m.breaker = .closed) ↔ (s.taken.meter f).showsClosed = true := by
    unfold Meter.showsClosed
    rw [State.taken_meter]
    cases (s.meter f).latest <;> simp [Option.isSome_iff_ne_none]
  rw [hready]
  have hd : ((s.fdr f).state = .offline ∨ (s.fdr f).state = .tripped) ↔ ((s.taken.fdr f).state = .offline ∨ (s.taken.fdr f).state = .tripped) := by
    rw [State.taken_fdr]
  have hc : (s.fdr f).state = .offline ∨ (s.fdr f).state = .tripped → s.taken.commandResume c b f
      = if (s.taken.meter f).showsClosed then (s.taken.resumeFeeder f).ack c else s.taken.nak c .notReady 0 b := fun h => by
    unfold State.commandResume
    rcases hd.1 h with h | h <;> rw [h]
  refine ⟨fun h => ?_, fun h hr => ?_, fun h hr => ?_⟩
  · have hn : s.taken.commandResume c b f = s.taken.nak c .badState 0 b := by
      unfold State.commandResume
      rw [hd] at h
      cases hs : (s.taken.fdr f).state
      case offline => exact absurd (.inl hs) h
      case tripped => exact absurd (.inr hs) h
      all_goals rfl
    rw [hn]
    exact congrArg Host.Outcome.next (State.nak_room hq c .badState 0 b)
  · rw [hc h, if_neg hr]
    exact congrArg Host.Outcome.next (State.nak_room hq c .notReady 0 b)
  · rw [hc h, if_pos hr]
    have links := s.taken.resumeFeeder_links f
    have ring := s.taken.resumeFeeder_ring f
    have fdr := s.taken.resumeFeeder_fdr f
    have others := fun g => s.taken.resumeFeeder_fdr_other f (g := g)
    have sec := s.taken.resumeFeeder_sec f
    have ctx := fun i => s.taken.resumeFeeder_ctx f (i := i)
    generalize s.taken.resumeFeeder f = t at links ring fdr others sec ctx ⊢
    have hcq : t.cQueue = s.cQueue := links.1.trans s.taken_cQueue.1
    refine ⟨t.withAck c, congrArg Host.Outcome.next (State.ack_room (by rw [links.1]; exact hq) c), ?_, fdr.1, fdr.2.1,
      fdr.2.2.trans (by rw [State.taken_fdr]), fun g hg => (others g (Ne.symm hg)).trans (by rw [State.taken_fdr]), ?_,
      fun x hf hh hs => (sec x).trans ?_, fun x hn => (sec x).trans ?_, fun i hi hi' => (ctx i ?_ ?_).trans (s.taken_ctx i)⟩
    · show t.cQueue ++ [⟨0x70, c.src, t.cAddress, c.seq, []⟩] = _
      rw [hcq, links.2, s.taken_cQueue.2]
    · exact ring.trans (by rw [State.taken_ring, Ring.released_eq])
    · rw [if_pos ⟨by simpa using hf, by rw [State.hasHolder_iff]; simpa using hh⟩]
      refine State.wakeRec_raising (s := s.taken.putOnline f) (f := f) ((s.taken_feederOf x).trans hf) ?_ (by simpa using hs)
      rw [State.putOnline_fdr]
    · rw [if_neg, State.taken_sec]
      rintro ⟨h1, h2⟩
      rw [State.hasHolder_iff] at h2
      rcases hn with hn | hn
      · exact hn (by simpa using h1)
      · exact hn (by simpa using h2)
    · rw [State.taken_ctx]; exact hi
    · rw [State.taken_ctx]; exact hi'

end

section
/-! PROOFS. What a slot keeps while other slots are treated, and the isolation of a section. -/

namespace Sys2Proof.Machine
open Sys2Proof

/-! ### One slot aside -/

/-- The slot's context and its entries in the wait lists stand. -/
structure SameSlot (i : Slot) (s t : State) : Prop where
  ctx : t.ctx i = s.ctx i
  entries : ∀ f l, ((t.fdr f).wait l).filter (fun e => e.slot == i) = ((s.fdr f).wait l).filter (fun e => e.slot == i)

/-- The place of a slot as its membership tells it. -/
def State.placeOf (s : State) (i : Slot) : Option Place := (s.memberOf i).map (fun m => (m.feeder, m.level, m.entry))

theorem findEntry_eq (i : Slot) (es : List Entry) (n : Nat) : (findEntry i es n).map (·.1) = (es.filter (fun e => e.slot == i)).head? := by
  induction es generalizing n with
  | nil => rfl
  | cons e es ih =>
    unfold findEntry
    split
    next h => rw [List.filter_cons_of_pos (p := fun e : Entry => e.slot == i) h]; rfl
    next h => rw [List.filter_cons_of_neg (p := fun e : Entry => e.slot == i) h]; exact ih _

theorem State.memberOn_eq (s : State) (i : Slot) (f : FeederId) :
    (s.memberOn i f).map (fun m => (m.feeder, m.level, m.entry))
      = ((((s.fdr f).wait .one).filter (fun e => e.slot == i)).head?.map (fun e => (f, Level.one, e))).or
        ((((s.fdr f).wait .two).filter (fun e => e.slot == i)).head?.map (fun e => (f, Level.two, e))) := by
  rw [← findEntry_eq i _ 1, ← findEntry_eq i _ 1]
  unfold State.memberOn Feeder.wait
  dsimp only
  cases findEntry i (s.fdr f).wait1 1 with
  | none => cases findEntry i (s.fdr f).wait2 1 <;> rfl
  | some p => rfl

/-- The first membership found tells the place. -/
theorem State.placeOf_eq (s : State) (i : Slot) :
    s.placeOf i = allFeeders.findSome? (fun f => (s.memberOn i f).map (fun m => (m.feeder, m.level, m.entry))) := by
  unfold State.placeOf State.memberOf
  generalize allFeeders = fs
  induction fs with
  | nil => rfl
  | cons f fs ih =>
    rw [List.findSome?_cons, List.findSome?_cons]
    cases s.memberOn i f with
    | none => exact ih
    | some m => rfl

theorem State.memberOf_congr {s t : State} {i : Slot} (h : t.feeders = s.feeders) : t.memberOf i = s.memberOf i := by
  unfold State.memberOf State.memberOn State.fdr
  rw [h]

theorem State.placeOf_sect (s : State) (i : Slot) : (s.memberOf i).map (·.entry.sect) = (s.placeOf i).map (·.2.2.sect) := by
  unfold State.placeOf
  rw [Option.map_map]
  rfl

theorem State.Listed.placeOf {s : State} {i : Slot} {w : Option Place} (h : s.Listed i w) : s.placeOf i = w := h.memberOf

namespace SameSlot
variable {i j : Slot} {s t u : State}

theorem refl (s : State) : SameSlot i s s := ⟨rfl, fun _ _ => rfl⟩

theorem trans (h : SameSlot i s t) (k : SameSlot i t u) : SameSlot i s u :=
  ⟨k.ctx.trans h.ctx, fun f l => (k.entries f l).trans (h.entries f l)⟩

theorem of_same (h : SameSlots s t) : SameSlot i s t := ⟨h.ctx i, fun f l => by rw [(h.lists f).2 l]⟩

theorem of_moves (h : Moves j s t) (hj : i ≠ j) : SameSlot i s t := ⟨h.ctx i hj, fun f l => h.lists.entries i hj f l⟩

theorem listed (h : SameSlot i s t) {w : Option Place} (k : s.Listed i w) : t.Listed i w := fun f l => (h.entries f l).trans (k f l)

theorem placeOf (h : SameSlot i s t) : t.placeOf i = s.placeOf i := by
  rw [State.placeOf_eq, State.placeOf_eq]
  congr 1
  funext f
  rw [State.memberOn_eq, State.memberOn_eq, h.entries, h.entries]

/-- Arbitration leaves a slot as it is that does not wait, or waits nowhere. -/
theorem afterRound {f : FeederId} {e : Entry} (he : i ≠ e.slot) : SameSlot i s (s.afterRound f e) := by
  refine SameSlot.trans ?_ (of_same (.afterRound s f e))
  unfold State.serve
  split
  · exact of_moves ((Moves.refl s).serveCrossing f) he
  · exact of_moves ((Moves.refl s).makeOffer f e.sect) he

theorem arbitrateOn (hw : (s.ctx i).waits = false ∨ s.Listed i none) (w : FeederId → Bool) : SameSlot i s (s.arbitrateOn w) := by
  refine State.arbitrateOn_keeps (P := SameSlot i s) (fun t f e _ hn _ ht => ht.trans (afterRound fun he => ?_)) (.refl s)
  subst he
  rcases hw with hw | hw
  · have hx := State.nextEntry_waits hn
    rw [ht.ctx, hw] at hx
    cases hx
  · exact nomatch (ht.listed hw).mem_iff.1 ⟨State.nextEntry_mem hn, rfl⟩

theorem arbitrate (hw : (s.ctx i).waits = false ∨ s.Listed i none) (f : FeederId) : SameSlot i s (s.arbitrate f) := by
  refine State.arbitrate_keeps (P := SameSlot i s) f (fun t e hn _ ht => ht.trans (afterRound fun he => ?_)) (.refl s)
  subst he
  rcases hw with hw | hw
  · have hx := State.nextEntry_waits hn
    rw [ht.ctx, hw] at hx
    cases hx
  · exact nomatch (ht.listed hw).mem_iff.1 ⟨State.nextEntry_mem hn, rfl⟩

end SameSlot

/-- A pass that treats the slots one by one comes to a slot that stands, and leaves what it makes of it. -/
theorem State.eachSlot_at {Q : State → Prop} {g : State → Slot → State} (hQ : ∀ t j, Q t → Q (g t j)) (hm : ∀ t j, Moves j t (g t j))
    {s : State} (h : Q s) (i : Slot) : ∃ u, Q u ∧ SameSlot i s u ∧ SameSlot i (g u i) (s.eachSlot g) := by
  have aside : ∀ (l : List Slot) (t : State), i ∉ l → Q t → Q (l.foldl g t) ∧ SameSlot i t (l.foldl g t) := fun l => by
    induction l with
    | nil => exact fun t _ ht => ⟨ht, .refl t⟩
    | cons j l ih =>
      intro t hl ht
      obtain ⟨h1, h2⟩ := ih (g t j) (fun hi => hl (List.mem_cons_of_mem _ hi)) (hQ t j ht)
      exact ⟨h1, (SameSlot.of_moves (hm t j) (fun e => hl (e ▸ List.mem_cons_self ..))).trans h2⟩
  obtain ⟨pre, post, hl⟩ := List.append_of_mem (mem_allSlots i)
  have hn : (pre ++ i :: post).Nodup := hl ▸ allSlots_nodup
  obtain ⟨-, hpost, hd⟩ := List.nodup_append.1 hn
  obtain ⟨hu, hs⟩ := aside pre s (fun hi => hd i hi i (List.mem_cons_self ..) rfl) h
  obtain ⟨-, ht⟩ := aside post (g (pre.foldl g s) i) (List.nodup_cons.1 hpost).1 (hQ _ _ hu)
  refine ⟨pre.foldl g s, hu, hs, ?_⟩
  unfold State.eachSlot
  rw [hl, List.foldl_append]
  exact ht

/-! ### The evaluation of a swap -/

/-- A drop or a crossing holds a swap up (R11, R12). -/
theorem State.evalSwap_held {s : State} {i : Slot} (h : (s.ctx i).state = .dropping ∨ (s.ctx i).state = .crossing) : s.evalSwap = s := by
  unfold State.evalSwap
  refine if_neg fun hc => ?_
  simp only [Bool.and_eq_true, beq_iff_eq] at hc
  have hi : s.inConflict i = true := by
    unfold State.inConflict
    rcases h with h | h <;> rw [h] <;> exact hc.1
  have : 0 < s.conflicts := List.length_pos_of_mem (List.mem_filter.2 ⟨mem_allSlots i, hi⟩)
  omega

/-- A record in ISOLATED with its idle timer stopped stands under a wake. -/
theorem State.wakeRec_isolated (s : State) (x : SectionId) {r : SectionRec} (h : r.state = .isolated) : s.wakeRec x r = r := by
  unfold State.wakeRec
  split
  · rfl
  · split
    · rw [h]
    · rfl

/-- A section stands with its record ISOLATED and its idle timer stopped (R119). -/
structure Shut (x : SectionId) (r : SectionRec) (t : State) : Prop where
  record : t.sec x = r
  isolated : r.state = .isolated
  stopped : r.idleTimer = none

namespace Shut
variable {x : SectionId} {r : SectionRec} {s t : State}

theorem onward (h : Shut x r s) (k : IdleOnly s t) : Shut x r t :=
  ⟨by rw [← h.record]; exact (k x).eq_of_stopped (by rw [h.record, h.isolated]; decide) (h.record.symm ▸ h.stopped), h.isolated, h.stopped⟩

theorem same (h : Shut x r s) (hs : t.sections = s.sections) : Shut x r t := h.onward ((IdleOnly.refl s).of_sections hs)

theorem modSec (h : Shut x r s) (y : SectionId) {g : SectionRec → SectionRec} (hg : y = x → g r = r) : Shut x r (s.modSec y g) := by
  refine ⟨?_, h.isolated, h.stopped⟩
  by_cases e : y = x
  · subst e
    rw [State.modSec_sec_self, h.record, hg rfl]
  · rw [State.modSec_sec_other _ _ e, h.record]

theorem wake (h : Shut x r s) (y : SectionId) : Shut x r (s.wake y) := by
  rw [State.wake_eq]
  exact h.modSec y fun _ => State.wakeRec_isolated _ _ h.isolated

theorem eachSlot {g : State → Slot → State} (hg : ∀ t i, Shut x r t → Shut x r (g t i)) (h : Shut x r s) : Shut x r (s.eachSlot g) := by
  unfold State.eachSlot
  generalize allSlots = l
  induction l generalizing s with
  | nil => exact h
  | cons i l ih => exact ih (hg s i h)

theorem eachSection {g : State → SectionId → State} (hg : ∀ t y, Shut x r t → Shut x r (g t y)) (h : Shut x r s) :
    Shut x r (s.eachSection g) := by
  unfold State.eachSection
  generalize allSections = l
  induction l generalizing s with
  | nil => exact h
  | cons y l ih => exact ih (hg s y h)

theorem rehome (h : Shut x r s) (i : Slot) : Shut x r (s.rehome i) := by
  unfold State.rehome
  split
  · exact h
  · split
    · exact h.onward (((IdleOnly.refl s).giveUp _ _).refuse _ _)
    · split
      · exact (h.onward ((IdleOnly.refl s).moveEntry _ _)).wake _
      · exact (h.onward ((IdleOnly.refl s).queueAt _ _ _ _ _)).wake _

theorem sectionAfterSwap (h : Shut x r s) (y : SectionId) : Shut x r (s.sectionAfterSwap y) := by
  have down : (s.sec y).state ≠ .isolated → Shut x r (s.openToStandby y) := fun hy =>
    h.modSec y fun e => absurd (by rw [e, h.record, h.isolated]) hy
  unfold State.sectionAfterSwap
  split
  next hy => split; exacts [h, down (by rw [hy]; decide)]
  next hy => split; exacts [down (by rw [hy]; decide), h]
  next hy => split; exacts [down (by rw [hy]; decide), h]
  all_goals exact h

/-- A swap that completes leaves an ISOLATED section (R117). -/
theorem evalSwap (h : Shut x r s) : Shut x r s.evalSwap := by
  have after : ∀ {t : State} (m : Slot → Bool) i, Shut x r t → Shut x r (State.tellRehomed m t i) := fun m i h => by
    unfold State.tellRehomed
    split
    · exact h.onward ((IdleOnly.refl _).deferIfQueued _ _)
    · exact h
  have home : ∀ (t : State) i, Shut x r t → Shut x r (t.rehomeQueued i) := fun t i h => by
    unfold State.rehomeQueued
    split
    · exact h.rehome i
    · exact h
  have settled : ∀ (t : State) i, Shut x r t → Shut x r (t.resettle i) := fun t i h => by
    unfold State.resettle
    dsimp only
    split
    · exact h
    · exact h.same rfl
  unfold State.evalSwap
  split
  · unfold State.completeSwap
    dsimp only
    refine eachSlot (fun t i => after _ i) (Shut.onward ?_ (((IdleOnly.refl _).report _ _ _).arbitrateOn _))
    exact eachSlot home (eachSection (fun t y k => k.sectionAfterSwap y) (eachSlot settled (h.same (t := s.flip) rfl)))
  · exact h

end Shut

end Sys2Proof.Machine
end

section
/-! PROOFS. The isolation of a section (R87, R88, R119, R120). -/

namespace Sys2Proof.Machine
open Sys2Proof

/-! ### One slot's treatment -/

/-- A reservation on the section ends (R88). -/
def GapFields.stripped (g : GapFields) (x : SectionId) : GapFields :=
  if g.reserved.map (·.sect) = some x then { g with feeder := none } else g

theorem State.stripTarget_ctx (s : State) (i : Slot) (x : SectionId) :
    (s.stripTarget i x).ctx i = { s.ctx i with gap := (s.ctx i).gap.stripped x } := by
  have hg : ∀ t : State, (if ((t.memberOf i).map (·.entry.sect)) == some x then t.dropEntry i else t).ctx i = t.ctx i := fun t => by
    split
    · exact State.dropEntry_ctx _ _ _
    · rfl
  unfold State.stripTarget GapFields.stripped
  dsimp only
  rw [hg]
  simp only [beq_iff_eq]
  split
  · rw [State.setGap_ctx, if_pos rfl]
  · rfl

theorem State.Listed.stripTarget {s : State} {i : Slot} {w : Option Place} (h : s.Listed i w) (x : SectionId) :
    (s.stripTarget i x).Listed i (if w.map (·.2.2.sect) = some x then none else w) := by
  have drop : ∀ {t : State}, t.Listed i w →
      (if ((t.memberOf i).map (·.entry.sect)) == some x then t.dropEntry i else t).Listed i (if w.map (·.2.2.sect) = some x then none else w) :=
    fun {t} ht => by
      rw [State.placeOf_sect, ht.placeOf]
      simp only [beq_iff_eq]
      split
      · exact ht.dropEntry
      · exact ht
  unfold State.stripTarget
  dsimp only
  split
  · exact drop (h.congr (.setGap _ _ _))
  · exact drop h

theorem Moves.stripTarget (s : State) (i : Slot) (x : SectionId) : Moves i s (s.stripTarget i x) := by
  unfold State.stripTarget
  dsimp only
  split <;> split
  · exact ((Moves.refl s).setGap _).dropEntry
  · exact (Moves.refl s).setGap _
  · exact (Moves.refl s).dropEntry
  · exact .refl s

theorem Moves.isolateContext (x : SectionId) (s : State) (i : Slot) : Moves i s (State.isolateContext x s i) := by
  unfold State.isolateContext
  dsimp only
  split
  · split
    · exact (Moves.refl s).startDrop _ _
    · exact .refl s
  · split
    · exact ((Moves.refl s).giveUp _).same (.refuse _ _ _)
    · exact .refl s
  · split
    · exact ((Moves.refl s).giveUp _).same (.refuse _ _ _)
    · exact .refl s
  · exact .stripTarget s i x
  · exact .stripTarget s i x
  all_goals exact .refl s

section
variable {s : State} {x : SectionId} {i : Slot}

theorem State.isolateContext_drawing (h : (s.ctx i).state = .drawing) (hx : (s.ctx i).hold.map (·.sect) = some x) :
    State.isolateContext x s i = s.startDrop i .isolated s.globals.ordinaryDrop := by
  unfold State.isolateContext
  dsimp only
  rw [h]
  exact if_pos (by simpa using hx)

theorem State.isolateContext_offered (h : (s.ctx i).state = .offered) (hx : (s.ctx i).hold.map (·.sect) = some x) :
    (State.isolateContext x s i).ctx i = (s.ctx i).left .tracked := by
  unfold State.isolateContext
  dsimp only
  rw [h]
  dsimp only
  rw [if_pos (by simpa using hx), ← State.giveUp_self]
  exact (SameSlots.refuse _ _ _).ctx i

theorem State.isolateContext_queued (h : (s.ctx i).state = .queued) (hx : (s.memberOf i).map (·.entry.sect) = some x) :
    (State.isolateContext x s i).ctx i = (s.ctx i).left .tracked := by
  unfold State.isolateContext
  dsimp only
  rw [h]
  dsimp only
  rw [if_pos (by simpa using hx), ← State.giveUp_self]
  exact (SameSlots.refuse _ _ _).ctx i

theorem State.isolateContext_aside (h : (s.ctx i).state = .dropping ∨ (s.ctx i).state = .crossing) :
    State.isolateContext x s i = s.stripTarget i x := by
  unfold State.isolateContext
  dsimp only
  rcases h with h | h <;> rw [h]

theorem State.isolateContext_other (hx : (s.ctx i).hold.map (·.sect) ≠ some x) (h : (s.ctx i).state = .tracked ∨ (s.ctx i).state = .drawing
    ∨ (s.ctx i).state = .offered ∨ (s.ctx i).state = .faulted) : State.isolateContext x s i = s := by
  have hx : ¬(((s.ctx i).hold.map (·.sect)) == some x) = true := by simpa using hx
  unfold State.isolateContext
  dsimp only
  rcases h with h | h | h | h <;> rw [h]
  · exact if_neg hx
  · exact if_neg hx

end

/-! ### The whole part -/

/-- The isolation comes to each slot as it was; the rounds that follow serve waiting contexts alone. -/
theorem State.isolate_at (s : State) (x : SectionId) (i : Slot) : ∃ u v, u.globals = s.globals ∧ SameSlot i s u
    ∧ SameSlot i (State.isolateContext x u i) v ∧ (s.isolate x = v ∨ s.isolate x = v.arbitrateSection x) := by
  obtain ⟨u, hg, hu, hv⟩ := State.eachSlot_at (Q := fun t => Onward s t) (g := State.isolateContext x) (s := s.lockOut x)
    (fun t j h => h.isolateContext x j) (fun t j => .isolateContext x t j) ((Onward.refl s).modSec _ _) i
  refine ⟨u, _, hg.globals, SameSlot.trans (.of_same (.modSec s x _)) hu, hv, ?_⟩
  unfold State.isolate
  dsimp only
  split
  · exact .inr rfl
  · exact .inl rfl

theorem SameSlot.arbitrateSection {s : State} {i : Slot} (hw : (s.ctx i).waits = false ∨ s.Listed i none) (x : SectionId) :
    SameSlot i s (s.arbitrateSection x) := by
  unfold State.arbitrateSection
  split
  · exact .arbitrate hw _
  · exact .refl s

/-- A context that does not wait once it is treated stands from then on. -/
theorem State.isolate_slot (s : State) (x : SectionId) (i : Slot) : ∃ u, u.globals = s.globals ∧ SameSlot i s u
    ∧ ((((State.isolateContext x u i).ctx i).waits = false ∨ (State.isolateContext x u i).Listed i none) →
      SameSlot i (State.isolateContext x u i) (s.isolate x)) := by
  obtain ⟨u, v, hg, hu, hv, h⟩ := s.isolate_at x i
  refine ⟨u, hg, hu, fun hw => ?_⟩
  rcases h with h | h
  · exact h ▸ hv
  · rw [h]
    exact hv.trans (.arbitrateSection (hw.imp (fun k => hv.ctx ▸ k) fun k => hv.listed k) x)

theorem State.isolate_idle (s : State) (x : SectionId) : IdleOnly (s.lockOut x) (s.isolate x) := by
  have h := (IdleOnly.refl (s.lockOut x)).eachSlot (g := State.isolateContext x) fun t i k => k.isolateContext x i
  unfold State.isolate
  dsimp only
  split
  · exact h.arbitrateSection x
  · exact h

/-- The section's record once it is isolated (R119). -/
theorem State.isolate_shut (s : State) (x : SectionId) :
    Shut x { SectionRec.reset with lockout := true, ssu := (s.sec x).ssu, command := some .opening } (s.isolate x) := by
  refine Shut.onward ⟨?_, rfl, rfl⟩ (s.isolate_idle x)
  exact State.modSec_sec_self _ _ _

theorem State.isolate_sec_other (s : State) {x y : SectionId} (h : y ≠ x) : (s.sec y).IdleOnly ((s.isolate x).sec y) := by
  have hy := s.isolate_idle x y
  rwa [State.lockOut, State.modSec_sec_other _ _ (Ne.symm h)] at hy

section
variable {s : State} {x : SectionId} {i : Slot}

theorem State.isolate_drawing (h : (s.ctx i).state = .drawing) (hx : (s.ctx i).hold.map (·.sect) = some x) :
    ∃ c, (s.isolate x).ctx i = c ∧ c.state = .dropping ∧ c.dropReason = some .isolated ∧ c.hold = (s.ctx i).hold
      ∧ c.dropDeadline = some (s.globals.ordinaryDrop * 100) ∧ c.withdraw = some ⟨.isolated, false⟩ := by
  obtain ⟨u, hg, hu, ht⟩ := s.isolate_slot x i
  have hc : (State.isolateContext x u i).ctx i = { s.ctx i with
      state := .dropping, grantExpiry := none, overdraw := 0, dropReason := some .isolated
      dropDeadline := tenths u.globals.ordinaryDrop, withdraw := some ⟨.isolated, false⟩ } := by
    rw [State.isolateContext_drawing (by rw [hu.ctx, h]) (by rw [hu.ctx, hx]), ← hu.ctx]
    exact State.modCtx_ctx_self _ _ _
  rw [hc] at ht
  rw [(ht (.inl rfl)).ctx, hc, hg]
  exact ⟨_, rfl, rfl, rfl, rfl, rfl, rfl⟩

theorem State.isolate_left (h : (s.ctx i).state = .offered ∧ (s.ctx i).hold.map (·.sect) = some x
    ∨ (s.ctx i).state = .queued ∧ (s.memberOf i).map (·.entry.sect) = some x) : (s.isolate x).ctx i = (s.ctx i).left .tracked := by
  obtain ⟨u, -, hu, ht⟩ := s.isolate_slot x i
  have hc : (State.isolateContext x u i).ctx i = (s.ctx i).left .tracked := by
    rw [← hu.ctx]
    rcases h with ⟨h, hx⟩ | ⟨h, hx⟩
    · exact State.isolateContext_offered (by rw [hu.ctx, h]) (by rw [hu.ctx, hx])
    · refine State.isolateContext_queued (by rw [hu.ctx, h]) ?_
      rw [State.placeOf_sect, hu.placeOf, ← State.placeOf_sect, hx]
  exact (ht (.inl (by rw [hc]; rfl))).ctx.trans hc

/-- A drop goes on without what it held on the section. -/
theorem State.isolate_dropping (h : (s.ctx i).state = .dropping) :
    (s.isolate x).ctx i = { s.ctx i with gap := (s.ctx i).gap.stripped x } := by
  obtain ⟨u, -, hu, ht⟩ := s.isolate_slot x i
  have hc : (State.isolateContext x u i).ctx i = { s.ctx i with gap := (s.ctx i).gap.stripped x } := by
    rw [State.isolateContext_aside (.inl (by rw [hu.ctx, h])), State.stripTarget_ctx, hu.ctx]
  refine (ht (.inl ?_)).ctx.trans hc
  rw [hc]
  unfold Context.waits
  rw [show ({ s.ctx i with gap := (s.ctx i).gap.stripped x } : Context).state = .dropping from h]
  rfl

/-- A drop or a crossing that waits nowhere once the section is isolated goes on without what it held there (R88). -/
theorem State.isolate_unlisted (h : (s.ctx i).state = .dropping ∨ (s.ctx i).state = .crossing) {w : Option Place} (hl : s.Listed i w)
    (hw : w = none ∨ w.map (·.2.2.sect) = some x) :
    (s.isolate x).ctx i = { s.ctx i with gap := (s.ctx i).gap.stripped x } ∧ (s.isolate x).memberOf i = none := by
  obtain ⟨u, -, hu, ht⟩ := s.isolate_slot x i
  have he : State.isolateContext x u i = u.stripTarget i x := State.isolateContext_aside (by rwa [hu.ctx])
  have hn : (u.stripTarget i x).Listed i none := by
    have hs := (hu.listed hl).stripTarget x
    rcases hw with rfl | hw
    · exact hs
    · rwa [if_pos hw] at hs
  rw [he] at ht
  have hv := ht (.inr hn)
  exact ⟨hv.ctx.trans (by rw [State.stripTarget_ctx, hu.ctx]), (hv.listed hn).memberOf_none⟩

/-- A crossing goes on with nothing held. -/
theorem State.isolate_crossing (h : (s.ctx i).state = .crossing) :
    ((s.isolate x).ctx i).state = .crossing ∧ ((s.isolate x).ctx i).hold = (s.ctx i).hold := by
  obtain ⟨u, v, -, hu, hv, ht⟩ := s.isolate_at x i
  let P : State → Prop := fun t => (t.ctx i).state = .crossing ∧ (t.ctx i).hold = (s.ctx i).hold
  have hP : P v := by
    have he : State.isolateContext x u i = u.stripTarget i x := State.isolateContext_aside (.inr (by rw [hu.ctx, h]))
    refine ⟨?_, ?_⟩ <;> rw [hv.ctx, he, State.stripTarget_ctx, hu.ctx]
    exact h
  have hr : ∀ t f e, t.nextEntry f = some e → t.candidateFits f e = true → P t → P (t.afterRound f e) := fun t f e _ _ hp => by
    by_cases hi : i = e.slot
    · subst hi
      show ((t.afterRound f e).ctx e.slot).state = .crossing ∧ _
      rw [State.afterRound_ctx, State.serve_crossing hp.1, State.serveCrossing_ctx, if_pos rfl]
      exact hp
    · have hc := (SameSlot.afterRound (s := t) (f := f) hi).ctx
      exact ⟨hc ▸ hp.1, hc ▸ hp.2⟩
  rcases ht with ht | ht
  · rw [ht]
    exact hP
  · rw [ht]
    unfold State.arbitrateSection
    split
    · exact State.arbitrate_keeps _ (fun t e => hr t _ e) hP
    · exact hP

theorem State.isolate_other (hx : (s.ctx i).hold.map (·.sect) ≠ some x) (h : (s.ctx i).state = .tracked ∨ (s.ctx i).state = .drawing
    ∨ (s.ctx i).state = .offered ∨ (s.ctx i).state = .faulted) : (s.isolate x).ctx i = s.ctx i := by
  obtain ⟨u, -, hu, ht⟩ := s.isolate_slot x i
  rw [State.isolateContext_other (by rwa [hu.ctx]) (by rwa [hu.ctx])] at ht
  refine (ht (.inl ?_)).ctx.trans hu.ctx
  rw [hu.ctx]
  unfold Context.waits
  rcases h with h | h | h | h <;> rw [h] <;> rfl

/-- A fitting drop or crossing with a reservation waits nowhere (R99). -/
theorem State.contextFits.unlisted_of_reserved (hf : s.contextFits i) (h : (s.ctx i).state = .dropping ∨ (s.ctx i).state = .crossing)
    (hr : (s.ctx i).gap.feeder ≠ none) : s.Listed i none := by
  obtain ⟨-, hg, -, hx, hn, -⟩ := hf
  by_cases hc : (s.ctx i).state = .crossing ∨ (s.ctx i).state = .dropping ∧ (s.ctx i).dropReason = some .gap
  · exact State.listed_none_of_entryCount ((hx hc).2 hr)
  · exact State.listed_none_of_entryCount (hn (by rcases h with h | h <;> rw [h] <;> decide) hc)

end

section
variable {s : State} (x : SectionId) {i : Slot}

/-- What an isolation makes of a drop or a crossing stands through the evaluation of the swap, which it holds up. -/
theorem State.isolate_evalSwap_held (h : ((s.isolate x).ctx i).state = .dropping ∨ ((s.isolate x).ctx i).state = .crossing) :
    (s.isolate x).evalSwap = s.isolate x := State.evalSwap_held h

/-- A context left TRACKED by an isolation is TRACKED with nothing held once the swap is evaluated. -/
theorem State.isolate_evalSwap_left {c : Context} (h : (s.isolate x).ctx i = c.left .tracked) :
    ((s.isolate x).evalSwap.ctx i).state = .tracked ∧ ((s.isolate x).evalSwap.ctx i).hold = none := by
  have hs : ((s.isolate x).ctx i).state = .tracked := by rw [h]; rfl
  have hr := State.evalSwap_ctx (s := s.isolate x) (i := i) (by rw [hs]; decide)
  refine ⟨hr.state.trans hs, ?_⟩
  obtain ⟨-, r, a, he⟩ := hr
  rw [he, h]
  rfl

/-- A fitting drop or crossing under an isolation: it goes on without its reservation on the section or its entry for it (R88). -/
theorem State.isolate_evalSwap_aside (h : (s.ctx i).state = .dropping ∨ (s.ctx i).state = .crossing) (hf : s.contextFits i) :
    ((s.isolate x).evalSwap.ctx i).state = (s.ctx i).state ∧ ((s.isolate x).evalSwap.ctx i).hold = (s.ctx i).hold
      ∧ ((s.ctx i).gap.reserved.map (·.sect) = some x → ((s.isolate x).evalSwap.ctx i).gap = { (s.ctx i).gap with feeder := none })
      ∧ ((s.memberOf i).map (·.entry.sect) = some x → (s.isolate x).evalSwap.memberOf i = none) := by
  obtain ⟨w, hl⟩ := hf.place
  have hs : ((s.isolate x).ctx i).state = (s.ctx i).state ∧ ((s.isolate x).ctx i).hold = (s.ctx i).hold := by
    rcases h with h | h
    · rw [State.isolate_dropping h]
      exact ⟨rfl, rfl⟩
    · rw [h]
      exact State.isolate_crossing h
  rw [State.isolate_evalSwap_held x (by rw [hs.1]; exact h)]
  refine ⟨hs.1, hs.2, fun hr => ?_, fun hm => ?_⟩
  · have hn : (s.ctx i).gap.feeder ≠ none := fun hn => by
      rw [reserved_none hn] at hr
      cases hr
    rw [(State.isolate_unlisted (x := x) h (hf.unlisted_of_reserved h hn) (.inl rfl)).1]
    exact if_pos hr
  · rw [State.placeOf_sect, hl.placeOf] at hm
    exact (State.isolate_unlisted h hl (.inr hm)).2

theorem State.isolate_evalSwap_none (h : s.swap = .none) : (s.isolate x).evalSwap = s.isolate x :=
  State.evalSwap_none (((Onward.refl s).isolate x).swap_none h).1

end

end Sys2Proof.Machine

open Sys2Proof Sys2Proof.Machine

/-- Settles O40: the isolation slot by slot, and the swap that a drop holds up or that leaves the rest of a context. -/
theorem sectionsAreIsolatedAndEnabled : Obligations.SectionsAreIsolatedAndEnabled := by
  intro c sect s
  refine ⟨fun ht => ?_, fun ht => ?_⟩
  · have hq := State.taken_room ht
    have he : exec (.sectionCmdIsolate c sect) s = .next (s.taken.forSection c sect (fun x => (s.taken.commandIsolate x).ack c)) :=
      exec_taken (a := 0) rfl ht
    rw [he]
    unfold State.forSection
    refine ⟨fun h => ?_, fun x hx => ?_⟩
    · rw [sectionOfByte_none h]
      exact congrArg Host.Outcome.next (State.nak_room hq c .badIndex 0 sect)
    rw [sectionOfByte_of_val hx]
    dsimp only
    unfold State.commandIsolate
    rw [State.taken_sec]
    refine ⟨fun h => ?_, fun h => ?_⟩
    · rw [if_pos (by simpa using h), State.ack_room (s := s.taken.modSec x _) hq]
    rw [if_neg (by simpa using h)]
    have hev : s.taken.onlyEvents ((s.taken.isolate x).evalSwap) :=
      (keeps_onlyEvents _).evalSwap ((keeps_onlyEvents _).isolate x (State.taken_onlyEvents ht))
    have hctx : ∀ i, (((s.taken.isolate x).evalSwap).ack c).ctx i = ((s.taken.isolate x).evalSwap).ctx i := fun i => State.ack_ctx _ c i
    refine ⟨_, rfl, (hev.ack_getLast c).trans (by rw [State.taken_cAddress]), ?_, fun i hi hh => ?_, fun i hi hh => ?_, fun i hi hm => ?_,
      fun i hi hr => ?_, fun i hi hf => ?_, fun hn y hy => ?_, fun hn i hh hi => ?_⟩
    · refine (State.sendReply_sec' _ _ x).trans ((s.taken.isolate_shut x).evalSwap.record.trans ?_)
      rw [State.taken_sec]
    · rw [hctx]
      obtain ⟨d, hd, h1, h2, h3, h4, h5⟩ := State.isolate_drawing (s := s.taken) (x := x) (i := i) (by rwa [State.taken_ctx]) (by rwa [State.taken_ctx])
      rw [State.isolate_evalSwap_held x (.inl (by rw [hd]; exact h1)), hd, ← s.taken_ctx i, ← s.taken_globals]
      exact ⟨h1, h2, h3, h4, h5⟩
    · rw [hctx]
      exact State.isolate_evalSwap_left x (State.isolate_left (.inl ⟨by rwa [State.taken_ctx], by rwa [State.taken_ctx]⟩))
    · rw [hctx]
      exact (State.isolate_evalSwap_left x (State.isolate_left (.inr ⟨by rwa [State.taken_ctx], by rwa [State.memberOf_congr s.taken_feeders]⟩))).1
    · have hd := State.isolate_dropping (s := s.taken) (x := x) (i := i) (by rwa [State.taken_ctx])
      rw [hctx, State.isolate_evalSwap_held x (.inl (by rw [hd, State.taken_ctx]; exact hi)), hd, State.taken_ctx]
      unfold GapFields.stripped
      rw [if_pos hr]
    · have hm : (((s.taken.isolate x).evalSwap).ack c).memberOf i = _ := State.memberOf_congr (State.sendReply_feeders _ _)
      have hd := State.isolate_evalSwap_aside (s := s.taken) x (i := i) (by rwa [State.taken_ctx]) (State.taken_contextFits hf)
      rw [hctx, hm]
      rwa [State.taken_ctx, State.memberOf_congr s.taken_feeders] at hd
    · refine (fun hy : (s.sec y).IdleOnly _ => ⟨hy.state, hy.lockout, hy.command⟩) ?_
      have hi := s.taken.isolate_sec_other hy
      rw [State.taken_sec] at hi
      rw [State.isolate_evalSwap_none x (s.taken_swap.trans hn)]
      exact (State.sendReply_sec' _ _ y).symm ▸ hi
    · rw [hctx, State.isolate_evalSwap_none x (s.taken_swap.trans hn), State.isolate_other (by rwa [State.taken_ctx]) (by rwa [State.taken_ctx]), State.taken_ctx]
  · have hq := State.taken_room ht
    have he : exec (.sectionCmdEnable c sect) s = .next (s.taken.forSection c sect (fun x => (s.taken.commandEnable x).ack c)) :=
      exec_taken (a := 0) rfl ht
    rw [he]
    unfold State.forSection
    refine ⟨fun h => ?_, fun x hx => ?_⟩
    · rw [sectionOfByte_none h]
      exact congrArg Host.Outcome.next (State.nak_room hq c .badIndex 0 sect)
    rw [sectionOfByte_of_val hx]
    refine (congrArg Host.Outcome.next (State.ack_room (s := s.taken.commandEnable x) hq c)).trans ?_
    unfold State.commandEnable
    simp only [Bool.and_eq_true, beq_iff_eq, State.taken_admission]

end

section
/-! PROOFS. What a swap that completes leaves of the feeders: their desks, and the feeders that nothing refers to. -/

namespace Sys2Proof.Machine
open Sys2Proof

/-! ### The desks of the feeders -/

/-- Every feeder keeps its configuration, its state and its timers. -/
def SameDesk (s t : State) : Prop := ∀ f, (t.fdr f).config = (s.fdr f).config ∧ (t.fdr f).state = (s.fdr f).state
  ∧ (t.fdr f).overload = (s.fdr f).overload ∧ (t.fdr f).meterLost = (s.fdr f).meterLost

namespace SameDesk
variable {s t u : State}

theorem refl (s : State) : SameDesk s s := fun _ => ⟨rfl, rfl, rfl, rfl⟩

theorem trans (h : SameDesk s t) (k : SameDesk t u) : SameDesk s u := fun f => by
  obtain ⟨h1, h2, h3, h4⟩ := h f
  obtain ⟨k1, k2, k3, k4⟩ := k f
  exact ⟨k1.trans h1, k2.trans h2, k3.trans h3, k4.trans h4⟩

theorem of_served (h : Served s t) : SameDesk s t := fun f => by
  obtain ⟨h1, h2, h3, h4, -⟩ := h.records f
  exact ⟨h1, h2, h3, h4⟩

section
variable {s0 : State} (h : SameDesk s0 s)
include h

theorem of_feeders (hf : t.feeders = s.feeders) : SameDesk s0 t :=
  h.trans fun f => by simp only [State.fdr, hf, and_self]

theorem modCtx (i : Slot) (g : Context → Context) : SameDesk s0 (s.modCtx i g) := h.of_feeders rfl

theorem sendNormal (f : Frame) : SameDesk s0 (s.sendNormal f) := h.of_feeders (by simp)

theorem report (k : EventKind) (a b : Nat) : SameDesk s0 (s.report k a b) := h.of_feeders (by simp)

theorem refuse (i : Slot) (r : Refuse) : SameDesk s0 (s.refuse i r) := h.sendNormal _

theorem tellHolder (s1 : State) (x : SectionId) : SameDesk s0 (s.tellHolder s1 x) := h.of_feeders (State.tellHolder_same _ _ _).2.1

theorem modFdr (f : FeederId) {g : Feeder → Feeder} (hg : ∀ d, (g d).config = d.config ∧ (g d).state = d.state ∧ (g d).overload = d.overload
    ∧ (g d).meterLost = d.meterLost) : SameDesk s0 (s.modFdr f g) :=
  h.trans fun k => by
    rw [State.modFdr_fdr]
    split
    next e => subst e; exact hg _
    next => exact ⟨rfl, rfl, rfl, rfl⟩

theorem setWait (f : FeederId) (l : Level) (es : Feeder → List Entry) : SameDesk s0 (s.modFdr f (fun r => r.setWait l (es r))) :=
  h.modFdr f fun d => by
    obtain ⟨h1, h2, h3, h4, -⟩ := Served.setWait_records d l (es d)
    exact ⟨h1, h2, h3, h4⟩

theorem setHold (i : Slot) (k : Option Holding) : SameDesk s0 (s.setHold i k) :=
  h.trans fun f => by rw [State.setHold_record]; exact ⟨rfl, rfl, rfl, rfl⟩

theorem setGap (i : Slot) (k : GapFields) : SameDesk s0 (s.setGap i k) :=
  h.trans fun f => by rw [State.setGap_record]; exact ⟨rfl, rfl, rfl, rfl⟩

theorem releaseHold (i : Slot) : SameDesk s0 (s.releaseHold i) := by
  unfold State.releaseHold
  split
  · exact h
  · exact (h.setHold _ _).modFdr _ fun _ => ⟨rfl, rfl, rfl, rfl⟩

theorem dropEntry (i : Slot) : SameDesk s0 (s.dropEntry i) := by
  unfold State.dropEntry
  split
  · exact h
  · exact (h.setWait _ _ fun _ => _).tellHolder _ _

theorem addEntry (i : Slot) (f : FeederId) (l : Level) (x : SectionId) (k : Mark) : SameDesk s0 (s.addEntry i f l x k) :=
  ((h.dropEntry i).setWait _ _ _).tellHolder _ _

theorem moveEntry (i : Slot) (x : SectionId) : SameDesk s0 (s.moveEntry i x) := by
  unfold State.moveEntry
  split
  · exact h
  · exact ((h.setWait _ _ fun _ => _).tellHolder _ _).tellHolder _ _

theorem modCtxTold (i : Slot) (g : Context → Context) : SameDesk s0 (s.modCtxTold i g) := by
  unfold State.modCtxTold
  split
  · exact h.modCtx _ _
  · exact (h.modCtx _ _).tellHolder _ _

theorem giveUp (i : Slot) (st : CtxState) : SameDesk s0 (s.giveUp i st) := (((h.releaseHold i).setGap i _).dropEntry i).modCtx i _

theorem queueAt (i : Slot) (f : FeederId) (l : Level) (x : SectionId) (k : Mark) : SameDesk s0 (s.queueAt i f l x k) :=
  (h.modCtxTold _ _).addEntry _ _ _ _ _

theorem wake (x : SectionId) : SameDesk s0 (s.wake x) := h.of_feeders (by rw [State.wake_eq]; rfl)

theorem arbitrateOn (w : FeederId → Bool) : SameDesk s0 (s.arbitrateOn w) := h.trans (of_served (.arbitrateOn _ _))

theorem setWithdraw (i : Slot) (r : Reason) (b : Bool) : SameDesk s0 (s.setWithdraw i r b) := h.modCtx _ _

theorem withdrawNow (i : Slot) (r : Reason) (st : CtxState) : SameDesk s0 (s.withdrawNow i r st) := (h.giveUp i st).setWithdraw i r true

theorem enterCrossing (i : Slot) : SameDesk s0 (s.enterCrossing i) := ((h.releaseHold i).setGap i _).modCtx i _

theorem deferIfQueued (i : Slot) (g : Byte) : SameDesk s0 (s.deferIfQueued i g) := by
  unfold State.deferIfQueued State.sendDfr
  split
  · split
    · exact h
    · exact h.sendNormal _
  · exact h

theorem rehome (i : Slot) : SameDesk s0 (s.rehome i) := by
  unfold State.rehome
  split
  · exact h
  · split
    · exact (h.giveUp _ _).refuse _ _
    · split
      · exact (h.moveEntry _ _).wake _
      · exact (h.queueAt _ _ _ _ _).wake _

end

theorem eachSlot {s0 : State} {g : State → Slot → State} (hg : ∀ t i, SameDesk s0 t → SameDesk s0 (g t i)) {s : State} (h : SameDesk s0 s) :
    SameDesk s0 (s.eachSlot g) := by
  unfold State.eachSlot
  generalize allSlots = l
  induction l generalizing s with
  | nil => exact h
  | cons i l ih => exact ih (hg s i h)

theorem sectionAfterSwap_feeders (s : State) (x : SectionId) : (s.sectionAfterSwap x).feeders = s.feeders := by
  unfold State.sectionAfterSwap
  split
  · split <;> rfl
  · split <;> rfl
  · split <;> rfl
  all_goals rfl

theorem eachSection_feeders {g : State → SectionId → State} (hg : ∀ t x, (g t x).feeders = t.feeders) (s : State) :
    (s.eachSection g).feeders = s.feeders := by
  unfold State.eachSection
  generalize allSections = l
  induction l generalizing s with
  | nil => rfl
  | cons x l ih => exact (ih _).trans (hg s x)

theorem resettle_feeders (s : State) (i : Slot) : (s.resettle i).feeders = s.feeders := by
  unfold State.resettle
  dsimp only
  split <;> rfl

theorem evalSwap (s : State) : SameDesk s s.evalSwap := by
  unfold State.evalSwap
  split
  · unfold State.completeSwap
    dsimp only
    have h1 : SameDesk s (s.flip.eachSlot State.resettle) := eachSlot (fun t i h => h.of_feeders (resettle_feeders t i)) fun _ => ⟨rfl, rfl, rfl, rfl⟩
    have h2 := h1.of_feeders (eachSection_feeders sectionAfterSwap_feeders (s.flip.eachSlot State.resettle))
    refine eachSlot (fun t i h => ?_) (((eachSlot (g := State.rehomeQueued) (fun t i h => ?_) h2).report _ _ _).arbitrateOn _)
    · unfold State.tellRehomed
      split
      · exact h.deferIfQueued _ _
      · exact h
    · unfold State.rehomeQueued
      split
      · exact h.rehome i
      · exact h
  · exact refl s

end SameDesk

/-! ### Feeders that nothing refers to -/

/-- The feeder is OFFLINE or TRIPPED, and nothing is committed on it, granted on it or waits on it. -/
structure Vacant (f : FeederId) (t : State) : Prop where
  down : (t.fdr f).state = .offline ∨ (t.fdr f).state = .tripped
  committed : (t.fdr f).committed = 0
  order : (t.fdr f).grantOrder = []
  waits : ∀ l, (t.fdr f).wait l = []

namespace Vacant
variable {f : FeederId} {s t : State}

theorem of_fdr (h : Vacant f s) (hf : t.fdr f = s.fdr f) : Vacant f t := by
  obtain ⟨h1, h2, h3, h4⟩ := h
  exact ⟨hf ▸ h1, hf ▸ h2, hf ▸ h3, hf ▸ h4⟩

theorem of_feeders (h : Vacant f s) (hf : t.feeders = s.feeders) : Vacant f t := h.of_fdr (by simp only [State.fdr, hf])

section
variable (h : Vacant f s)
include h

theorem modCtx (i : Slot) (g : Context → Context) : Vacant f (s.modCtx i g) := h.of_feeders rfl

theorem sendNormal (k : Frame) : Vacant f (s.sendNormal k) := h.of_feeders (by simp)

theorem report (k : EventKind) (a b : Nat) : Vacant f (s.report k a b) := h.of_feeders (by simp)

theorem sendOfr (i : Slot) (g : Byte) : Vacant f (s.sendOfr i g) := by
  unfold State.sendOfr
  dsimp only
  split
  · exact h
  · exact h.sendNormal _

theorem tellHolder (s1 : State) (x : SectionId) : Vacant f (s.tellHolder s1 x) := h.of_feeders (State.tellHolder_same _ _ _).2.1

theorem modFdr (g : FeederId) {m : Feeder → Feeder} (hg : g = f → (m (s.fdr f)).state = (s.fdr f).state
    ∧ (m (s.fdr f)).committed = 0 ∧ (m (s.fdr f)).grantOrder = [] ∧ ∀ l, (m (s.fdr f)).wait l = []) : Vacant f (s.modFdr g m) := by
  by_cases e : g = f
  · obtain ⟨h1, h2, h3, h4⟩ := hg e
    subst e
    refine ⟨?_, ?_, ?_, fun l => ?_⟩ <;> rw [State.modFdr_fdr_self]
    · rw [h1]; exact h.down
    · exact h2
    · exact h3
    · exact h4 l
  · exact h.of_fdr (State.modFdr_fdr_other _ _ e)

theorem setHold (i : Slot) {k : Option Holding} (hk : heldOn f k = 0) : Vacant f (s.setHold i k) := by
  have hr := s.setHold_record i k f
  rw [hk, h.committed, Nat.add_zero, Nat.zero_sub] at hr
  exact ⟨by rw [hr]; exact h.down, by rw [hr], by rw [hr]; exact h.order, fun l => by rw [hr]; exact h.waits l⟩

theorem setGap (i : Slot) {k : GapFields} (hk : heldOn f k.reserved = 0) : Vacant f (s.setGap i k) := by
  have hr := s.setGap_record i k f
  rw [hk, h.committed, Nat.add_zero, Nat.zero_sub] at hr
  exact ⟨by rw [hr]; exact h.down, by rw [hr], by rw [hr]; exact h.order, fun l => by rw [hr]; exact h.waits l⟩

theorem releaseHold (i : Slot) : Vacant f (s.releaseHold i) := by
  unfold State.releaseHold
  split
  · exact h
  · have h1 := h.setHold i (k := none) rfl
    exact h1.modFdr _ fun _ => ⟨rfl, h1.committed, by simp only [h1.order, List.filter_nil], h1.waits⟩

/-- No wait list of a feeder that nothing refers to gains an entry where its own entries are changed. -/
theorem setWait (g : FeederId) (l : Level) {es : List Entry} (hes : g = f → es = []) : Vacant f (s.modFdr g (fun r => r.setWait l es)) := by
  refine h.modFdr g fun e => ?_
  rw [hes e]
  obtain ⟨-, h2, -, -, h5⟩ := Served.setWait_records (s.fdr f) l []
  refine ⟨h2, (Keeps.setWait_committed _ _ _).1.trans h.committed, h5.trans h.order, fun m => ?_⟩
  have hw := h.waits m
  cases l <;> cases m
  · rfl
  · exact hw
  · exact hw
  · rfl

theorem dropEntry (i : Slot) : Vacant f (s.dropEntry i) := by
  unfold State.dropEntry
  split
  · exact h
  next m hm =>
    have hne : m.feeder ≠ f := fun e => by
      have hmem := (State.memberOf_mem hm).1
      rw [e, h.waits] at hmem
      cases hmem
    exact (h.modFdr m.feeder fun e => absurd e hne).tellHolder _ _

theorem addEntry (i : Slot) {g : FeederId} (hg : g ≠ f) (l : Level) (x : SectionId) (k : Mark) : Vacant f (s.addEntry i g l x k) :=
  ((h.dropEntry i).modFdr g fun e => absurd e hg).tellHolder _ _

theorem moveEntry (i : Slot) (x : SectionId) : Vacant f (s.moveEntry i x) := by
  unfold State.moveEntry
  split
  · exact h
  next m hm =>
    have hne : m.feeder ≠ f := fun e => by
      have hmem := (State.memberOf_mem hm).1
      rw [e, h.waits] at hmem
      cases hmem
    exact ((h.modFdr m.feeder fun e => absurd e hne).tellHolder _ _).tellHolder _ _

theorem modCtxTold (i : Slot) (g : Context → Context) : Vacant f (s.modCtxTold i g) := by
  unfold State.modCtxTold
  split
  · exact h.modCtx _ _
  · exact (h.modCtx _ _).tellHolder _ _

theorem giveUp (i : Slot) (st : CtxState) : Vacant f (s.giveUp i st) := (((h.releaseHold i).setGap i rfl).dropEntry i).modCtx i _

theorem afterRound {g : FeederId} {e : Entry} (hn : s.nextEntry g = some e) : Vacant f (s.afterRound g e) := by
  have hne : g ≠ f := fun hg => by
    have hmem := State.nextEntry_mem hn
    rw [hg, h.waits] at hmem
    cases hmem
  refine modFdr ?_ g fun e => absurd e hne
  unfold State.serve
  split
  · refine dropEntry (h.setGap _ ?_) _
    unfold GapFields.reserved
    dsimp only
    split
    next h1 h2 => cases h1; exact if_neg hne
    next => rfl
  · have h1 := (h.setHold e.slot (k := some ⟨s.candidate e.slot g e.sect, g, e.sect⟩) (if_neg hne)).dropEntry e.slot
    exact (h1.modCtx _ _).sendOfr _ _

theorem arbitrate (g : FeederId) : Vacant f (s.arbitrate g) := State.arbitrate_keeps g (fun _ _ hn _ k => k.afterRound hn) h

theorem arbitrateOn (w : FeederId → Bool) : Vacant f (s.arbitrateOn w) := State.arbitrateOn_keeps (fun _ _ _ _ hn _ k => k.afterRound hn) h

/-- Nothing is placed on a feeder that is down (R45). -/
theorem not_placed {r : Resolution} {x : SectionId} (hp : s.place r = .placed x f) : False := by
  unfold State.place at hp
  split at hp
  · cases hp
  · cases hp
  · split at hp
    · cases hp
    · split at hp
      · cases hp
      · split at hp
        next hu =>
          cases hp
          rcases h.down with hd | hd <;> rw [hd] at hu <;> cases hu
        next => cases hp

theorem rehome (i : Slot) : Vacant f (s.rehome i) := by
  unfold State.rehome
  split
  · exact h
  · split
    · exact (h.giveUp _ _).sendNormal _
    next x g hp =>
      have hne : g ≠ f := fun e => h.not_placed (e ▸ hp)
      have wake : ∀ {t : State}, Vacant f t → Vacant f (t.wake x) := fun ht => ht.of_feeders (by rw [State.wake_eq]; rfl)
      split
      · exact wake (h.moveEntry _ _)
      · exact wake ((h.modCtxTold _ _).addEntry _ hne _ _ _)

end

theorem eachSlot {g : State → Slot → State} (hg : ∀ t i, Vacant f t → Vacant f (g t i)) (h : Vacant f s) : Vacant f (s.eachSlot g) := by
  unfold State.eachSlot
  generalize allSlots = l
  induction l generalizing s with
  | nil => exact h
  | cons i l ih => exact ih (hg s i h)

theorem evalSwap (h : Vacant f s) : Vacant f s.evalSwap := by
  unfold State.evalSwap
  split
  · unfold State.completeSwap
    dsimp only
    have h1 : Vacant f (s.flip.eachSlot State.resettle) := eachSlot (fun t i h => h.of_feeders (SameDesk.resettle_feeders t i)) (h.of_feeders rfl)
    have h2 := h1.of_feeders (SameDesk.eachSection_feeders SameDesk.sectionAfterSwap_feeders (s.flip.eachSlot State.resettle))
    refine eachSlot (fun t i h => ?_) (((eachSlot (g := State.rehomeQueued) (fun t i h => ?_) h2).report _ _ _).arbitrateOn _)
    · unfold State.tellRehomed State.deferIfQueued State.sendDfr
      split
      · split
        · split
          · exact h
          · exact h.sendNormal _
        · exact h
      · exact h
    · unfold State.rehomeQueued
      split
      · exact h.rehome i
      · exact h
  · exact h

end Vacant

end Sys2Proof.Machine
end

section
/-! PROOFS. The consequences of a trip, slot by slot (R84). -/

namespace Sys2Proof.Machine
open Sys2Proof

/-! ### One slot's treatment -/

/-- A reservation on the feeder ends (R84). -/
def GapFields.strippedOn (g : GapFields) (f : FeederId) : GapFields :=
  if g.reserved.map (·.feeder) = some f then { g with feeder := none } else g

theorem State.entryOn_iff (s : State) (i : Slot) (f : FeederId) : s.entryOn i f = true ↔ (s.placeOf i).map (·.1) = some f := by
  unfold State.entryOn State.placeOf
  rw [beq_iff_eq, Option.map_map]
  rfl

theorem State.holdsOn_iff (s : State) (i : Slot) (f : FeederId) : s.holdsOn i f = true ↔ (s.ctx i).hold.map (·.feeder) = some f := by
  unfold State.holdsOn
  rw [beq_iff_eq]

theorem State.stripFeeder_ctx (s : State) (i : Slot) (f : FeederId) :
    (s.stripFeeder i f).ctx i = { s.ctx i with gap := (s.ctx i).gap.strippedOn f } := by
  have hg : ∀ t : State, (if t.entryOn i f then t.dropEntry i else t).ctx i = t.ctx i := fun t => by
    split
    · exact State.dropEntry_ctx _ _ _
    · rfl
  unfold State.stripFeeder GapFields.strippedOn
  dsimp only
  rw [hg]
  simp only [beq_iff_eq]
  split
  · rw [State.setGap_ctx, if_pos rfl]
  · rfl

theorem State.Listed.stripFeeder {s : State} {i : Slot} {w : Option Place} (h : s.Listed i w) (f : FeederId) :
    (s.stripFeeder i f).Listed i (if w.map (·.1) = some f then none else w) := by
  have drop : ∀ {t : State}, t.Listed i w → (if t.entryOn i f then t.dropEntry i else t).Listed i (if w.map (·.1) = some f then none else w) :=
    fun {t} ht => by
      simp only [State.entryOn_iff, ht.placeOf]
      split
      · exact ht.dropEntry
      · exact ht
  unfold State.stripFeeder
  dsimp only
  split
  · exact drop (h.congr (.setGap _ _ _))
  · exact drop h

theorem Moves.stripFeeder {i : Slot} {s0 s : State} (h : Moves i s0 s) (f : FeederId) : Moves i s0 (s.stripFeeder i f) := by
  unfold State.stripFeeder
  dsimp only
  split <;> split
  · exact (h.setGap _).dropEntry
  · exact h.setGap _
  · exact h.dropEntry
  · exact h

theorem Moves.withdrawNow {i : Slot} {s0 s : State} (h : Moves i s0 s) (r : Reason) (st : CtxState) : Moves i s0 (s.withdrawNow i r st) :=
  (h.giveUp st).setWithdraw r true

theorem Moves.tripDrop {i : Slot} {s0 s : State} (h : Moves i s0 s) (r : Reason) : Moves i s0 (s.tripDrop i r) := by
  unfold State.tripDrop
  split
  · exact h.enterCrossing.setWithdraw r true
  · exact h.withdrawNow r _
  · exact h.withdrawNow r _

theorem Moves.tripContext (f : FeederId) (r : Reason) (s : State) (i : Slot) : Moves i s (State.tripContext f r s i) := by
  unfold State.tripContext
  split
  · split
    · exact (Moves.refl s).withdrawNow r _
    · exact .refl s
  · split
    · exact ((Moves.refl s).tripDrop r).stripFeeder f
    · exact (Moves.refl s).stripFeeder f
  · split
    · exact ((Moves.refl s).giveUp _).same (.refuse _ _ _)
    · exact .refl s
  · split
    · exact ((Moves.refl s).giveUp _).same (.refuse _ _ _)
    · exact .refl s
  · exact (Moves.refl s).stripFeeder f
  all_goals exact .refl s

section
variable {s : State} {i : Slot} {f : FeederId} {r : Reason}

theorem State.tripContext_drawing (h : (s.ctx i).state = .drawing) (hf : s.holdsOn i f = true) :
    State.tripContext f r s i = s.withdrawNow i r .tracked := by
  unfold State.tripContext
  rw [h]
  exact if_pos hf

theorem State.tripContext_offered (h : (s.ctx i).state = .offered) (hf : s.holdsOn i f = true) :
    State.tripContext f r s i = (s.giveUp i .tracked).refuse i .feederDown := by
  unfold State.tripContext
  rw [h]
  exact if_pos hf

theorem State.tripContext_queued (h : (s.ctx i).state = .queued) (hf : s.entryOn i f = true) :
    State.tripContext f r s i = (s.giveUp i .tracked).refuse i .feederDown := by
  unfold State.tripContext
  rw [h]
  exact if_pos hf

theorem State.tripContext_dropping (h : (s.ctx i).state = .dropping) (hf : s.holdsOn i f = true) :
    State.tripContext f r s i = (s.tripDrop i r).stripFeeder i f := by
  unfold State.tripContext
  rw [h]
  dsimp only
  rw [if_pos hf]

theorem State.tripContext_elsewhere (h : (s.ctx i).state = .dropping) (hf : s.holdsOn i f = false) :
    State.tripContext f r s i = s.stripFeeder i f := by
  unfold State.tripContext
  rw [h]
  dsimp only
  rw [if_neg (by rw [hf]; decide)]

theorem State.tripContext_crossing (h : (s.ctx i).state = .crossing) : State.tripContext f r s i = s.stripFeeder i f := by
  unfold State.tripContext
  rw [h]

theorem State.tripDrop_gap (h : (s.ctx i).dropReason = some .gap) : s.tripDrop i r = (s.enterCrossing i).setWithdraw i r true := by
  unfold State.tripDrop
  rw [h]

/-- A drop that does not end in a crossing ends with nothing held (R84). -/
theorem State.tripDrop_other (h : (s.ctx i).dropReason ≠ some .gap) :
    s.tripDrop i r = s.withdrawNow i r (if (s.ctx i).dropReason = some .fault then .faulted else .tracked) := by
  unfold State.tripDrop
  split
  next hg => exact absurd hg h
  next hg => rw [if_pos hg]
  next hg => rw [if_neg hg]

theorem GapFields.strippedOn_clear (f : FeederId) : GapFields.clear.strippedOn f = GapFields.clear := by
  unfold GapFields.strippedOn
  exact if_neg (by intro h; cases h)

theorem Context.strippedOn_clear {c : Context} (h : c.gap = GapFields.clear) (f : FeederId) : { c with gap := c.gap.strippedOn f } = c := by
  rw [h, GapFields.strippedOn_clear, ← h]

/-- A gap drop on the feeder goes over into a crossing (R84, R96). -/
theorem State.tripContext_gap_ctx (h : (s.ctx i).state = .dropping) (hf : s.holdsOn i f = true) (hg : (s.ctx i).dropReason = some .gap) :
    (State.tripContext f r s i).ctx i = { s.ctx i with
      state := .crossing, hold := none, grantExpiry := none, overdraw := 0, dropReason := none, dropDeadline := none
      gap := GapFields.strippedOn { (s.ctx i).gap with crossing := seconds (s.crossingLimit i) } f, withdraw := some ⟨r, true⟩ } := by
  rw [State.tripContext_dropping h hf, State.stripFeeder_ctx, State.tripDrop_gap hg]
  unfold State.setWithdraw
  rw [State.modCtx_ctx_self, State.enterCrossing_ctx, if_pos rfl]

/-- Any other drop on the feeder ends (R84). -/
theorem State.tripContext_drop_ctx (h : (s.ctx i).state = .dropping) (hf : s.holdsOn i f = true) (hg : (s.ctx i).dropReason ≠ some .gap) :
    (State.tripContext f r s i).ctx i = { (s.ctx i).left (if (s.ctx i).dropReason = some .fault then .faulted else .tracked) with
      withdraw := some ⟨r, true⟩ } := by
  rw [State.tripContext_dropping h hf, State.stripFeeder_ctx, State.tripDrop_other hg, State.withdrawNow_self]
  exact Context.strippedOn_clear (by cases (s.ctx i).dropReason <;> rfl) f

end

/-! ### The sections of a feeder that is down (R117) -/

/-- A section record as OPEN sends it to STANDBY (R108). -/
def SectionRec.opened (r : SectionRec) : SectionRec :=
  { r with state := .standby, raiseOrigin := none, raiseTimer := none, idleTimer := none, standbyTimer := none, command := some .opening }

theorem State.sectionsDown_eq (s : State) (f : FeederId) : s.sectionsDown f = { s with sections := (s.sectionsDown f).sections }
    ∧ ∀ x, (s.sectionsDown f).sec x = if s.feederOf x == some f && (s.sec x).closedOrClosing then (s.sec x).opened else s.sec x := by
  have hg : ∀ (t : State) (x : SectionId), (if t.feederOf x == some f && (t.sec x).closedOrClosing then t.openToStandby x else t)
      = t.modSec x (fun r => if t.feederOf x == some f && r.closedOrClosing then r.opened else r) := fun t x => by
    split
    next h => exact State.modSec_congr (by rw [if_pos h]; rfl)
    next h => exact State.eq_modSec_self (by rw [if_neg h])
  exact ⟨State.eachSection_rest hg (fun _ _ _ => rfl) s, State.eachSection_sec hg (fun _ _ _ => rfl) s⟩

theorem SameSlots.sectionsDown (s : State) (f : FeederId) : SameSlots s (s.sectionsDown f) := by
  obtain ⟨h, -⟩ := s.sectionsDown_eq f
  exact .of_eq (by rw [h]) (by rw [h])

/-! ### The map stands -/

/-- The banks and the selector stand. -/
structure SameMap (s t : State) : Prop where
  bankA : t.bankA = s.bankA
  bankB : t.bankB = s.bankB
  active : t.active = s.active

namespace SameMap
variable {s t u : State}

theorem refl (s : State) : SameMap s s := ⟨rfl, rfl, rfl⟩

theorem trans (h : SameMap s t) (k : SameMap t u) : SameMap s u := ⟨k.bankA.trans h.bankA, k.bankB.trans h.bankB, k.active.trans h.active⟩

theorem of_holders (h : HoldersOnly s t) : SameMap s t := ⟨by rw [h.rest], by rw [h.rest], by rw [h.rest]⟩

theorem of_served (h : Served s t) : SameMap s t := ⟨by rw [h.rest], by rw [h.rest], by rw [h.rest]⟩

theorem sendNormal (s : State) (f : Frame) : SameMap s (s.sendNormal f) := ⟨by simp, by simp, by simp⟩

theorem activeBank (h : SameMap s t) : t.activeBank = s.activeBank := by
  unfold State.activeBank State.bank
  rw [h.active, h.bankA, h.bankB]

theorem gapEntry (h : SameMap s t) (g : GapId) : t.gapEntry g = s.gapEntry g := by
  unfold State.gapEntry
  rw [h.activeBank]

theorem feederOf (h : SameMap s t) (x : SectionId) : t.feederOf x = s.feederOf x := by
  unfold State.feederOf
  rw [h.activeBank]

theorem stripFeeder (s : State) (i : Slot) (f : FeederId) : SameMap s (s.stripFeeder i f) := by
  unfold State.stripFeeder
  dsimp only
  split <;> split
  · exact of_holders ((HoldersOnly.setGap _ _ _).trans (.dropEntry _ _))
  · exact of_holders (.setGap _ _ _)
  · exact of_holders (.dropEntry _ _)
  · exact refl s

theorem withdrawNow (s : State) (i : Slot) (r : Reason) (st : CtxState) : SameMap s (s.withdrawNow i r st) := by
  unfold State.withdrawNow State.setWithdraw
  exact (of_holders (HoldersOnly.giveUp _ _ _)).trans (of_holders (HoldersOnly.modCtx _ _ _))

theorem enterCrossing (s : State) (i : Slot) : SameMap s (s.enterCrossing i) := by
  unfold State.enterCrossing
  exact (of_holders (HoldersOnly.releaseHold _ _)).trans
    ((of_holders (HoldersOnly.setGap _ _ _)).trans (of_holders (HoldersOnly.modCtx _ _ _)))

theorem tripDrop (s : State) (i : Slot) (r : Reason) : SameMap s (s.tripDrop i r) := by
  unfold State.tripDrop
  split
  · exact (enterCrossing _ _).trans (of_holders (.modCtx _ _ _))
  · exact withdrawNow _ _ _ _
  · exact withdrawNow _ _ _ _

theorem tripContext (f : FeederId) (r : Reason) (s : State) (i : Slot) : SameMap s (State.tripContext f r s i) := by
  unfold State.tripContext
  split
  · split
    · exact withdrawNow _ _ _ _
    · exact refl s
  · split
    · exact (tripDrop _ _ _).trans (stripFeeder _ _ _)
    · exact stripFeeder _ _ _
  · split
    · exact (of_holders (.giveUp _ _ _)).trans (sendNormal _ _)
    · exact refl s
  · split
    · exact (of_holders (.giveUp _ _ _)).trans (sendNormal _ _)
    · exact refl s
  · exact stripFeeder _ _ _
  all_goals exact refl s

end SameMap

/-! ### The whole trip -/

/-- A trip's consequences and what the sections are told (R84, R117). -/
def State.trip (s : State) (f : FeederId) (r : Reason) : State := (s.tripConsequences f r).sectionsDown f

/-- The state in which the rounds after a trip begin. -/
def State.tripped (s : State) (f : FeederId) (r : Reason) : State :=
  (s.eachSlot (State.tripContext f r)).modFdr f (fun d => { d with turn := 0 })

theorem State.trip_eq (s : State) (f : FeederId) (r : Reason) :
    s.trip f r = ((s.tripped f r).arbitrateOn (s.tripFrees f)).sectionsDown f := rfl

section
variable (s : State) (f : FeederId) (r : Reason)

theorem SameSlots.resetTurn : SameSlots s (s.modFdr f (fun d => { d with turn := 0 })) := by
  refine .modFdr s f ?_
  exact fun _ => ⟨rfl, rfl, rfl⟩

/-- A trip comes to each slot as it was. -/
theorem State.tripped_at (i : Slot) : ∃ u, SameMap s u ∧ SameSlot i s u ∧ SameSlot i (State.tripContext f r u i) (s.tripped f r) := by
  obtain ⟨u, hu, hs, ht⟩ := State.eachSlot_at (Q := SameMap s) (g := State.tripContext f r) (fun t j h => h.trans (.tripContext f r t j))
    (fun t j => .tripContext f r t j) (.refl s) i
  exact ⟨u, hu, hs, ht.trans (.of_same (.resetTurn _ f))⟩

/-- The rounds after a trip serve waiting contexts alone. -/
theorem State.trip_slot {i : Slot} (hw : ((s.tripped f r).ctx i).waits = false ∨ (s.tripped f r).Listed i none) :
    SameSlot i (s.tripped f r) (s.trip f r) :=
  (SameSlot.arbitrateOn hw (s.tripFrees f)).trans (.of_same (.sectionsDown _ f))

variable {s f r} {i : Slot}

theorem State.trip_ctx_of {c : Context} (hc : (s.tripped f r).ctx i = c) (hw : c.waits = false) : (s.trip f r).ctx i = c :=
  (State.trip_slot s f r (.inl (by rw [hc]; exact hw))).ctx.trans hc

/-- A grant on the feeder ends (R84). -/
theorem State.trip_drawing (h : (s.ctx i).state = .drawing) (hf : s.holdsOn i f = true) :
    (s.trip f r).ctx i = { (s.ctx i).left .tracked with withdraw := some ⟨r, true⟩ } := by
  obtain ⟨u, -, hu, ht⟩ := s.tripped_at f r i
  refine State.trip_ctx_of (ht.ctx.trans ?_) rfl
  rw [State.tripContext_drawing (by rw [hu.ctx, h]) (by rw [State.holdsOn_iff, hu.ctx, ← State.holdsOn_iff, hf]), State.withdrawNow_self, hu.ctx]

/-- An offer on the feeder, and a wait on it, end (R84). -/
theorem State.trip_left (h : (s.ctx i).state = .offered ∧ s.holdsOn i f = true ∨ (s.ctx i).state = .queued ∧ s.entryOn i f = true) :
    (s.trip f r).ctx i = (s.ctx i).left .tracked := by
  obtain ⟨u, -, hu, ht⟩ := s.tripped_at f r i
  refine State.trip_ctx_of (ht.ctx.trans ?_) rfl
  rw [← hu.ctx, ← State.giveUp_self]
  rcases h with ⟨h, hf⟩ | ⟨h, hf⟩
  · rw [State.tripContext_offered (by rw [hu.ctx, h]) (by rw [State.holdsOn_iff, hu.ctx, ← State.holdsOn_iff, hf])]
    exact (SameSlots.refuse _ _ _).ctx i
  · rw [State.tripContext_queued (by rw [hu.ctx, h]) (by rw [State.entryOn_iff, hu.placeOf, ← State.entryOn_iff, hf])]
    exact (SameSlots.refuse _ _ _).ctx i

/-- A drop on the feeder that is not for a gap ends (R84). -/
theorem State.trip_drop (h : (s.ctx i).state = .dropping) (hf : s.holdsOn i f = true) (hg : (s.ctx i).dropReason ≠ some .gap) :
    (s.trip f r).ctx i = { (s.ctx i).left (if (s.ctx i).dropReason = some .fault then .faulted else .tracked) with
      withdraw := some ⟨r, true⟩ } := by
  obtain ⟨u, -, hu, ht⟩ := s.tripped_at f r i
  refine State.trip_ctx_of (ht.ctx.trans ?_) ?_
  · rw [State.tripContext_drop_ctx (by rw [hu.ctx, h]) (by rw [State.holdsOn_iff, hu.ctx, ← State.holdsOn_iff, hf]) (by rwa [hu.ctx]), hu.ctx]
  · unfold Context.waits Context.left Context.settled
    dsimp only
    split <;> rfl

/-- The rounds change a crossing in its reservation alone. -/
theorem State.arbitrateOn_crossing (h : (s.ctx i).state = .crossing) (w : FeederId → Bool) :
    ∃ k, (s.arbitrateOn w).ctx i = { s.ctx i with gap := { (s.ctx i).gap with feeder := k } } := by
  refine State.arbitrateOn_keeps (P := fun t => ∃ k, t.ctx i = { s.ctx i with gap := { (s.ctx i).gap with feeder := k } })
    (fun t g e _ _ _ ⟨k, hk⟩ => ?_) ⟨(s.ctx i).gap.feeder, rfl⟩
  by_cases hi : i = e.slot
  · subst hi
    refine ⟨some g, ?_⟩
    rw [State.afterRound_ctx, State.serve_crossing (by rw [hk]; exact h), State.serveCrossing_ctx, if_pos rfl, hk]
  · exact ⟨k, (SameSlot.afterRound hi).ctx.trans hk⟩

theorem State.trip_of_crossing {c : Context} (hc : (s.tripped f r).ctx i = c) (hx : c.state = .crossing) :
    ∃ k, (s.trip f r).ctx i = { c with gap := { c.gap with feeder := k } } := by
  obtain ⟨k, hk⟩ := State.arbitrateOn_crossing (s := s.tripped f r) (i := i) (by rw [hc]; exact hx) (s.tripFrees f)
  exact ⟨k, ((SameSlots.sectionsDown _ f).ctx i).trans (hc ▸ hk)⟩

/-- A gap drop on the feeder goes over into a crossing (R84, R96). -/
theorem State.trip_gapDrop (h : (s.ctx i).state = .dropping) (hf : s.holdsOn i f = true) (hg : (s.ctx i).dropReason = some .gap) :
    ∃ k, (s.trip f r).ctx i = { s.ctx i with
      state := .crossing, hold := none, grantExpiry := none, overdraw := 0, dropReason := none, dropDeadline := none
      gap := { (s.ctx i).gap with crossing := seconds (s.crossingLimit i), feeder := k }, withdraw := some ⟨r, true⟩ } := by
  obtain ⟨u, ho, hu, ht⟩ := s.tripped_at f r i
  have hc := State.tripContext_gap_ctx (r := r) (s := u) (i := i) (f := f) (by rw [hu.ctx, h])
    (by rw [State.holdsOn_iff, hu.ctx, ← State.holdsOn_iff, hf]) (by rw [hu.ctx, hg])
  obtain ⟨k, hk⟩ := State.trip_of_crossing (s := s) (f := f) (r := r) (ht.ctx.trans hc) rfl
  have hl : u.crossingLimit i = s.crossingLimit i := by
    unfold State.crossingLimit
    rw [hu.ctx]
    simp only [ho.gapEntry]
  refine ⟨k, hk.trans ?_⟩
  rw [hu.ctx, hl]
  unfold GapFields.strippedOn
  split <;> rfl

/-- A crossing, and a drop on another feeder, go on (R84). -/
theorem State.trip_crossing (h : (s.ctx i).state = .crossing) :
    ∃ k, (s.trip f r).ctx i = { s.ctx i with gap := { (s.ctx i).gap with feeder := k } } := by
  obtain ⟨u, -, hu, ht⟩ := s.tripped_at f r i
  have hc : (State.tripContext f r u i).ctx i = { s.ctx i with gap := (s.ctx i).gap.strippedOn f } := by
    rw [State.tripContext_crossing (by rw [hu.ctx, h]), State.stripFeeder_ctx, hu.ctx]
  obtain ⟨k, hk⟩ := State.trip_of_crossing (s := s) (f := f) (r := r) (ht.ctx.trans hc) h
  refine ⟨k, hk.trans ?_⟩
  unfold GapFields.strippedOn
  split <;> rfl

theorem State.trip_elsewhere (h : (s.ctx i).state = .dropping) (hf : s.holdsOn i f = false) :
    (s.trip f r).ctx i = { s.ctx i with gap := (s.ctx i).gap.strippedOn f } := by
  obtain ⟨u, -, hu, ht⟩ := s.tripped_at f r i
  refine State.trip_ctx_of (ht.ctx.trans ?_) ?_
  · rw [State.tripContext_elsewhere (by rw [hu.ctx, h]) (by rw [← hf, Bool.eq_iff_iff, State.holdsOn_iff, State.holdsOn_iff, hu.ctx]),
      State.stripFeeder_ctx, hu.ctx]
  · unfold Context.waits
    rw [show ({ s.ctx i with gap := (s.ctx i).gap.strippedOn f } : Context).state = .dropping from h]
    rfl

/-! ### What a trip leaves on the feeder -/

/-- A crossing or a gap drop keeps its gap under a trip, but for a reservation or an entry on the feeder (R84). -/
theorem State.tripContext_gap (h : (s.ctx i).state = .crossing ∨ (s.ctx i).state = .dropping ∧ (s.ctx i).dropReason = some .gap)
    {w : Option Place} (hl : s.Listed i w) :
    ((State.tripContext f r s i).ctx i).gap.feeder = ((s.ctx i).gap.strippedOn f).feeder
      ∧ (State.tripContext f r s i).Listed i (if w.map (·.1) = some f then none else w)
      ∧ (((State.tripContext f r s i).ctx i).state = .crossing ∨ ((State.tripContext f r s i).ctx i).state = .dropping) := by
  have strip : ∀ {t : State}, t.Listed i w → State.tripContext f r s i = t.stripFeeder i f → (t.ctx i).gap.reserved = (s.ctx i).gap.reserved →
      (t.ctx i).gap.feeder = (s.ctx i).gap.feeder → ((t.ctx i).state = .crossing ∨ (t.ctx i).state = .dropping) →
      ((State.tripContext f r s i).ctx i).gap.feeder = ((s.ctx i).gap.strippedOn f).feeder
      ∧ (State.tripContext f r s i).Listed i (if w.map (·.1) = some f then none else w)
      ∧ (((State.tripContext f r s i).ctx i).state = .crossing ∨ ((State.tripContext f r s i).ctx i).state = .dropping) :=
    fun {t} hl he hr hf hs => by
      rw [he, State.stripFeeder_ctx]
      refine ⟨?_, hl.stripFeeder f, hs⟩
      unfold GapFields.strippedOn
      rw [hr]
      split
      · rfl
      · exact hf
  rcases h with h | ⟨h, hg⟩
  · exact strip hl (State.tripContext_crossing h) rfl rfl (.inl h)
  · by_cases hf : s.holdsOn i f = true
    · have hc : ((s.enterCrossing i).setWithdraw i r true).ctx i = _ := State.modCtx_ctx_self _ _ _
      rw [State.enterCrossing_ctx, if_pos rfl] at hc
      refine strip (t := (s.enterCrossing i).setWithdraw i r true) (SameLists.listed (.modCtx _ _ _) hl.enterCrossing) ?_ ?_ ?_ ?_
      · rw [State.tripContext_dropping h hf, State.tripDrop_gap hg]
      · rw [hc]; rfl
      · rw [hc]
      · rw [hc]; exact .inl rfl
    · exact strip hl (State.tripContext_elsewhere h (by simpa using hf)) rfl rfl (.inr h)

end

end Sys2Proof.Machine
end

section
/-! PROOFS. The feeder that a trip leaves: nothing refers to it, and its sections are open (R80, R82, R84, R117). -/

namespace Sys2Proof.Machine
open Sys2Proof

/-! ### No slot refers to the feeder -/

/-- The slot neither holds, reserves nor waits on the feeder. -/
structure Off (f : FeederId) (i : Slot) (t : State) : Prop where
  hold : (t.ctx i).hold.map (·.feeder) ≠ some f
  reserved : (t.ctx i).gap.reserved.map (·.feeder) ≠ some f
  place : ∃ w, t.Listed i w ∧ w.map (·.1) ≠ some f

theorem GapFields.reserved_strippedOn (g : GapFields) (f : FeederId) : (g.strippedOn f).reserved.map (·.feeder) ≠ some f := by
  unfold GapFields.strippedOn
  split
  · rw [reserved_none rfl]
    exact nofun
  next h => exact h

theorem GapFields.Bare.reserved {g : GapFields} (h : g.Bare) : g.reserved = none := reserved_none h.2.2

section
variable {f : FeederId} {i : Slot} {s t : State} {r : Reason}

theorem Off.of_slot (h : Off f i s) (k : SameSlot i s t) : Off f i t :=
  ⟨by rw [k.ctx]; exact h.hold, by rw [k.ctx]; exact h.reserved, h.place.imp fun _ hw => ⟨k.listed hw.1, hw.2⟩⟩

/-- What gives everything up is off every feeder. -/
theorem Off.of_left {c : Context} {st : CtxState} (hh : (t.ctx i).hold = (c.left st).hold) (hg : (t.ctx i).gap = (c.left st).gap)
    (hl : t.Listed i none) : Off f i t :=
  ⟨by rw [hh]; cases st <;> exact nofun, by rw [hg]; cases st <;> exact nofun, none, hl, nofun⟩

/-- What stands bare is off the feeder where its grant, offer and entry are. -/
theorem Off.of_bare (hh : (t.ctx i).hold.map (·.feeder) ≠ some f) (hg : (t.ctx i).gap.Bare) {w : Option Place} (hl : t.Listed i w)
    (hw : w.map (·.1) ≠ some f) : Off f i t :=
  ⟨hh, by rw [hg.reserved]; exact nofun, w, hl, hw⟩

theorem Off.stripFeeder (hh : (s.ctx i).hold.map (·.feeder) ≠ some f) {w : Option Place} (hl : s.Listed i w) : Off f i (s.stripFeeder i f) := by
  refine ⟨?_, ?_, _, hl.stripFeeder f, ?_⟩
  · rw [State.stripFeeder_ctx]
    exact hh
  · rw [State.stripFeeder_ctx]
    exact GapFields.reserved_strippedOn _ _
  · split
    · exact nofun
    next h => exact h

theorem State.Listed.withdrawNow {w : Option Place} (hl : s.Listed i w) (r : Reason) (st : CtxState) : (s.withdrawNow i r st).Listed i none :=
  SameLists.listed (.modCtx _ _ _) (hl.giveUp st)

/-- A trip takes its slot off the feeder (R84). -/
theorem Off.tripContext {w : Option Place} {o : Option FeederId} (hl : s.Listed i w) (hf : (s.ctx i).Fits w o) :
    Off f i (State.tripContext f r s i) := by
  have elsewhere : ∀ {t : State}, ¬s.holdsOn i f = true → (t.ctx i).hold = (s.ctx i).hold → (t.ctx i).hold.map (·.feeder) ≠ some f :=
    fun h hh => by rw [hh]; rwa [State.holdsOn_iff] at h
  have nowhere : (s.ctx i).hold = none → (s.ctx i).hold.map (·.feeder) ≠ some f := fun h => by rw [h]; exact nofun
  unfold State.tripContext
  split
  next hs =>
    obtain ⟨-, hg, hw, -⟩ := hf.drawing hs
    split
    next h =>
      exact .of_left (c := s.ctx i) (by rw [State.withdrawNow_self]) (by rw [State.withdrawNow_self]) (hl.withdrawNow r _)
    next h => exact .of_bare (elsewhere h rfl) hg hl (by rw [hw]; exact nofun)
  next hs =>
    split
    next h =>
      by_cases hg : (s.ctx i).dropReason = some .gap
      · rw [State.tripDrop_gap hg]
        refine Off.stripFeeder ?_ (SameLists.listed (.modCtx _ _ _) hl.enterCrossing)
        unfold State.setWithdraw
        rw [State.modCtx_ctx_self, State.enterCrossing_ctx, if_pos rfl]
        exact nofun
      · rw [State.tripDrop_other hg]
        refine Off.stripFeeder ?_ (hl.withdrawNow r _)
        rw [State.withdrawNow_self]
        split <;> exact nofun
    next h => exact Off.stripFeeder (elsewhere h rfl) hl
  next hs =>
    obtain ⟨-, hg, hw, -⟩ := hf.offered hs
    split
    next h =>
      refine Off.of_slot ?_ (.of_same (.refuse _ _ _))
      exact .of_left (c := s.ctx i) (by rw [State.giveUp_self]) (by rw [State.giveUp_self]) (hl.giveUp _)
    next h => exact .of_bare (elsewhere h rfl) hg hl (by rw [hw]; exact nofun)
  next hs =>
    obtain ⟨hh, hg, -, -⟩ := hf.queued hs
    split
    next h =>
      refine Off.of_slot ?_ (.of_same (.refuse _ _ _))
      exact .of_left (c := s.ctx i) (by rw [State.giveUp_self]) (by rw [State.giveUp_self]) (hl.giveUp _)
    next h => exact .of_bare (nowhere hh) hg hl (by rwa [State.entryOn_iff, hl.placeOf] at h)
  next hs => exact Off.stripFeeder (nowhere (hf.crossing hs).1) hl
  next hs =>
    unfold Context.Fits at hf
    rw [hs] at hf
    obtain ⟨hc, hw, -⟩ := hf
    exact .of_bare (by rw [hc]; exact nofun) (by rw [hc]; exact GapFields.bare_clear) hl (by rw [hw]; exact nofun)
  next hs =>
    obtain ⟨hh, hg, hw, -⟩ := hf.tracked hs
    exact .of_bare (nowhere hh) hg hl (by rw [hw]; exact nofun)
  next hs =>
    obtain ⟨hh, hg, hw, -⟩ := hf.faulted hs
    exact .of_bare (nowhere hh) hg hl (by rw [hw]; exact nofun)

theorem Off.tripped (h : s.Tidy) (f : FeederId) (r : Reason) (i : Slot) : Off f i (s.tripped f r) := by
  obtain ⟨w, o, hl, -, hf⟩ := h.fits i
  obtain ⟨u, -, hu, ht⟩ := s.tripped_at f r i
  exact (Off.tripContext (hu.listed hl) (hu.ctx.symm ▸ hf)).of_slot ht

/-! ### The feeder is left vacant -/

theorem SameDesk.tripContext {s0 : State} (h : SameDesk s0 s) (f : FeederId) (r : Reason) (i : Slot) : SameDesk s0 (State.tripContext f r s i) := by
  have strip : ∀ {t : State}, SameDesk s0 t → SameDesk s0 (t.stripFeeder i f) := fun ht => by
    unfold State.stripFeeder
    dsimp only
    split <;> split
    · exact (ht.setGap _ _).dropEntry _
    · exact ht.setGap _ _
    · exact ht.dropEntry _
    · exact ht
  unfold State.tripContext
  split
  · split
    · exact h.withdrawNow _ _ _
    · exact h
  · refine strip ?_
    split
    · unfold State.tripDrop
      split
      · exact (h.enterCrossing _).setWithdraw _ _ _
      · exact h.withdrawNow _ _ _
      · exact h.withdrawNow _ _ _
    · exact h
  · split
    · exact (h.giveUp _ _).refuse _ _
    · exact h
  · split
    · exact (h.giveUp _ _).refuse _ _
    · exact h
  · exact strip h
  all_goals exact h

theorem SameDesk.tripped (s : State) (f : FeederId) (r : Reason) : SameDesk s (s.tripped f r) :=
  (SameDesk.eachSlot (fun _ i h => h.tripContext f r i) (.refl s)).modFdr f fun _ => ⟨rfl, rfl, rfl, rfl⟩

theorem State.sectionsDown_feeders (s : State) (f : FeederId) : (s.sectionsDown f).feeders = s.feeders := by
  rw [(s.sectionsDown_eq f).1]

theorem SameDesk.trip (s : State) (f : FeederId) (r : Reason) : SameDesk s (s.trip f r) :=
  ((SameDesk.tripped s f r).arbitrateOn _).of_feeders (State.sectionsDown_feeders _ f)

theorem State.Tidy.tripped (h : s.Tidy) (f : FeederId) (r : Reason) : (s.tripped f r).Tidy :=
  (h.eachSlot fun _ i k => k.tripContext f r i).of_same (.resetTurn _ f)

theorem State.budgetsAgree_tripped (h : s.budgetsAgree) (f : FeederId) (r : Reason) : (s.tripped f r).budgetsAgree :=
  have K := keepsAll_budgetsAgree.toKeeps
  K.fdr f (fun _ => ⟨rfl, rfl⟩) (K.eachSlot (fun _ i k => K.tripContext f r i k) h)

/-- A down feeder that no slot refers to is vacant. -/
theorem Vacant.of_off (hd : (t.fdr f).state = .offline ∨ (t.fdr f).state = .tripped) (ht : t.Tidy) (hb : t.budgetsAgree)
    (ho : ∀ i, Off f i t) : Vacant f t := by
  have none_on : ∀ {k : Option Holding}, k.map (·.feeder) ≠ some f → heldOn f k = 0 := fun {k} hk => by
    cases k with
    | none => rfl
    | some h => exact if_neg fun e => hk (congrArg some e)
  refine ⟨hd, ?_, ?_, fun l => ?_⟩
  · rw [hb.1 f]
    unfold State.feederSum
    refine List.sum_eq_zero fun n hn => ?_
    obtain ⟨i, -, rfl⟩ := List.mem_map.1 hn
    unfold Context.onFeeder
    rw [none_on (ho i).hold, none_on (ho i).reserved, Nat.add_zero]
  · refine List.eq_nil_iff_forall_not_mem.2 fun i hi => ?_
    obtain ⟨w, g, -, hg, hf⟩ := ht.fits i
    have hc := hg f
    rw [if_neg] at hc
    · exact absurd hi (List.count_eq_zero.1 hc)
    · intro e
      rcases hf.order with h0 | h0
      · rw [h0] at e; cases e
      · exact (ho i).hold (h0 ▸ e)
  · refine List.eq_nil_iff_forall_not_mem.2 fun e he => ?_
    obtain ⟨w, hl, hw⟩ := (ho e.slot).place
    have := hl.mem_iff.1 ⟨he, rfl⟩
    rw [this] at hw
    exact hw rfl

theorem Vacant.trip (hd : (s.fdr f).state = .offline ∨ (s.fdr f).state = .tripped) (ht : s.Tidy) (hb : s.budgetsAgree) :
    Vacant f (s.trip f r) := by
  have h : Vacant f (s.tripped f r) :=
    .of_off (by rw [(SameDesk.tripped s f r f).2.1]; exact hd) (ht.tripped f r) (State.budgetsAgree_tripped hb f r) (.tripped ht f r)
  exact (h.arbitrateOn _).of_feeders (State.sectionsDown_feeders _ f)

/-! ### The turn counter and the sections -/

theorem State.dropEntry_turn (s : State) (i : Slot) (f : FeederId) : ((s.dropEntry i).fdr f).turn = (s.fdr f).turn := by
  unfold State.dropEntry
  split
  · rfl
  · unfold State.fdr
    rw [(State.tellHolder_same _ _ _).2.1]
    show ((s.modFdr _ _).fdr f).turn = (s.fdr f).turn
    rw [State.modFdr_fdr]
    split
    next m _ e => subst e; cases m.level <;> rfl
    next => rfl

theorem State.afterRound_turn_other {g : FeederId} {e : Entry} (h : g ≠ f) : ((s.afterRound g e).fdr f).turn = (s.fdr f).turn := by
  unfold State.afterRound
  rw [State.modFdr_fdr_other _ _ h]
  unfold State.serve
  split
  · unfold State.serveCrossing State.makeReservation
    rw [State.dropEntry_turn, State.setGap_record]
  · unfold State.makeOffer
    rw [State.sendOfr_fdr, State.modCtx_fdr', State.dropEntry_turn, State.setHold_record]

theorem State.trip_turn (s : State) (f : FeederId) (r : Reason) : ((s.trip f r).fdr f).turn = 0 := by
  have h : (((s.tripped f r).arbitrateOn (s.tripFrees f)).fdr f).turn = 0 := by
    refine State.arbitrateOn_keeps (P := fun t => (t.fdr f).turn = 0) (fun t g e hg _ _ ht => ?_) ?_
    · have hne : g ≠ f := fun e => by
        unfold State.tripFrees at hg
        rw [e] at hg
        simp at hg
      rw [State.afterRound_turn_other hne]
      exact ht
    · unfold State.tripped
      rw [State.modFdr_fdr_self]
  unfold State.fdr at h ⊢
  rw [State.trip_eq, State.sectionsDown_feeders]
  exact h

theorem IdleOnly.tripContext {s0 : State} (h : IdleOnly s0 s) (f : FeederId) (r : Reason) (i : Slot) : IdleOnly s0 (State.tripContext f r s i) := by
  have strip : ∀ {t : State}, IdleOnly s0 t → IdleOnly s0 (t.stripFeeder i f) := fun ht => by
    unfold State.stripFeeder
    dsimp only
    split <;> split
    · exact (ht.setGap _ _).dropEntry _
    · exact ht.setGap _ _
    · exact ht.dropEntry _
    · exact ht
  unfold State.tripContext
  split
  · split
    · exact h.withdrawNow _ _ _
    · exact h
  · refine strip ?_
    split
    · unfold State.tripDrop
      split
      · exact (((h.releaseHold i).setGap i _).modCtx i _).setWithdraw _ _ _
      · exact h.withdrawNow _ _ _
      · exact h.withdrawNow _ _ _
    · exact h
  · split
    · exact (h.giveUp _ _).refuse _ _
    · exact h
  · split
    · exact (h.giveUp _ _).refuse _ _
    · exact h
  · exact strip h
  all_goals exact h

theorem SameMap.eachSlot {s0 : State} {g : State → Slot → State} (hg : ∀ t i, SameMap t (g t i)) (h : SameMap s0 s) : SameMap s0 (s.eachSlot g) := by
  unfold State.eachSlot
  generalize allSlots = l
  induction l generalizing s with
  | nil => exact h
  | cons i l ih => exact ih (h.trans (hg s i))

/-- The sections of the feeder that were closed or closing are open (R117). -/
theorem State.trip_sec (s : State) (f : FeederId) (r : Reason) {x : SectionId} (hx : s.feederOf x = some f)
    (h : (s.sec x).closedOrClosing = true) : (s.trip f r).sec x = (s.sec x).opened := by
  have hi : IdleOnly s ((s.tripped f r).arbitrateOn (s.tripFrees f)) :=
    (((IdleOnly.refl s).eachSlot (g := State.tripContext f r) fun t i k => k.tripContext f r i).modFdr f _).arbitrateOn _
  have hm : SameMap s ((s.tripped f r).arbitrateOn (s.tripFrees f)) :=
    ((SameMap.eachSlot (SameMap.tripContext f r) (.refl s)).trans (.of_holders (.modFdr _ f _))).trans (.of_served (.arbitrateOn _ _))
  have hr := hi x
  rw [State.trip_eq, (State.sectionsDown_eq _ f).2, hm.feederOf, if_pos]
  · unfold SectionRec.opened
    rw [hr.1]
  · unfold SectionRec.closedOrClosing at h ⊢
    rw [hr.state, h, hx, beq_self_eq_true]
    rfl

end

end Sys2Proof.Machine
end

section
/-! PROOFS. Feeders are lost (R80 to R82, R84). -/

namespace Sys2Proof.Machine
open Sys2Proof

/-- A slot waits on the feeder of its place, and on no other. -/
theorem State.Listed.waits_iff {s : State} {i : Slot} {w : Option Place} (h : s.Listed i w) (g : FeederId) :
    (∃ e ∈ (s.fdr g).wait1 ++ (s.fdr g).wait2, e.slot = i) ↔ w.map (·.1) = some g := by
  constructor
  · rintro ⟨e, he, hs⟩
    rcases List.mem_append.1 he with he | he
    · rw [h.mem_iff (f := g) (l := .one) |>.1 ⟨he, hs⟩]; rfl
    · rw [h.mem_iff (f := g) (l := .two) |>.1 ⟨he, hs⟩]; rfl
  · intro hw
    obtain ⟨⟨g', l, e⟩, rfl, rfl⟩ := Option.map_eq_some_iff.1 hw
    obtain ⟨he, hs⟩ := h.mem_iff.2 rfl
    refine ⟨e, List.mem_append.2 ?_, hs⟩
    cases l
    · exact .inl he
    · exact .inr he

/-- What stands through the evaluation of a swap. -/
theorem State.evalSwap_resettled {t : State} {i : Slot} {c : Context} (h : t.ctx i = c) (hq : c.state ≠ .queued) :
    ∃ p, t.evalSwap.ctx i = { c with pos := p } := by
  obtain ⟨-, r, a, he⟩ := State.evalSwap_ctx (s := t) (i := i) (by rw [h]; exact hq)
  exact ⟨_, he.trans (by rw [h])⟩

section
variable {s : State} {f : FeederId} {r : Reason} {i : Slot}

/-! ### Grants, offers, waits and drops on the feeder -/

theorem State.lost_drawing (h : (s.ctx i).state = .drawing) (hf : s.holdsOn i f = true) :
    ((s.trip f r).evalSwap.ctx i).state = .tracked ∧ ((s.trip f r).evalSwap.ctx i).hold = none
      ∧ ((s.trip f r).evalSwap.ctx i).withdraw = some ⟨r, true⟩ := by
  obtain ⟨p, hp⟩ := State.evalSwap_resettled (State.trip_drawing (r := r) h hf) nofun
  rw [hp]
  exact ⟨rfl, rfl, rfl⟩

theorem State.lost_left (h : (s.ctx i).state = .offered ∧ s.holdsOn i f = true ∨ (s.ctx i).state = .queued ∧ s.entryOn i f = true) :
    ((s.trip f r).evalSwap.ctx i).state = .tracked ∧ ((s.trip f r).evalSwap.ctx i).hold = none := by
  obtain ⟨p, hp⟩ := State.evalSwap_resettled (State.trip_left (r := r) h) nofun
  rw [hp]
  exact ⟨rfl, rfl⟩

/-- A drop or a crossing that stands after a trip holds the swap up. -/
theorem State.trip_evalSwap_held {c : Context} (h : (s.trip f r).ctx i = c) (hc : c.state = .crossing ∨ c.state = .dropping) :
    (s.trip f r).evalSwap = s.trip f r :=
  State.evalSwap_held (by rw [h]; exact hc.symm)

theorem State.lost_drop (h : (s.ctx i).state = .dropping) (hf : s.holdsOn i f = true) :
    ((s.trip f r).evalSwap.ctx i).hold = none ∧ ((s.trip f r).evalSwap.ctx i).withdraw = some ⟨r, true⟩
      ∧ ((s.trip f r).evalSwap.ctx i).state = (if (s.ctx i).dropReason = some .gap then .crossing
          else if (s.ctx i).dropReason = some .fault then .faulted else .tracked) := by
  by_cases hg : (s.ctx i).dropReason = some .gap
  · obtain ⟨k, hk⟩ := State.trip_gapDrop (r := r) h hf hg
    rw [State.trip_evalSwap_held hk (.inl rfl), hk, if_pos hg]
    exact ⟨rfl, rfl, rfl⟩
  · obtain ⟨p, hp⟩ := State.evalSwap_resettled (State.trip_drop (r := r) h hf hg) (by
      unfold Context.left Context.settled
      dsimp only
      split <;> decide)
    rw [hp, if_neg hg]
    unfold Context.left Context.settled
    exact ⟨rfl, rfl, rfl⟩

/-! ### Crossings and gap drops -/

/-- A crossing, and a drop that goes on or goes over into one, hold the swap up. -/
theorem State.lost_held (h : (s.ctx i).state = .crossing ∨ (s.ctx i).state = .dropping ∧ ((s.ctx i).dropReason = some .gap ∨ s.holdsOn i f = false)) :
    (s.trip f r).evalSwap = s.trip f r := by
  rcases h with h | ⟨h, hg⟩
  · obtain ⟨k, hk⟩ := State.trip_crossing (f := f) (r := r) h
    exact State.trip_evalSwap_held hk (.inl h)
  · by_cases hf : s.holdsOn i f = true
    · obtain ⟨k, hk⟩ := State.trip_gapDrop (r := r) h hf (hg.resolve_right (by rw [hf]; decide))
      exact State.trip_evalSwap_held hk (.inl rfl)
    · exact State.trip_evalSwap_held (State.trip_elsewhere (r := r) h (by simpa using hf)) (.inr h)

section
variable (hx : (s.ctx i).state = .crossing ∨ (s.ctx i).state = .dropping ∧ (s.ctx i).dropReason = some .gap)
include hx

/-- The gap itself stands through a trip. -/
theorem State.trip_gapFields (f : FeederId) (r : Reason) : ((s.trip f r).ctx i).gap.gapId = (s.ctx i).gap.gapId
    ∧ ((s.trip f r).ctx i).gap.target = (s.ctx i).gap.target ∧ ((s.trip f r).ctx i).gap.amount = (s.ctx i).gap.amount := by
  rcases hx with h | ⟨h, hg⟩
  · obtain ⟨k, hk⟩ := State.trip_crossing (f := f) (r := r) h
    rw [hk]
    exact ⟨rfl, rfl, rfl⟩
  · by_cases hf : s.holdsOn i f = true
    · obtain ⟨k, hk⟩ := State.trip_gapDrop (r := r) h hf hg
      rw [hk]
      exact ⟨rfl, rfl, rfl⟩
    · rw [State.trip_elsewhere h (by simpa using hf)]
      unfold GapFields.strippedOn
      split <;> exact ⟨rfl, rfl, rfl⟩

variable {w : Option Place} (hl : s.Listed i w)
include hl

/-- What waits nowhere once it is treated keeps what the treatment left. -/
theorem State.trip_unlisted (hw : w = none ∨ w.map (·.1) = some f) :
    ((s.trip f r).ctx i).gap.feeder = ((s.ctx i).gap.strippedOn f).feeder ∧ (s.trip f r).Listed i none := by
  obtain ⟨u, -, hu, ht⟩ := s.tripped_at f r i
  obtain ⟨hf, hn, -⟩ := State.tripContext_gap (f := f) (r := r) (s := u) (by rwa [hu.ctx]) (hu.listed hl)
  have hn : (State.tripContext f r u i).Listed i none := by
    rcases hw with rfl | hw
    · exact hn
    · rwa [if_pos hw] at hn
  have hs := State.trip_slot s f r (.inr (ht.listed hn))
  rw [hu.ctx] at hf
  exact ⟨by rw [hs.ctx, ht.ctx]; exact hf, hs.listed (ht.listed hn)⟩

/-- An entry on another feeder stands or has become a reservation there (R84, R99). -/
theorem State.trip_listed {g : FeederId} (hg : g ≠ f) (hw : w.map (·.1) = some g) :
    (s.trip f r).Listed i w ∨ ((s.trip f r).ctx i).gap.feeder = some g := by
  obtain ⟨⟨g, l, e⟩, rfl, rfl⟩ := Option.map_eq_some_iff.1 hw
  let P : State → Prop := fun t => ((t.ctx i).state = .crossing ∨ (t.ctx i).state = .dropping)
    ∧ (t.Listed i (some (g, l, e)) ∨ t.Listed i none ∧ (t.ctx i).gap.feeder = some g)
  have h0 : P (s.tripped f r) := by
    obtain ⟨u, -, hu, ht⟩ := s.tripped_at f r i
    obtain ⟨-, hn, hs⟩ := State.tripContext_gap (f := f) (r := r) (s := u) (by rwa [hu.ctx]) (hu.listed hl)
    rw [if_neg (show ¬(some (g, l, e)).map (·.1) = some f from fun e => hg (Option.some.inj e))] at hn
    exact ⟨by rw [ht.ctx]; exact hs, .inl (ht.listed hn)⟩
  have h1 : P ((s.tripped f r).arbitrateOn (s.tripFrees f)) := by
    refine State.arbitrateOn_keeps (P := P) (fun t k a _ hn _ ht => ?_) h0
    obtain ⟨hs, hp⟩ := ht
    by_cases hi : i = a.slot
    · have hc : (t.ctx i).state = .crossing := hs.resolve_right fun hd => by
        have hw := State.nextEntry_waits hn
        rw [← hi] at hw
        unfold Context.waits at hw
        rw [hd] at hw
        cases hw
      have hp := hp.resolve_right fun hp => nomatch hp.1.mem_iff.1 ⟨State.nextEntry_mem hn, hi.symm⟩
      have hk := hp.mem_iff.1 ⟨State.nextEntry_mem hn, hi.symm⟩
      cases hk
      subst hi
      have ha : ((t.afterRound g e).ctx e.slot) = _ := (State.afterRound_ctx t g e e.slot).trans
        ((congrArg (fun v : State => v.ctx e.slot) (State.serve_crossing hc g)).trans (State.serveCrossing_ctx t e.slot e.slot g))
      rw [if_pos rfl] at ha
      refine ⟨by rw [ha]; exact .inl hc, .inr ⟨?_, by rw [ha]⟩⟩
      refine SameLists.listed (SameSlots.afterRound t g e).lists ?_
      rw [State.serve_crossing hc]
      exact (hp.congr (.setGap _ _ _)).dropEntry
    · have hk := SameSlot.afterRound (s := t) (f := k) hi
      refine ⟨by rw [hk.ctx]; exact hs, hp.imp (fun h => hk.listed h) fun h => ⟨hk.listed h.1, by rw [hk.ctx]; exact h.2⟩⟩
  have hd := SameSlots.sectionsDown ((s.tripped f r).arbitrateOn (s.tripFrees f)) f
  rw [State.trip_eq]
  refine h1.2.imp (fun h => hd.lists.listed h) fun h => ?_
  rw [hd.ctx]
  exact h.2

omit hl in
/-- A crossing's, and a gap drop's, reservation excludes an entry (R99). -/
theorem Context.Fits.crosses {o : Option FeederId} (hf : (s.ctx i).Fits w o) : (s.ctx i).gap.Crosses w := by
  rcases hx with h | ⟨h, hg⟩
  · exact (hf.crossing h).2.1
  · have := (hf.dropping h).2.2
    rwa [if_pos hg] at this

/-- A reservation or an entry on the feeder ends with nothing in its place (R84). -/
theorem State.trip_stripped (hc : (s.ctx i).gap.Crosses w)
    (h : (s.ctx i).gap.target ≠ none ∧ (s.ctx i).gap.feeder = some f ∨ w.map (·.1) = some f) :
    ((s.trip f r).ctx i).gap.feeder = none ∧ (s.trip f r).Listed i none := by
  have hw : w = none ∨ w.map (·.1) = some f := h.imp (fun h => hc.1 (by rw [h.2]; exact nofun)) id
  obtain ⟨hf, hn⟩ := State.trip_unlisted (r := r) hx hl hw
  refine ⟨hf.trans ?_, hn⟩
  unfold GapFields.strippedOn GapFields.reserved
  rcases h with ⟨ht, hf⟩ | h
  · obtain ⟨x, hx⟩ := Option.ne_none_iff_exists'.1 ht
    rw [hf, hx]
    simp
  · have hfn : (s.ctx i).gap.feeder = none := by
      by_contra hne
      rw [hc.1 hne] at h
      cases h
    rw [hfn]
    simpa using hfn

/-- A reservation on another feeder stands (R84). -/
theorem State.trip_reserved (hc : (s.ctx i).gap.Crosses w) {g : FeederId} (hg : g ≠ f) (h : (s.ctx i).gap.feeder = some g) :
    ((s.trip f r).ctx i).gap.feeder = some g := by
  rw [(State.trip_unlisted (r := r) (f := f) hx hl (.inl (hc.1 (by rw [h]; exact nofun)))).1]
  unfold GapFields.strippedOn
  rw [if_neg]
  · exact h
  · unfold GapFields.reserved
    rw [h]
    cases (s.ctx i).gap.target with
    | none => exact nofun
    | some x => exact fun e => hg (Option.some.inj e)

end
end

end Sys2Proof.Machine
end

section
/-! PROOFS. What is left of a feeder that goes OFFLINE (R80 to R82, R84, R117). -/

namespace Sys2Proof.Machine
open Sys2Proof

theorem SameBody.ctx {s t : State} (h : SameBody s t) (i : Slot) : t.ctx i = s.ctx i := by unfold State.ctx; rw [h.contexts]

theorem SameBody.fdr {s t : State} (h : SameBody s t) (f : FeederId) : t.fdr f = s.fdr f := by unfold State.fdr; rw [h.feeders]

theorem SameBody.sec {s t : State} (h : SameBody s t) (x : SectionId) : t.sec x = s.sec x := by unfold State.sec; rw [h.sections]

theorem SameBody.sameMap {s t : State} (h : SameBody s t) : SameMap s t := ⟨h.bankA, h.bankB, h.active⟩

theorem SameBody.sameSlots {s t : State} (h : SameBody s t) : SameSlots s t := .of_eq h.contexts h.feeders

theorem SameBody.budgetsAgree {s t : State} (h : SameBody s t) (hb : s.budgetsAgree) : t.budgetsAgree :=
  budgetsAgree_of_same (fun j => by rw [h.ctx]; exact ⟨rfl, rfl⟩) (fun f => by rw [h.fdr]) (fun x => by unfold State.load; rw [h.loads]) hb

theorem SameSlots.stopFeeder (s : State) (f : FeederId) (st : FeederState) : SameSlots s (s.stopFeeder f st) := by
  refine .modFdr s f ?_
  exact fun _ => ⟨rfl, rfl, rfl⟩

section
variable {s v t : State} {f : FeederId} {r : Reason} {i : Slot}

theorem State.holdsOn_congr (h : v.ctx i = s.ctx i) (f : FeederId) : v.holdsOn i f = s.holdsOn i f := by
  unfold State.holdsOn
  rw [h]

theorem SameSlot.entryOn (h : SameSlot i s v) (f : FeederId) : v.entryOn i f = s.entryOn i f := by
  rw [Bool.eq_iff_iff, State.entryOn_iff, State.entryOn_iff, h.placeOf]

theorem SameDesk.gone (h : SameBody (v.trip f r).evalSwap t) : SameDesk v t :=
  ((SameDesk.trip v f r).trans (.evalSwap _)).of_feeders h.feeders

/-- What a feeder that is down leaves when nothing on it is left (R84). -/
theorem Vacant.gone (h : SameBody (v.trip f r).evalSwap t) (hd : (v.fdr f).state = .offline ∨ (v.fdr f).state = .tripped) (ht : v.Tidy)
    (hb : v.budgetsAgree) : Vacant f t := (Vacant.trip hd ht hb).evalSwap.of_feeders h.feeders

theorem State.budgetsAgree_gone (h : SameBody (v.trip f r).evalSwap t) (hb : v.budgetsAgree) : t.budgetsAgree :=
  have K := keepsAll_budgetsAgree.toKeeps
  h.budgetsAgree (K.evalSwap (K.sectionsDown _ (K.tripConsequences _ _ hb)))

theorem State.trip_evalSwap_none (hn : v.swap = .none) (f : FeederId) (r : Reason) : (v.trip f r).evalSwap = v.trip f r :=
  State.evalSwap_none ((((Onward.refl v).tripConsequences f r).sectionsDown f).swap_none hn).1

/-- Once no swap is pending the turn counter is 0 and the sections are opened (R117). -/
theorem State.gone_settled (h : SameBody (v.trip f r).evalSwap t) (hn : v.swap = .none) :
    (t.fdr f).turn = 0 ∧ ∀ x, v.feederOf x = some f → (v.sec x).closedOrClosing = true → t.sec x = (v.sec x).opened := by
  rw [State.trip_evalSwap_none hn] at h
  exact ⟨(congrArg Feeder.turn (h.fdr f)).trans (State.trip_turn v f r), fun x hx hc => (h.sec x).trans (State.trip_sec v f r hx hc)⟩

/-! ### Crossings and drops that go on -/

theorem State.gone_crossing (h : SameBody (v.trip f r).evalSwap t) (hc : (v.ctx i).state = .crossing) : (t.ctx i).state = .crossing := by
  obtain ⟨k, hk⟩ := State.trip_crossing (f := f) (r := r) hc
  rw [h.ctx, State.lost_held (.inl hc), hk]
  exact hc

theorem State.gone_dropping (h : SameBody (v.trip f r).evalSwap t) (hc : (v.ctx i).state = .dropping) (hf : v.holdsOn i f = false) :
    (t.ctx i).state = .dropping ∧ (t.ctx i).dropReason = (v.ctx i).dropReason ∧ (t.ctx i).hold = (v.ctx i).hold
      ∧ (t.ctx i).dropDeadline = (v.ctx i).dropDeadline := by
  rw [h.ctx, State.lost_held (.inr ⟨hc, .inr hf⟩), State.trip_elsewhere hc hf]
  exact ⟨hc, rfl, rfl, rfl⟩

theorem State.gone_gapDrop (h : SameBody (v.trip f r).evalSwap t) (hc : (v.ctx i).state = .dropping) (hg : (v.ctx i).dropReason = some .gap)
    (hf : v.holdsOn i f = true) : (t.ctx i).gap.crossing = seconds (v.crossingLimit i) := by
  obtain ⟨k, hk⟩ := State.trip_gapDrop (r := r) hc hf hg
  rw [h.ctx, State.lost_held (.inr ⟨hc, .inl hg⟩), hk]

section
variable (h : SameBody (v.trip f r).evalSwap t) (hx : (v.ctx i).state = .crossing ∨ (v.ctx i).state = .dropping ∧ (v.ctx i).dropReason = some .gap)
include h hx

/-- What a crossing or a gap drop has after the feeder's end is what the trip leaves. -/
theorem State.gone_slot : SameSlot i (v.trip f r) t := by
  have hs := SameSlot.of_same (i := i) h.sameSlots
  rwa [State.lost_held (hx.imp id fun h => ⟨h.1, .inl h.2⟩)] at hs

/-- The reservation or the entry of a crossing or a gap drop ends on the feeder and stands, or moves over, on another (R84, R99). -/
theorem State.gone_place (ht : v.Tidy) :
    ((v.ctx i).gap.target ≠ none → (v.ctx i).gap.feeder = some f → (t.ctx i).gap.feeder = none ∧ t.placeOf i = none)
    ∧ ((v.placeOf i).map (·.1) = some f → (t.ctx i).gap.feeder = none ∧ t.placeOf i = none)
    ∧ (∀ g, g ≠ f → (v.ctx i).gap.feeder = some g → (t.ctx i).gap.feeder = some g)
    ∧ ∀ g, g ≠ f → (v.placeOf i).map (·.1) = some g → (t.placeOf i).map (·.1) = some g ∨ (t.ctx i).gap.feeder = some g := by
  obtain ⟨w, o, hl, -, hf⟩ := ht.fits i
  have hk := State.gone_slot h hx
  have hc := hf.crosses hx
  rw [hl.placeOf, hk.ctx]
  have stripped : (v.ctx i).gap.target ≠ none ∧ (v.ctx i).gap.feeder = some f ∨ w.map (·.1) = some f →
      ((v.trip f r).ctx i).gap.feeder = none ∧ t.placeOf i = none := fun hs =>
    (State.trip_stripped hx hl hc hs).imp id fun hn => (hk.listed hn).placeOf
  refine ⟨fun h1 h2 => stripped (.inl ⟨h1, h2⟩), fun h1 => stripped (.inr h1), fun g hg h1 => State.trip_reserved hx hl hc hg h1, fun g hg h1 => ?_⟩
  exact (State.trip_listed hx hl hg h1).imp (fun hn => by rw [(hk.listed hn).placeOf]; exact h1) id

end

/-- In a tidy state the feeder that a slot waits on is told by its place. -/
theorem State.Tidy.waits_iff (h : s.Tidy) (i : Slot) (g : FeederId) :
    (∃ e ∈ (s.fdr g).wait1 ++ (s.fdr g).wait2, e.slot = i) ↔ (s.placeOf i).map (·.1) = some g := by
  obtain ⟨w, -, hl, -, -⟩ := h.fits i
  rw [hl.waits_iff, hl.placeOf]

theorem State.Tidy.gone (h : SameBody (v.trip f r).evalSwap t) (ht : v.Tidy) : t.Tidy :=
  (((ht.tripConsequences f r).sectionsDown f).evalSwap).of_same h.sameSlots

/-! ### Meter silence (R81) -/

theorem State.sectionsSuspect_eq (s : State) (f : FeederId) : s.sectionsSuspect f = { s with sections := (s.sectionsSuspect f).sections }
    ∧ ∀ x, (s.sectionsSuspect f).sec x = if s.feederOf x == some f && (s.sec x).state == .raising then (s.sec x).opened else s.sec x := by
  have hg : ∀ (t : State) (x : SectionId), (if t.feederOf x == some f && (t.sec x).state == .raising then t.openToStandby x else t)
      = t.modSec x (fun r => if t.feederOf x == some f && r.state == .raising then r.opened else r) := fun t x => by
    split
    next h => exact State.modSec_congr (by rw [if_pos h]; rfl)
    next h => exact State.eq_modSec_self (by rw [if_neg h])
  exact ⟨State.eachSection_rest hg (fun _ _ _ => rfl) s, State.eachSection_sec hg (fun _ _ _ => rfl) s⟩

theorem State.feederSilent_online (h : (s.fdr f).state = .online) :
    let t := s.feederSilent f
    (∀ g, t.fdr g = if g = f then { s.fdr f with state := .suspect, meterLost := some ((s.fdr f).config.meterLostTime * 1000) } else s.fdr g)
    ∧ t.meters = s.meters ∧ t.latches.getLsbD 11 = true ∧ t.contexts = s.contexts
    ∧ ∀ x, t.sec x = if s.feederOf x = some f ∧ (s.sec x).state = .raising then (s.sec x).opened else s.sec x := by
  unfold State.feederSilent
  rw [if_pos (by rw [h]; rfl)]
  generalize hv : s.modFdr f _ = v
  generalize hu : v.report .feederSuspect f.val (s.fdr f).committed = u
  have hb : SameBody v u := by rw [← hu]; exact .report _ _ _ _
  have hm : SameMap s u := ⟨by rw [hb.bankA, ← hv]; rfl, by rw [hb.bankB, ← hv]; rfl, by rw [hb.active, ← hv]; rfl⟩
  obtain ⟨hr, hsec⟩ := u.sectionsSuspect_eq f
  dsimp only
  refine ⟨fun g => ?_, ?_, ?_, ?_, fun x => ?_⟩
  · have hf : (u.sectionsSuspect f).feeders = u.feeders := by rw [hr]
    unfold State.fdr
    rw [hf]
    refine (hb.fdr g).trans ?_
    rw [← hv, State.modFdr_fdr]
    by_cases hg : f = g
    · subst hg; rw [if_pos rfl, if_pos rfl]; rfl
    · rw [if_neg hg, if_neg (Ne.symm hg)]; rfl
  · rw [show (u.sectionsSuspect f).meters = u.meters by rw [hr], hb.meters, ← hv]
    rfl
  · rw [show (u.sectionsSuspect f).latches = u.latches by rw [hr], ← hu, State.report_latches]
    simp [EventKind.place]
  · rw [show (u.sectionsSuspect f).contexts = u.contexts by rw [hr], hb.contexts, ← hv]
    rfl
  · rw [hsec, hb.sec, hm.feederOf, ← hv]
    simp only [Bool.and_eq_true, beq_iff_eq]
    rfl

end

end Sys2Proof.Machine
end

section
/-! PROOFS. The losses of a feeder as they are stated (R80 to R82, R84). -/

namespace Sys2Proof.Machine
open Sys2Proof

section
variable {s v t : State} {f : FeederId} {r : Reason}

/-- The contexts on the feeder, at the stopped state. -/
theorem State.gone_contexts (hs : SameSlots s v) (h : SameBody (v.trip f r).evalSwap t) (i : Slot) :
    (s.holdsOn i f = true → (s.ctx i).state = .drawing →
      (t.ctx i).state = .tracked ∧ (t.ctx i).hold = none ∧ (t.ctx i).withdraw = some ⟨r, true⟩)
    ∧ (s.holdsOn i f = true → (s.ctx i).state = .offered → (t.ctx i).state = .tracked ∧ (t.ctx i).hold = none)
    ∧ (s.holdsOn i f = true → (s.ctx i).state = .dropping →
      (t.ctx i).hold = none ∧ (t.ctx i).withdraw = some ⟨r, true⟩
      ∧ (t.ctx i).state = (if (s.ctx i).dropReason = some .gap then .crossing
          else if (s.ctx i).dropReason = some .fault then .faulted else .tracked))
    ∧ (s.entryOn i f = true → (s.ctx i).state = .queued → (t.ctx i).state = .tracked) := by
  rw [h.ctx, ← (SameSlot.of_same hs).entryOn f, ← State.holdsOn_congr (hs.ctx i) f, ← hs.ctx i]
  exact ⟨fun hf hc => State.lost_drawing hc hf, fun hf hc => State.lost_left (.inl ⟨hc, hf⟩), fun hf hc => State.lost_drop hc hf,
    fun he hc => (State.lost_left (.inr ⟨hc, he⟩)).1⟩

/-- The crossings and the drops of a tidy state, at the stopped state. -/
theorem State.gone_crossings (hs : SameSlots s v) (hm : SameMap s v) (h : SameBody (v.trip f r).evalSwap t) (hv : s.Tidy) (i : Slot) :
    let c := s.ctx i
    let d := t.ctx i
    let waits := fun (u : State) (g : FeederId) => ∃ e ∈ (u.fdr g).wait1 ++ (u.fdr g).wait2, e.slot = i
    (c.state = .crossing → d.state = .crossing)
    ∧ (c.state = .dropping → s.holdsOn i f = false →
        d.state = .dropping ∧ d.dropReason = c.dropReason ∧ d.hold = c.hold ∧ d.dropDeadline = c.dropDeadline)
    ∧ (c.state = .dropping → c.dropReason = some .gap → s.holdsOn i f = true →
        ∀ g, c.gap.gapId = some g → d.gap.crossing = some ((s.gapEntry g).crossingLimit * 1000))
    ∧ (c.state = .crossing ∨ c.state = .dropping ∧ c.dropReason = some .gap →
        d.gap.gapId = c.gap.gapId ∧ d.gap.target = c.gap.target ∧ d.gap.amount = c.gap.amount
        ∧ (c.gap.target ≠ none → c.gap.feeder = some f → d.gap.feeder = none ∧ ∀ g, ¬waits t g)
        ∧ (waits s f → d.gap.feeder = none ∧ ∀ g, ¬waits t g)
        ∧ (∀ g, g ≠ f → c.gap.feeder = some g → d.gap.feeder = some g)
        ∧ ∀ g, g ≠ f → waits s g → waits t g ∨ d.gap.feeder = some g) := by
  have ht := State.Tidy.gone h (hv.of_same hs)
  have hl := (SameSlot.of_same (i := i) hs).placeOf
  have nowhere : t.placeOf i = none → ∀ g, ¬(t.placeOf i).map (·.1) = some g := fun hn g => by rw [hn]; exact nofun
  dsimp only
  simp only [hv.waits_iff, ht.waits_iff, ← hl]
  rw [← State.holdsOn_congr (hs.ctx i) f, ← hs.ctx i]
  refine ⟨State.gone_crossing h, State.gone_dropping h, fun hc hg hf g hi => ?_, fun hx => ?_⟩
  · rw [State.gone_gapDrop h hc hg hf]
    unfold State.crossingLimit
    rw [hi]
    exact congrArg (fun e : GapEntry => seconds e.crossingLimit) (hm.gapEntry g)
  · obtain ⟨h1, h2, h3⟩ := State.trip_gapFields hx f r
    rw [← (State.gone_slot h hx).ctx] at h1 h2 h3
    obtain ⟨h4, h5, h6, h7⟩ := State.gone_place h hx (hv.of_same hs)
    exact ⟨h1, h2, h3, fun ht hf => (h4 ht hf).imp id nowhere, fun hw => (h5 hw).imp id nowhere, h6, h7⟩

end

theorem State.feederOffline_eq {s : State} {f : FeederId} (h : (s.fdr f).state ≠ .offline) :
    s.feederOffline f = ((s.stopFeeder f .offline).trip f .feederDown).evalSwap := if_neg (by simpa using h)

theorem State.feederOffline_same {s : State} {f : FeederId} (h : (s.fdr f).state = .offline) : s.feederOffline f = s := if_pos (by rw [h]; rfl)

theorem State.feederLost_latches (s : State) (f : FeederId) : (s.feederLost f).latches.getLsbD 12 = true := by
  have h := (((Onward.refl ((s.stopFeeder f .offline).report .feederOffline f.val (s.fdr f).committed)).tripConsequences f .meterLost).sectionsDown
    f).evalSwap
  refine h.latches 12 ?_
  rw [State.report_latches]
  simp [EventKind.place]

theorem SameBody.ack (s : State) (c : Caller) : SameBody s (s.ack c) := SameBody.sendReply (s := s) _

theorem SameBody.taken (s : State) : SameBody s s.taken := by constructor <;> simp

theorem exec_feederCmdOffline {s : State} {c : Caller} {b : Byte} (h : s.takes (.feederCmdOffline c b)) :
    exec (.feederCmdOffline c b) s
      = .next (s.taken.forFeeder c b (fun f => (s.taken.feederOffline f).ack c)) :=
  exec_taken (a := 0) rfl h

/-- A silent meter puts its feeder in SUSPECT, and no other (R81). -/
theorem State.meterSilent_spec (s : State) (f : FeederId) :
    let u := s.modMeter f (fun m => { m with silence := none })
    ((s.fdr f).state ≠ .online → Host.Outcome.next (s.meterSilent f) = (.next u : Host.Outcome State Fault Refusal))
    ∧ ((s.fdr f).state = .online → ∃ t, Host.Outcome.next (s.meterSilent f) = (.next t : Host.Outcome State Fault Refusal)
        ∧ (∀ g, t.fdr g = if g = f then { s.fdr f with
            state := .suspect, meterLost := some ((s.fdr f).config.meterLostTime * 1000) } else s.fdr g)
        ∧ t.meter f = { s.meter f with silence := none } ∧ t.latches.getLsbD 11 = true ∧ t.contexts = s.contexts
        ∧ ∀ x, t.sec x = if s.feederOf x = some f ∧ (s.sec x).state = .raising
            then { s.sec x with state := .standby, raiseOrigin := none, raiseTimer := none, idleTimer := none
                                standbyTimer := none, command := some .opening }
            else s.sec x) := by
  have hm : (s.modMeter f (fun m => { m with silence := none })).meter f = { s.meter f with silence := none } := State.modMeter_meter_self _ _ _
  unfold State.meterSilent
  refine ⟨fun h => congrArg _ (if_neg (by simpa using h)), fun h => ?_⟩
  obtain ⟨h1, h2, h3, h4, h5⟩ := State.feederSilent_online (s := s.modMeter f (fun m => { m with silence := none })) (f := f) h
  refine ⟨_, rfl, h1, ?_, h3, h4, h5⟩
  unfold State.meter at hm ⊢
  rw [h2]
  exact hm

end Sys2Proof.Machine

open Sys2Proof Sys2Proof.Machine

/-- Settles O44: the two losses of a feeder are one trip of the stopped feeder, followed by the swap. -/
theorem feedersAreLost : Obligations.FeedersAreLost := by
  unfold Obligations.FeedersAreLost
  intro f s lost
  have hlost : ∀ (r : Reason) (u v t : State), SameBody s u → SameBody (u.stopFeeder f .offline) v → SameBody (v.trip f r).evalSwap t → lost r t := by
    intro r u v t hu hv h
    have hs : SameSlots s v := (hu.sameSlots.trans (.stopFeeder u f .offline)).trans hv.sameSlots
    have hm : SameMap s v := (hu.sameMap.trans (.of_holders (.modFdr u f _))).trans hv.sameMap
    have hf : v.fdr f = { s.fdr f with state := .offline, overload := none, meterLost := none } := by
      rw [hv.fdr, ← hu.fdr]
      exact State.modFdr_fdr_self _ _ _
    have hsec : ∀ x, v.sec x = s.sec x := fun x => (hv.sec x).trans (hu.sec x)
    obtain ⟨d1, d2, d3, d4⟩ := SameDesk.gone h f
    rw [hf] at d1 d2 d3 d4
    refine ⟨d2, d3, d4, d1, fun i => (State.gone_contexts hs h i).1, fun i => (State.gone_contexts hs h i).2.1,
      fun i => (State.gone_contexts hs h i).2.2.1, fun i => (State.gone_contexts hs h i).2.2.2, fun hn => ?_, fun hc hl hb => ?_⟩
    · obtain ⟨h1, h2⟩ := State.gone_settled h (hv.swap.trans (hu.swap.trans hn))
      refine ⟨h1, fun x hx hc => ?_⟩
      have hk := h2 x (by rw [hm.feederOf, hx]) (by rw [hsec]; unfold SectionRec.closedOrClosing; rcases hc with hc | hc | hc <;> rw [hc] <;> rfl)
      rw [hsec] at hk
      exact hk
    · have ht : s.Tidy := (State.tidy_iff s).2 ⟨hc, hl⟩
      have hb : v.budgetsAgree := hv.budgetsAgree (keepsAll_budgetsAgree.toKeeps.fdr f (fun _ => ⟨rfl, rfl⟩) (hu.budgetsAgree hb))
      obtain ⟨-, h1, h2, h3⟩ := Vacant.gone h (.inl (by rw [hf])) (ht.of_same hs) hb
      exact ⟨h1, h2, h3 .one, h3 .two, State.budgetsAgree_gone h hb, State.gone_crossings hs hm h ht⟩
  clear_value lost
  refine ⟨fun c feeder ht => ⟨fun hb => ?_, fun hf => ⟨fun ho => ?_, fun ho => ?_⟩⟩, fun hp => ⟨fun hk hs => ?_, fun hn => ?_, fun hn => ?_, fun hk => ?_⟩⟩
  · rw [exec_feederCmdOffline ht]
    unfold State.forFeeder
    rw [feederOfByte_none hb]
    exact congrArg Host.Outcome.next (State.nak_room (State.taken_room ht) c .badIndex 0 feeder)
  · rw [exec_feederCmdOffline ht]
    unfold State.forFeeder
    rw [feederOfByte_val hf]
    dsimp only
    rw [State.feederOffline_same (by rwa [State.taken_fdr]), State.ack_room (State.taken_room ht)]
  · rw [exec_feederCmdOffline ht]
    unfold State.forFeeder
    rw [feederOfByte_val hf]
    have hev : s.taken.onlyEvents (s.taken.feederOffline f) := (keeps_onlyEvents _).feederOffline f (State.taken_onlyEvents ht)
    have he := State.feederOffline_eq (s := s.taken) (f := f) (by rwa [State.taken_fdr])
    refine ⟨(s.taken.feederOffline f).ack c, rfl, hlost _ s.taken _ _ (.taken s) (.of rfl) ?_, (hev.ack_getLast c).trans (by rw [State.taken_cAddress])⟩
    rw [he]
    exact SameBody.ack _ c
  · rw [exec_meterLostTimerExpiry hp, State.expire_some (by simpa [Option.isSome_iff_ne_none] using hk)]
    unfold State.meterLostOut
    rw [if_pos (by rw [hs]; rfl)]
    exact ⟨_, rfl, hlost _ s _ _ (.of rfl) (.report _ _ _ _) (.of rfl), State.feederLost_latches s f⟩
  · rw [exec_meterLostTimerExpiry hp, hn]
    rfl
  · rw [exec_meterSilenceExpiry hp, hn]
    rfl
  · rw [exec_meterSilenceExpiry hp, State.expire_some hk]
    exact s.meterSilent_spec f

end

section
/-! PROOFS. The history rings of the sample unit, and what a sample leaves in them (R126 to R136). -/

namespace Sys2Proof.Machine
open Sys2Proof

theorem State.report_latch (s : State) (k : EventKind) (a b : Nat) : (s.report k a b).latches.getLsbD k.place.val = true := by
  rw [State.report_latches, BitVec.getLsbD_or, BitVec.getLsbD_shiftLeft]
  simp

/-! ### What a sample leaves unchanged outside the ring of its feeder -/

/-- The meters, the sample memory, the missed-sample counts and the rings of the other feeders stand, and no latch is cleared. -/
structure Kept (f : FeederId) (s t : State) : Prop where
  meters : t.meters = s.meters
  samples : t.samples = s.samples
  missed : t.counters.missed = s.counters.missed
  latches : ∀ k, s.latches.getLsbD k = true → t.latches.getLsbD k = true
  others : ∀ g, g ≠ f → t.ring g = s.ring g

namespace Kept
variable {f : FeederId} {s t u : State}

theorem refl (s : State) : Kept f s s := ⟨rfl, rfl, rfl, fun _ h => h, fun _ _ => rfl⟩

theorem trans (h : Kept f s t) (k : Kept f t u) : Kept f s u :=
  ⟨k.meters.trans h.meters, k.samples.trans h.samples, k.missed.trans h.missed, fun n hn => k.latches n (h.latches n hn),
    fun g hg => (k.others g hg).trans (h.others g hg)⟩

theorem of_onward (h : Onward s t) : Kept f s t where
  meters := by rw [h.rest]
  samples := by rw [h.rest]
  missed := by rw [h.counts]
  latches := h.latches
  others := fun g _ => by rw [h.rest]; rfl

theorem modRing (h : Kept f s t) (m : Ring → Ring) : Kept f s (t.modRing f m) :=
  h.trans ⟨rfl, rfl, rfl, fun _ h => h, fun _ hg => State.modRing_ring_other _ _ (Ne.symm hg)⟩

theorem report (h : Kept f s t) (k : EventKind) (a b : Nat) : Kept f s (t.report k a b) := h.trans (of_onward ((Onward.refl t).report k a b))

theorem freezeRing (h : Kept f s t) : Kept f s (t.freezeRing f) := (h.modRing _).report _ _ _

theorem startPostTrip (h : Kept f s t) : Kept f s (t.startPostTrip f) := by
  unfold State.startPostTrip
  dsimp only
  split
  · split
    · exact h.freezeRing
    · exact h.modRing _
  · exact h

end Kept

/-- What a sample does before its feeder is told: the contexts and the feeders stand as well. -/
structure Noted (f : FeederId) (s t : State) : Prop extends Kept f s t where
  contexts : t.contexts = s.contexts
  feeders : t.feeders = s.feeders

namespace Noted
variable {f : FeederId} {s t u : State}

theorem refl (s : State) : Noted f s s := ⟨.refl s, rfl, rfl⟩

theorem trans (h : Noted f s t) (k : Noted f t u) : Noted f s u :=
  ⟨h.toKept.trans k.toKept, k.contexts.trans h.contexts, k.feeders.trans h.feeders⟩

theorem modRing (h : Noted f s t) (m : Ring → Ring) : Noted f s (t.modRing f m) := ⟨h.toKept.modRing m, h.contexts, h.feeders⟩

theorem report (h : Noted f s t) (k : EventKind) (a b : Nat) : Noted f s (t.report k a b) :=
  ⟨h.toKept.report k a b, by rw [State.report_contexts]; exact h.contexts, by rw [State.report_feeders]; exact h.feeders⟩

theorem freezeRing (h : Noted f s t) : Noted f s (t.freezeRing f) := (h.modRing _).report _ _ _

theorem actOnStep (h : Noted f s t) (o : Option Nat) : Noted f s (t.actOnStep f o) := by
  unfold State.actOnStep
  split
  · exact h
  · dsimp only
    split
    · exact (h.report _ _ _).modRing _
    · exact h.report _ _ _

theorem lowerCountdown (h : Noted f s t) : Noted f s (t.lowerCountdown f) := by
  unfold State.lowerCountdown
  split
  · split
    · exact h.freezeRing
    · exact h.modRing _
  · exact h

theorem startPostTrip (h : Noted f s t) : Noted f s (t.startPostTrip f) := by
  unfold State.startPostTrip
  dsimp only
  split
  · split
    · exact h.freezeRing
    · exact h.modRing _
  · exact h

end Noted

/-! ### The ring of the feeder -/

/-- A ring after the write of a sample (R133). -/
def Ring.written (r : Ring) : Ring := if r.writes then r.advanced else r

/-- A RECORDING ring with freeze on step freezes where a step is found (R134). -/
def Ring.stepped (found : Bool) (r : Ring) : Ring :=
  if found && r.state == .recording && r.desc.freeze then { r with state := .frozen } else r

/-- A POST_TRIP ring counts down and freezes at 0 (R136). -/
def Ring.lowered (r : Ring) : Ring :=
  match r.state, r.countdown with
  | .postTrip, some n => if n ≤ 1 then { r with state := .frozen, countdown := none } else { r with countdown := some (n - 1) }
  | _, _ => r

theorem Ring.lowered_counting {r : Ring} {n : Nat} (h : r.state = .postTrip) (hn : r.countdown = some n) :
    r.lowered = if n ≤ 1 then { r with state := .frozen, countdown := none } else { r with countdown := some (n - 1) } := by
  unfold Ring.lowered
  rw [h, hn]

/-- A RECORDING ring begins its post-trip count, or freezes where that is 0 (R136). -/
def Ring.postTripped (r : Ring) : Ring :=
  if r.state == .recording then
    if r.desc.postTrip = 0 then { r with state := .frozen, countdown := none }
    else { r with state := .postTrip, countdown := some r.desc.postTrip }
  else r

section
variable (s : State) (f : FeederId) (m : Sample)

/-- The state with the sample in the memory, where its ring writes. -/
def State.recorded : State :=
  if (s.ring f).writes then { s with samples := s.samples.store (s.ring f).writePos ⟨m.current, m.voltage, m.seq⟩ } else s

theorem Noted.writeRing : Noted f (s.recorded f m) (s.writeRing f m) := by
  unfold State.recorded State.writeRing
  dsimp only
  split
  · split
    · exact ((Noted.refl _).modRing _).report _ _ _
    · exact (Noted.refl _).modRing _
  · exact .refl s

theorem State.writeRing_ring : (s.writeRing f m).ring f = (s.ring f).written := by
  unfold State.writeRing Ring.written
  dsimp only
  split
  · split
    · exact (State.report_ring' _ _ _ _ f).trans (State.modRing_ring_self _ _ _)
    · exact State.modRing_ring_self _ _ _
  · rfl

theorem State.actOnStep_ring (o : Option Nat) : (s.actOnStep f o).ring f = (s.ring f).stepped o.isSome := by
  unfold State.actOnStep
  cases o with
  | none => rfl
  | some n =>
    unfold Ring.stepped
    simp only [Option.isSome, Bool.true_and, State.report_ring']
    split
    · exact (State.modRing_ring_self _ _ _).trans (congrArg (fun r : Ring => { r with state := .frozen }) (State.report_ring' _ _ _ _ f))
    · exact State.report_ring' _ _ _ _ f

theorem State.actOnStep_latches {o : Option Nat} (h : o.isSome = true) : (s.actOnStep f o).latches.getLsbD 14 = true := by
  obtain ⟨n, rfl⟩ := Option.isSome_iff_exists.1 h
  have hl := s.report_latch .stepDetect f.val n
  unfold State.actOnStep
  dsimp only
  split
  · exact hl
  · exact hl

theorem State.freezeRing_ring : (s.freezeRing f).ring f = { s.ring f with state := .frozen, countdown := none } :=
  (State.report_ring' _ _ _ _ f).trans (State.modRing_ring_self _ _ _)

theorem State.lowerCountdown_ring : (s.lowerCountdown f).ring f = (s.ring f).lowered := by
  unfold State.lowerCountdown
  split
  next n hs hn =>
    rw [Ring.lowered_counting hs hn]
    split
    · exact s.freezeRing_ring f
    · exact State.modRing_ring_self _ _ _
  next h =>
    unfold Ring.lowered
    split
    next n hs hn => exact (h n hs hn).elim
    next => rfl

theorem State.lowerCountdown_latches {n : Nat} (h : (s.ring f).state = .postTrip) (hn : (s.ring f).countdown = some n) (h1 : n ≤ 1) :
    (s.lowerCountdown f).latches.getLsbD 16 = true := by
  unfold State.lowerCountdown
  rw [h, hn]
  dsimp only
  rw [if_pos h1]
  exact State.report_latch _ .ringFrozen _ _

theorem State.startPostTrip_ring : (s.startPostTrip f).ring f = (s.ring f).postTripped := by
  unfold State.startPostTrip Ring.postTripped
  dsimp only
  split
  · split
    · exact s.freezeRing_ring f
    · exact State.modRing_ring_self _ _ _
  · rfl

end

/-! ### The ring after a sample -/

/-- The ring after a sample: written, then frozen by a step or counted down, and where the feeder trips its count begun. -/
def Ring.sampled (found trips : Bool) (r : Ring) : Ring :=
  let t := (r.written.stepped found).lowered
  if trips then t.postTripped else t

section
variable {r : Ring} {b trips found : Bool} {n : Nat}

theorem Ring.writes_iff : r.writes = true ↔ r.state = .recording ∨ r.state = .postTrip := by
  unfold Ring.writes
  simp

/-- Only the write moves the write position and the fill, and nothing writes the descriptor. -/
theorem Ring.sampled_rest : (r.sampled found trips).desc = r.desc ∧ (r.sampled found trips).writePos = r.written.writePos
    ∧ (r.sampled found trips).fill = r.written.fill := by
  have written : ∀ q : Ring, q.written.desc = q.desc := fun q => by unfold Ring.written; split <;> rfl
  have stepped : ∀ q : Ring, (q.stepped found).desc = q.desc ∧ (q.stepped found).writePos = q.writePos ∧ (q.stepped found).fill = q.fill :=
    fun q => by unfold Ring.stepped; split <;> exact ⟨rfl, rfl, rfl⟩
  have lowered : ∀ q : Ring, q.lowered.desc = q.desc ∧ q.lowered.writePos = q.writePos ∧ q.lowered.fill = q.fill := fun q => by
    unfold Ring.lowered
    split
    · split <;> exact ⟨rfl, rfl, rfl⟩
    · exact ⟨rfl, rfl, rfl⟩
  have tripped : ∀ q : Ring, q.postTripped.desc = q.desc ∧ q.postTripped.writePos = q.writePos ∧ q.postTripped.fill = q.fill := fun q => by
    unfold Ring.postTripped
    split
    · split <;> exact ⟨rfl, rfl, rfl⟩
    · exact ⟨rfl, rfl, rfl⟩
  unfold Ring.sampled
  dsimp only
  split
  · simp only [tripped, lowered, stepped, written, and_self]
  · simp only [lowered, stepped, written, and_self]

theorem Ring.written_state : r.written.state = r.state ∧ r.written.countdown = r.countdown ∧ r.written.desc = r.desc := by
  unfold Ring.written
  split <;> exact ⟨rfl, rfl, rfl⟩

theorem Ring.stepped_still (h : found = false ∨ r.state ≠ .recording ∨ r.desc.freeze = false) : r.stepped found = r := if_neg (by
  rcases h with h | h | h <;> simp [h])

theorem Ring.lowered_still (h : r.state ≠ .postTrip) : r.lowered = r := by
  unfold Ring.lowered
  split
  next hs _ => exact absurd hs h
  next => rfl

theorem Ring.postTripped_still (h : r.state ≠ .recording) : r.postTripped = r := if_neg (by simpa using h)

/-- A step freezes a RECORDING ring with freeze on step (R134). -/
theorem Ring.sampled_step (h : r.state = .recording) (hf : r.desc.freeze = true) : (r.sampled true trips).state = .frozen := by
  obtain ⟨h1, -, h3⟩ := r.written_state
  have hs : r.written.stepped true = { r.written with state := .frozen } := if_pos (by rw [h1, h3, h, hf]; rfl)
  unfold Ring.sampled
  dsimp only
  rw [hs, Ring.lowered_still (by exact nofun), Ring.postTripped_still (by exact nofun), ite_self]

/-- A POST_TRIP ring counts down and freezes with the last count (R136). -/
theorem Ring.sampled_count (h : r.state = .postTrip) (hn : r.countdown = some n) :
    (2 ≤ n → (r.sampled found trips).state = .postTrip ∧ (r.sampled found trips).countdown = some (n - 1))
    ∧ (n ≤ 1 → (r.sampled found trips).state = .frozen ∧ (r.sampled found trips).countdown = none) := by
  obtain ⟨h1, h2, -⟩ := r.written_state
  have hs : r.written.stepped found = r.written := Ring.stepped_still (.inr (.inl (by rw [h1, h]; exact nofun)))
  have hl : r.written.lowered = if n ≤ 1 then { r.written with state := .frozen, countdown := none } else { r.written with countdown := some (n - 1) } :=
    Ring.lowered_counting (h1.trans h) (h2.trans hn)
  have ht : r.sampled found trips = r.written.lowered := by
    unfold Ring.sampled
    dsimp only
    rw [hs, Ring.postTripped_still, ite_self]
    rw [hl]
    split
    · exact nofun
    · rw [show ({ r.written with countdown := some (n - 1) } : Ring).state = .postTrip from h1.trans h]
      exact nofun
  rw [ht, hl]
  refine ⟨fun hn => ?_, fun hn => ?_⟩
  · rw [if_neg (by omega)]
    exact ⟨h1.trans h, rfl⟩
  · rw [if_pos hn]
    exact ⟨rfl, rfl⟩

/-- A RECORDING ring that no step freezes begins its post-trip count with the trip (R136). -/
theorem Ring.sampled_trip (h : r.state = .recording) (hf : found = false ∨ r.desc.freeze = false) :
    (0 < r.desc.postTrip → (r.sampled found true).state = .postTrip ∧ (r.sampled found true).countdown = some r.desc.postTrip)
    ∧ (r.desc.postTrip = 0 → (r.sampled found true).state = .frozen) := by
  obtain ⟨h1, -, h3⟩ := r.written_state
  have hs : r.written.stepped found = r.written := Ring.stepped_still (hf.imp id fun hf => .inr (by rw [h3, hf]))
  have ht : r.sampled found true = if r.desc.postTrip = 0 then { r.written with state := .frozen, countdown := none }
      else { r.written with state := .postTrip, countdown := some r.desc.postTrip } := by
    unfold Ring.sampled
    dsimp only
    rw [hs, Ring.lowered_still (by rw [h1, h]; exact nofun), if_pos rfl]
    unfold Ring.postTripped
    rw [if_pos (by rw [h1, h]; rfl), h3]
  rw [ht]
  refine ⟨fun hp => ?_, fun hp => ?_⟩
  · rw [if_neg (by omega)]
    exact ⟨rfl, rfl⟩
  · rw [if_pos hp]

end

end Sys2Proof.Machine
end

section
/-! PROOFS. What a sample hands to its feeder, and the sample as a whole (R126, R81 to R85). -/

namespace Sys2Proof.Machine
open Sys2Proof

/-! ### The feeder takes the sample -/

/-- The sample trips its feeder: the breaker is not CLOSED and the feeder is up (R83). -/
def State.tripsOn (s : State) (f : FeederId) (m : Sample) : Bool :=
  ((s.fdr f).state == .online || (s.fdr f).state == .suspect) && m.breaker != .closed

section
variable {s : State} {f : FeederId} {m : Sample}

theorem State.tripsOn_iff : s.tripsOn f m = true ↔ ((s.fdr f).state = .online ∨ (s.fdr f).state = .suspect) ∧ m.breaker ≠ .closed := by
  unfold State.tripsOn
  simp

theorem State.feederSample_trip (h : s.tripsOn f m = true) : s.feederSample f m = ((s.feederTrip f).startPostTrip f).evalSwap := by
  obtain ⟨hd, hb⟩ := State.tripsOn_iff.1 h
  unfold State.feederSample
  cases hk : m.breaker with
  | closed => exact absurd hk hb
  | _ => rcases hd with hd | hd <;> rw [hd]

theorem State.feederSample_online (h : (s.fdr f).state = .online) (hb : m.breaker = .closed) : s.feederSample f m = s.compareOverload f m.current := by
  unfold State.feederSample
  rw [h, hb]

theorem State.feederSample_suspect (h : (s.fdr f).state = .suspect) (hb : m.breaker = .closed) :
    s.feederSample f m = (s.feederOnline f).compareOverload f m.current := by
  unfold State.feederSample
  rw [h, hb]

theorem State.feederSample_down (h : ¬((s.fdr f).state = .online ∨ (s.fdr f).state = .suspect)) : s.feederSample f m = s := by
  unfold State.feederSample
  cases hd : (s.fdr f).state with
  | online => exact absurd (.inl hd) h
  | suspect => exact absurd (.inr hd) h
  | offline => rfl
  | tripped => rfl

/-- The cases of a sample at its feeder. -/
theorem State.feederSample_cases (s : State) (f : FeederId) (m : Sample) :
    s.tripsOn f m = true ∨ (s.fdr f).state = .online ∧ m.breaker = .closed ∨ (s.fdr f).state = .suspect ∧ m.breaker = .closed
      ∨ ¬((s.fdr f).state = .online ∨ (s.fdr f).state = .suspect) := by
  rw [State.tripsOn_iff]
  tauto

theorem Kept.feederSample (s : State) (f : FeederId) (m : Sample) : Kept f s (s.feederSample f m) := by
  have compare : ∀ t : State, Kept f t (t.compareOverload f m.current) := fun _ => ⟨rfl, rfl, rfl, fun _ h => h, fun _ _ => rfl⟩
  rcases s.feederSample_cases f m with h | ⟨h, hb⟩ | ⟨h, hb⟩ | h
  · rw [State.feederSample_trip h]
    exact (Kept.of_onward ((Onward.refl s).feederTrip f)).startPostTrip.trans (.of_onward ((Onward.refl _).evalSwap))
  · rw [State.feederSample_online h hb]
    exact compare s
  · rw [State.feederSample_suspect h hb]
    exact (Kept.of_onward ((Onward.refl s).feederOnline f)).trans (compare _)
  · rw [State.feederSample_down h]
    exact .refl s

theorem State.ring_of_onward {s t : State} (h : Onward s t) (f : FeederId) : t.ring f = s.ring f := by
  rw [h.rest]
  rfl

theorem State.feederSample_ring (s : State) (f : FeederId) (m : Sample) :
    (s.feederSample f m).ring f = if s.tripsOn f m then (s.ring f).postTripped else s.ring f := by
  have up : ∀ {b : Breaker}, m.breaker = b → b = .closed → ¬s.tripsOn f m = true := fun hb hc => by
    rw [State.tripsOn_iff, hb]
    exact fun h => h.2 hc
  rcases s.feederSample_cases f m with h | ⟨h, hb⟩ | ⟨h, hb⟩ | h
  · rw [State.feederSample_trip h, if_pos h, State.ring_of_onward (Onward.refl _).evalSwap, State.startPostTrip_ring,
      State.ring_of_onward ((Onward.refl s).feederTrip f)]
  · rw [State.feederSample_online h hb, if_neg (up hb rfl)]
    rfl
  · rw [State.feederSample_suspect h hb, if_neg (up hb rfl)]
    have hr := State.ring_of_onward ((Onward.refl s).feederOnline f) f
    generalize s.feederOnline f = u at hr ⊢
    exact hr
  · rw [State.feederSample_down h, if_neg (fun k => h (State.tripsOn_iff.1 k).1)]

/-- A SUSPECT feeder returns to ONLINE (R81). -/
theorem State.feederSample_back (h : (s.fdr f).state = .suspect) (hb : m.breaker = .closed) :
    ((s.feederSample f m).fdr f).state = .online ∧ ((s.feederSample f m).fdr f).meterLost = none
      ∧ ((s.feederSample f m).fdr f).overload = (if (s.fdr f).config.capacity < m.current then
          (match (s.fdr f).overload with | some n => some n | none => some ((s.fdr f).config.overloadCode * 100)) else none) := by
  have hd : ((s.feederOnline f).fdr f).config = (s.fdr f).config ∧ ((s.feederOnline f).fdr f).state = .online
      ∧ ((s.feederOnline f).fdr f).overload = (s.fdr f).overload ∧ ((s.feederOnline f).fdr f).meterLost = none := by
    unfold State.feederOnline
    generalize hu : s.modFdr f _ = u
    have hf : u.fdr f = { s.fdr f with state := .online, meterLost := none } := by rw [← hu]; exact State.modFdr_fdr_self _ _ _
    have hs : SameDesk u ((u.sectionsBack f).arbitrate f) :=
      ((SameDesk.refl u).of_feeders (by rw [(u.sectionsBack_eq f).1])).trans (.of_served (.arbitrate _ f))
    have hk := hs f
    rwa [hf] at hk
  obtain ⟨h1, h2, h3, h4⟩ := hd
  rw [State.feederSample_suspect h hb]
  generalize s.feederOnline f = u at h1 h2 h3 h4 ⊢
  unfold State.compareOverload
  rw [State.modFdr_fdr_self]
  refine ⟨h2, h4, ?_⟩
  rw [← h1, ← h3]
  rfl

/-- A trip of the feeder (R83, R84). -/
theorem State.feederSample_tripped (h : s.tripsOn f m = true) :
    let t := s.feederSample f m
    (t.fdr f).state = .tripped ∧ (t.fdr f).overload = none ∧ (t.fdr f).meterLost = none ∧ t.latches.getLsbD 13 = true
    ∧ ∀ i, (s.ctx i).state = .drawing → s.holdsOn i f = true →
        (t.ctx i).state = .tracked ∧ (t.ctx i).hold = none ∧ (t.ctx i).withdraw = some ⟨.trip, true⟩ := by
  have hv : ∃ v, s.feederTrip f = v.trip f .trip ∧ (s.stopFeeder f .tripped).report .feederTrip f.val (s.fdr f).committed = v := ⟨_, rfl, rfl⟩
  obtain ⟨v, ht, hv⟩ := hv
  have hb : SameBody (s.stopFeeder f .tripped) v := by rw [← hv]; exact .report _ _ _ _
  have hl : v.latches.getLsbD 13 = true := by rw [← hv]; exact State.report_latch _ .feederTrip _ _
  have hf : v.fdr f = { s.fdr f with state := .tripped, overload := none, meterLost := none } :=
    (hb.fdr f).trans (State.modFdr_fdr_self _ _ _)
  have hn := Noted.startPostTrip (.refl (v.trip f .trip) : Noted f (v.trip f .trip) _)
  have hp := ((SameDesk.trip v f .trip).of_feeders hn.feeders).trans (.evalSwap _)
  obtain ⟨-, d2, d3, d4⟩ := hp f
  rw [hf] at d2 d3 d4
  have ho : Onward v (v.trip f .trip) := ((Onward.refl v).tripConsequences f .trip).sectionsDown f
  dsimp only
  rw [State.feederSample_trip h, ht]
  refine ⟨d2, d3, d4, (Onward.refl _).evalSwap.latches 13 (hn.latches 13 (ho.latches 13 hl)), fun i hd hh => ?_⟩
  have hs : SameSlots s v := (SameSlots.stopFeeder s f .tripped).trans hb.sameSlots
  have hc := State.trip_drawing (s := v) (r := .trip) (by rwa [hs.ctx]) (by rwa [State.holdsOn_congr (hs.ctx i)])
  have hc : ((v.trip f .trip).startPostTrip f).ctx i = _ := (by unfold State.ctx; rw [hn.contexts] : _ = (v.trip f .trip).ctx i).trans hc
  obtain ⟨p, hp⟩ := State.evalSwap_resettled hc nofun
  rw [hp]
  exact ⟨rfl, rfl, rfl⟩

end

/-! ### The sample as a whole -/

/-- A good frame was heard on the M-link. -/
def State.goodM (s : State) : State := (s.endRunt .m).countGood .m

theorem State.goodM_rest (s : State) : ∃ a k, s.goodM = { s with asmM := a, counters := { s.counters with m := k } } := by
  unfold State.goodM State.endRunt
  split
  · exact ⟨_, _, rfl⟩
  · exact ⟨_, _, rfl⟩

/-- The state once the sample is the latest and its skipped sequences are counted. -/
def State.latestTaken (s : State) (f : FeederId) (m : Sample) : State := (s.storeLatest f m).countMissed f (s.meter f).latest m.seq

theorem State.countMissed_rest (s : State) (f : FeederId) (p : Option Sample) (q : Byte) :
    ∃ n, s.countMissed f p q = { s with counters := { s.counters with missed := n } }
      ∧ (∀ m, p = some m → n[f] = min 65535 (s.counters.missed[f] + (q - m.seq - 1).toNat))
      ∧ (p = none → n[f] = s.counters.missed[f]) := by
  cases p with
  | none => exact ⟨s.counters.missed, rfl, nofun, fun _ => rfl⟩
  | some m =>
    refine ⟨s.counters.missed.set f (holdAdd (s.counters.missed[f]) (skipped m.seq q)), rfl, fun _ h => ?_, nofun⟩
    cases h
    simp [holdAdd, skipped]

/-- What a sample heard leaves before its ring is written. -/
theorem State.latestTaken_rest (s : State) (f : FeederId) (m : Sample) :
    ∃ a c, s.goodM.latestTaken f m = { s with asmM := a, counters := c, meters := s.meters.set f { latest := some m, silence := some 200 } }
      ∧ (∀ p, (s.meter f).latest = some p → c.missed[f] = min 65535 (s.counters.missed[f] + (m.seq - p.seq - 1).toNat))
      ∧ ((s.meter f).latest = none → c.missed[f] = s.counters.missed[f]) := by
  obtain ⟨a, k, hq⟩ := s.goodM_rest
  unfold State.latestTaken
  rw [hq]
  obtain ⟨n, hn, h1, h2⟩ := State.countMissed_rest (({ s with asmM := a, counters := { s.counters with m := k } } : State).storeLatest f m) f
    (s.meter f).latest m.seq
  exact ⟨a, _, hn, h1, h2⟩

section
variable (s : State) (f : FeederId) (m : Sample)

/-- The state before the feeder takes the sample. -/
def State.ringTaken : State :=
  ((s.writeRing f m).actOnStep f (s.stepFound f m.current)).lowerCountdown f

theorem State.takeSample_eq : s.takeSample f m = ((s.latestTaken f m).ringTaken f m).feederSample f m := rfl

theorem Noted.ringTaken : Noted f (s.recorded f m) (s.ringTaken f m) := ((Noted.writeRing s f m).actOnStep _).lowerCountdown

theorem State.ringTaken_ring : (s.ringTaken f m).ring f = ((s.ring f).written.stepped (s.stepFound f m.current).isSome).lowered := by
  unfold State.ringTaken
  rw [State.lowerCountdown_ring, State.actOnStep_ring, State.writeRing_ring]

theorem State.recorded_rest : (s.recorded f m).contexts = s.contexts ∧ (s.recorded f m).feeders = s.feeders
    ∧ (s.recorded f m).meters = s.meters ∧ (s.recorded f m).rings = s.rings ∧ (s.recorded f m).counters = s.counters
    ∧ (s.recorded f m).samples = if (s.ring f).writes then s.samples.store (s.ring f).writePos ⟨m.current, m.voltage, m.seq⟩ else s.samples := by
  unfold State.recorded
  split <;> exact ⟨rfl, rfl, rfl, rfl, rfl, rfl⟩

theorem State.stepFound_iff : (s.stepFound f m.current).isSome = true ↔ ((s.ring f).state = .recording ∨ (s.ring f).state = .postTrip)
    ∧ (s.ring f).desc.distance < (s.ring f).fill
    ∧ (s.ringEntry f (s.ring f).desc.distance).current + (s.ring f).desc.threshold < m.current := by
  rw [← Ring.writes_iff]
  unfold State.stepFound
  dsimp only
  split
  next h => simpa [and_assoc] using h
  next h => simpa [and_assoc] using h

variable {s f m}

theorem State.ringTaken_step (h : (s.stepFound f m.current).isSome = true) : (s.ringTaken f m).latches.getLsbD 14 = true :=
  (Noted.lowerCountdown (Noted.refl _)).latches 14 (State.actOnStep_latches _ f h)

theorem State.ringTaken_frozen {n : Nat} (h : (s.ring f).state = .postTrip) (hn : (s.ring f).countdown = some n) (h1 : n ≤ 1) :
    (s.ringTaken f m).latches.getLsbD 16 = true := by
  obtain ⟨w1, w2, -⟩ := (s.ring f).written_state
  have hr : ((s.writeRing f m).actOnStep f (s.stepFound f m.current)).ring f = (s.ring f).written := by
    rw [State.actOnStep_ring, State.writeRing_ring, Ring.stepped_still (.inr (.inl (by rw [w1, h]; exact nofun)))]
  exact State.lowerCountdown_latches _ f (by rw [hr, w1, h]) (by rw [hr, w2, hn]) h1

end

end Sys2Proof.Machine
end

section
/-! PROOFS. Samples as they are stated (R126 to R136). -/

namespace Sys2Proof.Machine
open Sys2Proof

theorem exec_smp {s : State} (hp : s.resetPin = false) (b seq : Byte) (i v : Word) (k : Breaker) :
    (15 < b.toNat → exec (.smp b seq i v k) s = .next ((s.endRunt .m).countForeign .m))
    ∧ ∀ f : FeederId, f.val = b.toNat → exec (.smp b seq i v k) s
        = .next (s.goodM.takeSample f { seq := seq, current := i.toNat, voltage := v.toNat, breaker := k }) := by
  change (_ → execSmp b seq i v k s = _) ∧ ∀ f : FeederId, _ → execSmp b seq i v k s = _
  unfold execSmp
  rw [whileListening_of_idle hp rfl]
  refine ⟨fun h => ?_, fun f hf => ?_⟩
  · rw [feederOfByte_none h]
  · rw [feederOfByte_val hf]
    rfl

section
variable {s b : State} {f : FeederId} {m : Sample}

/-- What a sample leaves, from the state `b` in which it is the latest. -/
theorem State.sampled_ring (hr : b.ring f = s.ring f) (he : b.samples = s.samples) :
    ∃ found : Bool, (found = true ↔ ((s.ring f).state = .recording ∨ (s.ring f).state = .postTrip)
        ∧ (s.ring f).desc.distance < (s.ring f).fill
        ∧ (s.ringEntry f (s.ring f).desc.distance).current + (s.ring f).desc.threshold < m.current)
      ∧ (((b.ringTaken f m).feederSample f m).ring f) = (s.ring f).sampled found ((b.ringTaken f m).tripsOn f m)
      ∧ (found = true → ((b.ringTaken f m).feederSample f m).latches.getLsbD 14 = true)
      ∧ ∀ n, (s.ring f).state = .postTrip → (s.ring f).countdown = some n → n ≤ 1 →
          ((b.ringTaken f m).feederSample f m).latches.getLsbD 16 = true := by
  have hk := Kept.feederSample (b.ringTaken f m) f m
  refine ⟨(b.stepFound f m.current).isSome, ?_, ?_, fun h => hk.latches 14 (State.ringTaken_step h), fun n h1 h2 h3 => ?_⟩
  · rw [State.stepFound_iff]
    unfold State.ringEntry
    rw [hr, he]
  · rw [State.feederSample_ring, State.ringTaken_ring, hr]
    rfl
  · exact hk.latches 16 (State.ringTaken_frozen (by rw [hr, h1]) (by rw [hr, h2]) h3)

theorem Ring.written_fields (r : Ring) :
    r.written.writePos = (if r.state = .recording ∨ r.state = .postTrip then
        (if r.writePos + 1 = r.desc.start + r.desc.length then r.desc.start else r.writePos + 1) else r.writePos)
    ∧ r.written.fill = if (r.state = .recording ∨ r.state = .postTrip) ∧ r.fill < r.desc.length then r.fill + 1 else r.fill := by
  simp only [← Ring.writes_iff]
  unfold Ring.written
  by_cases h : r.writes = true
  · rw [if_pos h, if_pos h]
    unfold Ring.advanced Ring.wraps
    simp [h]
  · rw [if_neg h, if_neg h, if_neg (fun k => h k.1)]
    exact ⟨rfl, rfl⟩

end

end Sys2Proof.Machine

open Sys2Proof Sys2Proof.Machine

/-- Settles O56: the ring goes through `Ring.sampled`, and the feeder through `State.feederSample`. -/
theorem samplesAreTaken : Obligations.SamplesAreTaken := by
  unfold Obligations.SamplesAreTaken
  intro feeder seq current voltage breaker s hp run
  obtain ⟨he0, he⟩ := exec_smp hp feeder seq current voltage breaker
  refine ⟨he0, fun f hf => ?_⟩
  replace he := he f hf
  generalize hm : ({ seq := seq, current := current.toNat, voltage := voltage.toNat, breaker := breaker } : Sample) = m at he ⊢
  obtain ⟨a, c, hb, hc1, hc2⟩ := s.latestTaken_rest f m
  rw [State.takeSample_eq] at he
  generalize s.goodM.latestTaken f m = b at he hb
  have hbr : ∀ g, b.ring g = s.ring g := fun g => by rw [hb]; rfl
  have hbm : b.meters = s.meters.set f { latest := some m, silence := some 200 } := by rw [hb]
  have hbs : b.samples = s.samples := by rw [hb]
  have hbc : b.contexts = s.contexts := by rw [hb]
  have hbf : b.feeders = s.feeders := by rw [hb]
  have hbn : b.counters.missed = c.missed := by rw [hb]
  clear hb
  obtain ⟨found, hfound, hring, hl14, hl16⟩ := State.sampled_ring (s := s) (m := m) (hbr f) hbs
  have hnote := Noted.ringTaken b f m
  obtain ⟨r1, r2, r3, r4, r5, r6⟩ := b.recorded_rest f m
  generalize b.recorded f m = e at hnote r1 r2 r3 r4 r5 r6
  generalize b.ringTaken f m = v at he hring hl14 hl16 hnote
  have hk := hnote.toKept.trans (.feederSample v f m)
  have hvc : v.contexts = s.contexts := hnote.contexts.trans (r1.trans hbc)
  have hvf : v.feeders = s.feeders := hnote.feeders.trans (r2.trans hbf)
  have hfd : v.fdr f = s.fdr f := by unfold State.fdr; rw [hvf]
  have hmeters : (v.feederSample f m).meters = s.meters.set f { latest := some m, silence := some 200 } := hk.meters.trans (r3.trans hbm)
  have hmissed : (v.feederSample f m).counters.missed[f] = c.missed[f] := by rw [hk.missed, r5, hbn]
  obtain ⟨q1, q2, q3⟩ := (s.ring f).sampled_rest (found := found) (trips := v.tripsOn f m)
  obtain ⟨w1, w2⟩ := (s.ring f).written_fields
  intro r d writes step up overload
  have hstep : found = true ↔ step := hfound.trans (by rw [← hm])
  have hup : v.tripsOn f m = true ↔ up ∧ breaker ≠ .closed := by rw [State.tripsOn_iff, hfd, ← hm]
  have hbk : m.breaker = breaker := by rw [← hm]
  have hcur : m.current = current.toNat := by rw [← hm]
  refine ⟨_, he, ?_, fun g hg => ⟨?_, ?_⟩, hmissed ▸ fun p hp => ?_, fun hn => hmissed.trans (hc2 hn), ?_, ?_, ?_, ?_, fun h => hl14 (hstep.2 h),
    fun hr h hz => ?_, fun hr n hn => ?_, fun hu => ?_, fun ho hb => ⟨?_, ?_⟩, fun hs hb => ?_, fun hu hb => ?_⟩
  · unfold State.meter
    rw [hmeters]
    exact Vector.getElem_set_self _
  · unfold State.meter
    rw [hmeters]
    exact Vector.getElem_set_ne _ _ (fun e => hg (Fin.ext e.symm))
  · have h3 : e.ring g = b.ring g := by unfold State.ring; rw [r4]
    exact (hk.others g hg).trans (h3.trans (hbr g))
  · rw [hc1 p hp, ← hm]
  · rw [hk.samples, r6, hbr, hbs, hcur, ← hm]
    simp only [Ring.writes_iff]
    rfl
  · rw [hring, q1]
  · rw [hring, q2, w1]
  · rw [hring, q3, w2]
  · rw [hring, hstep.2 h]
    exact Ring.sampled_step hr hz
  · obtain ⟨k1, k2⟩ := Ring.sampled_count (found := found) (trips := v.tripsOn f m) hr hn
    rw [hring]
    exact ⟨k1, fun h1 => ⟨(k2 h1).1, (k2 h1).2, hl16 n hr hn h1⟩⟩
  · rw [State.feederSample_down (by rwa [hfd])]
    exact ⟨hvf, hvc⟩
  · rw [State.feederSample_online (by rwa [hfd]) (hbk.trans hb), hcur]
    refine (State.modFdr_fdr_self _ _ _).trans ?_
    rw [hfd]
    rfl
  · rw [State.feederSample_online (by rwa [hfd]) (hbk.trans hb)]
    exact hvc
  · obtain ⟨k1, k2, k3⟩ := State.feederSample_back (s := v) (by rw [hfd]; exact hs) (hbk.trans hb)
    rw [hfd, hcur] at k3
    exact ⟨k1, k2, k3⟩
  · have ht := hup.2 ⟨hu, hb⟩
    obtain ⟨k1, k2, k3, k4, k5⟩ := State.feederSample_tripped ht
    have hx : ∀ i, v.ctx i = s.ctx i := fun i => by unfold State.ctx; rw [hvc]
    refine ⟨k1, k2, k3, k4, fun i hi hh => k5 i (by rwa [hx]) (by rwa [State.holdsOn_congr (hx i)]), fun hr hz => ?_⟩
    rw [hring, ht]
    refine Ring.sampled_trip hr ?_
    by_cases h : found = true
    · exact .inr (by simpa using fun hz' => hz ⟨hstep.1 h, hz'⟩)
    · exact .inl (by simpa using h)

end

section
/-! PROOFS. A context that waits at a place, or has the offer made from it (R46, R76, R77). -/

namespace Sys2Proof.Machine
open Sys2Proof

/-- The slot is queued as `c` at the place, or has been made its offer. -/
def Awaits (i : Slot) (f : FeederId) (l : Level) (x : SectionId) (k : Mark) (c : Context) (t : State) : Prop :=
  (t.ctx i = c ∧ c.state = .queued ∧ t.Listed i (some (f, l, ⟨i, x, k⟩)))
  ∨ ((t.ctx i).state = .offered ∧ (t.ctx i).hold.map (fun h => (h.feeder, h.sect)) = some (f, x) ∧ (t.ctx i).req = c.req ∧ (t.ctx i).gap = c.gap)

namespace Awaits
variable {i : Slot} {f : FeederId} {l : Level} {x : SectionId} {k : Mark} {c : Context} {s t : State}

theorem of_slot (h : Awaits i f l x k c s) (e : SameSlot i s t) : Awaits i f l x k c t :=
  h.imp (fun ⟨h1, h2, h3⟩ => ⟨e.ctx.trans h1, h2, e.listed h3⟩) fun h => by rw [e.ctx]; exact h

/-- A round makes the slot the offer of its entry, or is another's. -/
theorem afterRound (h : Awaits i f l x k c s) {g : FeederId} {e : Entry} (hn : s.nextEntry g = some e) : Awaits i f l x k c (s.afterRound g e) := by
  by_cases he : i = e.slot
  · have hw := State.nextEntry_waits hn
    rw [← he] at hw
    rcases h with ⟨h1, h2, h3⟩ | ⟨h1, -⟩
    · have hp := h3.mem_iff.1 ⟨State.nextEntry_mem hn, he.symm⟩
      cases hp
      refine .inr ?_
      have hc : (s.afterRound f ⟨i, x, k⟩).ctx i = _ := (State.afterRound_ctx s f ⟨i, x, k⟩ i).trans ((congrArg (fun v : State => v.ctx i)
        (State.serve_queued (e := ⟨i, x, k⟩) (by rw [h1]; exact h2) f)).trans (State.makeOffer_ctx s i i f x))
      rw [hc, if_pos rfl, h1]
      exact ⟨rfl, rfl, rfl, rfl⟩
    · unfold Context.waits at hw
      rw [h1] at hw
      cases hw
  · exact h.of_slot (.afterRound he)

theorem arbitrate (h : Awaits i f l x k c s) (g : FeederId) : Awaits i f l x k c (s.arbitrate g) :=
  State.arbitrate_keeps g (fun _ _ hn _ k => k.afterRound hn) h

theorem arbitrateOn (h : Awaits i f l x k c s) (w : FeederId → Bool) : Awaits i f l x k c (s.arbitrateOn w) :=
  State.arbitrateOn_keeps (fun _ _ _ _ hn _ k => k.afterRound hn) h

theorem deferIfQueued (h : Awaits i f l x k c s) (j : Slot) (g : Byte) : Awaits i f l x k c (s.deferIfQueued j g) :=
  h.of_slot (.of_same (.deferIfQueued _ _ _))

theorem wake (h : Awaits i f l x k c s) (y : SectionId) : Awaits i f l x k c (s.wake y) := h.of_slot (.of_same (.wake _ _))

theorem queueAt {w : Option Place} (h : s.Listed i w) (f : FeederId) (l : Level) (x : SectionId) (k : Mark) :
    Awaits i f l x k ((s.ctx i).settled .queued) (s.queueAt i f l x k) :=
  .inl ⟨by rw [State.queueAt_ctx, if_pos rfl], rfl, h.queueAt f l x k⟩

theorem req (h : Awaits i f l x k c t) : (t.ctx i).req = c.req := h.elim (fun h => by rw [h.1]) fun h => h.2.2.1

theorem gap (h : Awaits i f l x k c t) : (t.ctx i).gap = c.gap := h.elim (fun h => by rw [h.1]) fun h => h.2.2.2

theorem waits (h : Awaits i f l x k c t) :
    (t.ctx i).state = .queued ∧ (t.memberOf i).map (fun m => (m.feeder, m.level, m.entry)) = some (f, l, ⟨i, x, k⟩)
    ∨ (t.ctx i).state = .offered ∧ (t.ctx i).hold.map (fun h => (h.feeder, h.sect)) = some (f, x) :=
  h.imp (fun ⟨h1, h2, h3⟩ => ⟨by rw [h1]; exact h2, h3.memberOf⟩) fun h => ⟨h.1, h.2.1⟩

theorem state (h : Awaits i f l x k c t) : (t.ctx i).state = .queued ∨ (t.ctx i).state = .offered := h.waits.imp And.left And.left

end Awaits

end Sys2Proof.Machine
end

section
/-! PROOFS. Acceptances and releases (R52, R59, R61, R63). -/

namespace Sys2Proof.Machine
open Sys2Proof

/-- The placement reads the states of the sections and feeders, and the map. -/
theorem State.place_congr {s t : State} (hm : SameMap s t) (hd : SameDesk s t) (hi : IdleOnly s t) (r : Resolution) : t.place r = s.place r := by
  unfold State.place
  simp only [hm.feederOf, (hi _).state, (hd _).2.1]

theorem State.giveUp_place (s : State) (i : Slot) (st : CtxState) (r : Resolution) : (s.giveUp i st).place r = s.place r :=
  State.place_congr (.of_holders (.giveUp s i st)) ((SameDesk.refl s).giveUp i st) ((IdleOnly.refl s).giveUp i st) r

/-- With no swap pending what follows leaves none pending. -/
theorem State.evalSwap_onward {s t : State} (h : Onward s t) (hn : s.swap = .none) : t.evalSwap = t := State.evalSwap_none (h.swap_none hn).1

section
variable {u : State} {i : Slot} {tag : Byte}

/-! ### The release as such (R59) -/

theorem State.takeRel_stale (h : (u.ctx i).req.tag ≠ some tag ∨ (u.ctx i).state = .tracked ∨ (u.ctx i).state = .faulted) :
    u.takeRel i tag = u.answer i tag .stale := by
  unfold State.takeRel
  split
  next ht =>
    rcases h.resolve_left (fun h => h ((State.hasTag_iff _ _).1 ht)) with hs | hs <;> rw [hs]
  next => rfl

theorem State.takeRel_dropping (ht : (u.ctx i).req.tag = some tag) (hs : (u.ctx i).state = .dropping) : u.takeRel i tag = u.endDrop i := by
  unfold State.takeRel
  rw [if_pos ((State.hasTag_iff _ _).2 ht), hs]

/-- What holds or waits, but for a drop, gives up everything. -/
theorem State.takeRel_ends (ht : (u.ctx i).req.tag = some tag) (hs : (u.ctx i).state ∈ [.drawing, .queued, .offered, .crossing]) :
    (u.takeRel i tag).ctx i = Context.left { u.ctx i with
      strikes := if (u.ctx i).state = .drawing then (u.ctx i).strikes - 1 else (u.ctx i).strikes } .tracked := by
  have ended : (u.ctx i).state ≠ .drawing → (u.endHolding i .tracked).ctx i = Context.left { u.ctx i with
      strikes := if (u.ctx i).state = .drawing then (u.ctx i).strikes - 1 else (u.ctx i).strikes } .tracked := fun hd => by
    rw [State.endHolding_ctx u i (by decide) (by decide), if_neg hd]
  simp only [List.mem_cons, List.not_mem_nil, or_false] at hs
  unfold State.takeRel
  rw [if_pos ((State.hasTag_iff _ _).2 ht)]
  rcases hs with hs | hs | hs | hs
  · rw [hs, if_pos rfl]
    dsimp only
    rw [State.endHolding_ctx _ i (by decide) (by decide), State.modCtx_ctx_self]
  all_goals
    rw [hs] at ended ⊢
    exact ended (by decide)

/-! ### The end of a shed drop (R63) -/

/-- The context of a shed drop, as it asks again for what it held. -/
def Context.askingForHeld (c : Context) : Context := { c with req := { c.req with requested := (c.hold.map (·.amount)).getD 0 } }

theorem State.askForHeld_ctx (u : State) (i : Slot) : (u.askForHeld i).ctx i = (u.ctx i).askingForHeld := State.modCtx_ctx_self _ _ _

theorem State.endShedDrop_held (hf : (u.ctx i).holdFlag = true) : (u.endShedDrop i).ctx i = (u.ctx i).left .tracked := by
  unfold State.endShedDrop
  rw [if_pos hf, State.endHolding_ctx u i (by decide) (by decide)]

section
variable (hf : (u.ctx i).holdFlag = false)
include hf

theorem State.endShedDrop_refused {q : Refuse} (hp : u.place (u.ctx i).pos.resolution = .refused q) :
    u.endShedDrop i = (((u.askForHeld i).giveUp i .tracked).refuse i q).arbitrateOn (u.touches i) := by
  unfold State.endShedDrop
  have hp : ((u.askForHeld i).giveUp i .tracked).place (((u.askForHeld i).giveUp i .tracked).ctx i).pos.resolution = .refused q := by
    rw [State.giveUp_place, State.giveUp_self, State.askForHeld_ctx]
    exact hp
  rw [if_neg (by simp [hf])]
  dsimp only
  rw [hp]

theorem State.endShedDrop_refused_ctx {q : Refuse} (hp : u.place (u.ctx i).pos.resolution = .refused q) :
    (u.endShedDrop i).ctx i = (u.ctx i).askingForHeld.left .tracked := by
  have hc : (((u.askForHeld i).giveUp i .tracked).refuse i q).ctx i = (u.ctx i).askingForHeld.left .tracked := by
    rw [State.refuse_ctx, State.giveUp_self, State.askForHeld_ctx]
  rw [State.endShedDrop_refused hf hp, State.arbitrateOn_ctx (by rw [hc]; exact nofun) (by rw [hc]; exact nofun), hc]

theorem State.endShedDrop_told {q : Refuse} (hp : u.place (u.ctx i).pos.resolution = .refused q) (hq : u.normalQueue.length < 32) :
    (u.endShedDrop i).normalQueue[u.normalQueue.length]?
      = some ⟨0x24, (u.ctx i).truck.getD 0, 0, (u.ctx i).req.tag.getD 0, [byte q.code]⟩ := by
  have ht := State.told_of_giveUp (u := u.askForHeld i) (i := i) (r := q)
    ((Onward.refl (((u.askForHeld i).giveUp i .tracked).refuse i q)).arbitrateOn (u.touches i)) hq
  rw [State.askForHeld_ctx] at ht
  rw [State.endShedDrop_refused hf hp]
  exact ht

/-- A shed drop that finds a place waits there with its request for what it held. -/
theorem State.endShedDrop_awaits {w : Option Place} (hl : u.Listed i w) {x : SectionId} {f : FeederId}
    (hp : u.place (u.ctx i).pos.resolution = .placed x f) :
    Awaits i f (u.ctx i).req.level x .ordinary (((u.ctx i).askingForHeld.left .tracked).settled .queued) (u.endShedDrop i) := by
  have hc : ((u.askForHeld i).giveUp i .tracked).ctx i = (u.ctx i).askingForHeld.left .tracked := by
    rw [State.giveUp_self, State.askForHeld_ctx]
  have hp : ((u.askForHeld i).giveUp i .tracked).place (((u.askForHeld i).giveUp i .tracked).ctx i).pos.resolution = .placed x f := by
    rw [State.giveUp_place, hc]
    exact hp
  have hl : ((u.askForHeld i).giveUp i .tracked).Listed i none := State.Listed.giveUp (hl.congr (.modCtx _ _ _)) _
  have ha := Awaits.queueAt hl f (((u.askForHeld i).giveUp i .tracked).ctx i).req.level x .ordinary
  rw [hc] at ha
  unfold State.endShedDrop
  rw [if_neg (by simp [hf])]
  dsimp only
  rw [hp]
  dsimp only
  rw [hc]
  exact ((ha.wake x).arbitrateOn _).deferIfQueued i _

end

/-- The end of any drop but a shed one, with the evaluation of a swap that follows. -/
theorem State.endDrop_evalSwap (hr : (u.ctx i).dropReason ≠ some .shed) : ((u.endDrop i).evalSwap.ctx i).hold = none
    ∧ ((u.endDrop i).evalSwap.ctx i).dropDeadline = none ∧ ((u.endDrop i).evalSwap.ctx i).strikes = (u.ctx i).strikes
    ∧ ((u.endDrop i).evalSwap.ctx i).state = (if (u.ctx i).dropReason = some .gap then .crossing
        else if (u.ctx i).dropReason = some .fault then .faulted else .tracked) := by
  have he := u.endDrop_ended i
  obtain ⟨hh, hs⟩ := he.successor hr
  obtain ⟨p, hp⟩ := State.evalSwap_resettled (i := i) (t := u.endDrop i) rfl (by
    rw [hs]
    split
    · decide
    · split <;> decide)
  rw [hp]
  exact ⟨hh, he.deadline, he.strikes, hs⟩

end

end Sys2Proof.Machine
end

section
/-! PROOFS. Acceptances and releases as they are stated (R52, R59, R63). -/

namespace Sys2Proof.Machine
open Sys2Proof

section
variable {s : State} {i : Slot} {truck tag : Byte}

/-- The context of a truck that was heard. -/
theorem State.heard_ctx (s : State) (i : Slot) : (s.goodW.heard i).ctx i = { s.ctx i with
    silenceTimer := some (s.globals.silenceTime * 1000), silenceAge := 0, silenceCount := 0 } := by
  unfold State.heard
  rw [State.modCtx_ctx_self, State.goodW_ctx, State.goodW_globals]
  rfl

theorem State.heard_eq (s : State) (i : Slot) : s.goodW.heard i = s.goodW.modCtx i (fun c => { c with
    silenceTimer := some (s.globals.silenceTime * 1000), silenceAge := 0, silenceCount := 0 }) := by
  unfold State.heard
  rw [State.goodW_globals]
  rfl

theorem State.heard_truck (h : s.slotOf truck = some i) : ((s.goodW.heard i).ctx i).truck = some truck := by
  rw [State.heard_ctx]
  exact (State.slotOf_spec h).2

theorem State.heard_answer (h : s.slotOf truck = some i) (tag : Byte) (r : Refuse) :
    (s.goodW.heard i).answer i tag r = (s.goodW.heard i).sendNormal ⟨0x24, truck, 0, tag, [byte r.code]⟩ := by
  unfold State.answer State.refuseTruck
  rw [show ((s.goodW.heard i).ctx i).address = truck from congrArg (fun o : Option Byte => o.getD 0) (State.heard_truck h), rfsFrame_eq]

theorem State.dispatchAcc_eq (s : State) (truck tag : Byte) :
    (s.slotOf truck = none → s.goodW.dispatchAcc truck tag = s.goodW.sendNormal ⟨0x24, truck, 0, tag, [8]⟩)
    ∧ ∀ i, s.slotOf truck = some i → s.goodW.dispatchAcc truck tag = ((s.goodW.heard i).takeAcc i tag).evalSwap := by
  unfold State.dispatchAcc
  rw [State.goodW_slotOf]
  exact ⟨fun h => by rw [h]; rfl, fun i h => by rw [h]⟩

theorem State.dispatchRel_eq (s : State) (truck tag : Byte) :
    (s.slotOf truck = none → s.goodW.dispatchRel truck tag = s.goodW.sendNormal ⟨0x24, truck, 0, tag, [8]⟩)
    ∧ ∀ i, s.slotOf truck = some i → s.goodW.dispatchRel truck tag = ((s.goodW.heard i).takeRel i tag).evalSwap := by
  unfold State.dispatchRel
  rw [State.goodW_slotOf]
  exact ⟨fun h => by rw [h]; rfl, fun i h => by rw [h]⟩

theorem State.heard_place (s : State) (i : Slot) (r : Resolution) : (s.goodW.heard i).place r = s.place r := by
  refine State.place_congr (s := s) (t := s.goodW.heard i) ?_ ?_ ?_ r
  · obtain ⟨a, k, h⟩ := s.goodW_rest
    unfold State.heard
    rw [h]
    exact ⟨rfl, rfl, rfl⟩
  · exact (SameDesk.refl s).of_feeders (State.goodW_feeders s)
  · refine fun x => ?_
    have h : (s.goodW.heard i).sec x = s.sec x := s.goodW_sec x
    rw [h]
    exact .refl _

theorem State.Listed.heard {w : Option Place} (h : s.Listed i w) (j : Slot) : (s.goodW.heard j).Listed i w :=
  State.Listed.congr (SameLists.listed (SameSlots.lists (.of_eq (s.goodW_contexts) (s.goodW_feeders))) h) (.modCtx _ _ _)

/-- An accepted offer and its GRT (R52). -/
theorem State.acceptOffer_sendGrt {u : State} {h : Holding} (hh : (u.ctx i).hold = some h) (ht : (u.ctx i).truck = some truck) (tag : Byte) :
    (u.acceptOffer i h).sendGrt i tag
      = ((u.modFdr h.feeder (fun d => { d with grantOrder := d.grantOrder ++ [i] })).modCtx i (fun c => { c with
          state := .drawing, grantExpiry := some (c.req.hold.getD 0 * 1000), offerWindow := none, offerRepeat := none
          repeatCount := 0, levelAtGrant := some c.req.level, dropReason := none, dropDeadline := none, overdraw := 0 })).sendNormal
        ⟨0x20, truck, 0, tag, nat16 h.amount ++ [byte h.sect.val, byte (max 1 ((u.ctx i).req.hold.getD 0))]⟩ := by
  have hc : (u.acceptOffer i h).ctx i = { Context.settled (u.ctx i) .drawing with
      levelAtGrant := some (u.ctx i).req.level, grantExpiry := (u.ctx i).req.holdTimer } := by
    unfold State.acceptOffer
    rw [State.modCtx_ctx_self]
    exact congrArg (fun c : Context => { Context.settled c .drawing with levelAtGrant := some c.req.level, grantExpiry := c.req.holdTimer })
      (State.modFdr_ctx' _ _ _ i)
  unfold State.sendGrt
  rw [hc]
  dsimp only [Context.settled, Context.address]
  rw [hh, ht]
  dsimp only
  rw [show secondsLeft (u.ctx i).req.holdTimer = (u.ctx i).req.hold.getD 0 from secondsLeft_seconds _]
  rfl

end

end Sys2Proof.Machine

open Sys2Proof Sys2Proof.Machine

/-- Settles O54, by the state of the context that is heard. -/
theorem offersAreAcceptedAndGrantsReleased : Obligations.OffersAreAcceptedAndGrantsReleased := by
  unfold Obligations.OffersAreAcceptedAndGrantsReleased
  refine ⟨fun truck tag s hp hw h1 h2 => ?_, fun truck tag s hp hw h1 h2 => ?_⟩
  · intro run q stale
    have he : run = _ := exec_acc hp hw h1 h2 tag
    obtain ⟨hn, hs⟩ := s.dispatchAcc_eq truck tag
    refine ⟨fun h => he.trans (congrArg _ (hn h)), fun i hi => ?_⟩
    intro c u
    have hu : s.goodW.heard i = u := s.heard_eq i
    have hc : u.ctx i = { s.ctx i with silenceTimer := some (s.globals.silenceTime * 1000), silenceAge := 0, silenceCount := 0 } := by
      rw [← hu, State.heard_ctx]
    have ha : u.admission = s.admission := by rw [← hu]; exact s.goodW_admission
    have ht : (u.ctx i).truck = some truck := by rw [← hu]; exact State.heard_truck hi
    have hst : u.answer i tag .stale = u.sendNormal stale := by rw [← hu]; exact State.heard_answer hi tag .stale
    replace he : run = .next (u.takeAcc i tag).evalSwap := he.trans (by rw [hs i hi, hu])
    clear_value u
    rw [he]
    refine ⟨fun h => ?_, fun h hg hd hh => ?_, fun h hg hd k hk => ?_⟩
    · rw [State.takeAcc_stale (by rw [ha, hc]; exact h), hst]
    · rw [State.takeAcc_drawing (by rw [ha, h]) (by rw [hc]; exact hg) (by rw [hc]; exact hd) (by rw [hc]; exact hh)]
    · have hk : (u.ctx i).hold = some k := by rw [hc]; exact hk
      rw [State.takeAcc_offered (by rw [ha, h]) (by rw [hc]; exact hg) (by rw [hc]; exact hd) hk, State.acceptOffer_sendGrt hk ht, hc]
  · intro run q stale
    have he : run = _ := exec_rel hp hw h1 h2 tag
    obtain ⟨hn, hs⟩ := s.dispatchRel_eq truck tag
    refine ⟨fun h => he.trans (congrArg _ (hn h)), fun i hi => ?_⟩
    intro c u
    have hu : s.goodW.heard i = u := s.heard_eq i
    have hc : u.ctx i = { s.ctx i with silenceTimer := some (s.globals.silenceTime * 1000), silenceAge := 0, silenceCount := 0 } := by
      rw [← hu, State.heard_ctx]
    have ht : (u.ctx i).truck = some truck := by rw [← hu]; exact State.heard_truck hi
    have hst : u.answer i tag .stale = u.sendNormal stale := by rw [← hu]; exact State.heard_answer hi tag .stale
    have hw : u.swap = s.swap := by rw [← hu]; exact s.goodW_swap
    have hpl : ∀ r, u.place r = s.place r := fun r => by rw [← hu]; exact s.heard_place i r
    have hls : ∀ w, s.Listed i w → u.Listed i w := fun w h => by rw [← hu]; exact h.heard i
    have hnq : u.normalQueue = s.normalQueue := by rw [← hu]; exact s.goodW_normalQueue
    replace he : run = .next (u.takeRel i tag).evalSwap := he.trans (by rw [hs i hi, hu])
    clear_value u
    rw [he]
    refine ⟨fun h => ?_, fun hg hd => ?_, fun hg hd hr => ?_, fun hg hd hr hn hfit => ?_⟩
    · rw [State.takeRel_stale (by rw [hc]; exact h), hst]
    · have hk := State.takeRel_ends (u := u) (i := i) (tag := tag) (by rw [hc]; exact hg) (by rw [hc]; exact hd)
      obtain ⟨p, hp⟩ := State.evalSwap_resettled hk nofun
      refine ⟨_, rfl, ?_⟩
      rw [hp, hc]
      exact ⟨rfl, rfl, rfl, rfl⟩
    · rw [State.takeRel_dropping (by rw [hc]; exact hg) (by rw [hc]; exact hd)]
      have hk := State.endDrop_evalSwap (u := u) (i := i) (by rw [hc]; exact hr)
      rw [hc] at hk
      exact ⟨_, rfl, hk⟩
    · intro refusal
      have hdrop : u.takeRel i tag = u.endShedDrop i := by
        rw [State.takeRel_dropping (by rw [hc]; exact hg) (by rw [hc]; exact hd)]
        unfold State.endDrop
        rw [show (u.ctx i).dropReason = some .shed by rw [hc]; exact hr]
      have hx : (u.endShedDrop i).evalSwap = u.endShedDrop i := State.evalSwap_onward ((Onward.refl u).endShedDrop i) (hw.trans hn)
      rw [hdrop, hx]
      obtain ⟨w, hl⟩ := hfit.place
      refine ⟨fun hf => ⟨_, rfl, ?_⟩, fun hf code hcode => ⟨_, rfl, ?_⟩, fun hf hno y f hy hyf => ⟨_, rfl, ?_⟩⟩
      · rw [State.endShedDrop_held (by rw [hc]; exact hf)]
        exact ⟨rfl, rfl⟩
      · obtain ⟨k, hk, hcd⟩ := State.place_refused (s := s) (r := c.pos.resolution) hcode
        have hk : u.place (u.ctx i).pos.resolution = .refused k := by rw [hpl, hc]; exact hk
        have hf : (u.ctx i).holdFlag = false := by rw [hc]; exact hf
        have htold := State.endShedDrop_told hf hk
        rw [State.endShedDrop_refused_ctx hf hk]
        refine ⟨rfl, rfl, fun hq => ?_⟩
        rw [hnq, ht, hcd, hc] at htold
        rw [htold hq, show (s.ctx i).req.tag = some tag from hg]
        rfl
      · have hno : s.refusalOf (.sect y) = none := by rw [← hy]; exact hno
        have hk : u.place (u.ctx i).pos.resolution = .placed y f := by
          rw [hpl, hc]
          exact hy ▸ State.place_placed hno hyf
        have ha := State.endShedDrop_awaits (by rw [hc]; exact hf) (hls w hl) hk
        have hreq := ha.req
        have hwait := ha.waits
        rw [hc] at hreq hwait
        exact ⟨hreq, hwait⟩

end

section
/-! PROOFS. Direct grants, and the terms of a request (R43 to R46, R71). -/

namespace Sys2Proof.Machine
open Sys2Proof

/-! ### The terms of a request (R43, R44) -/

/-- The amount that is wanted under a class. -/
def Terms.wanted (t : Terms) (k : TruckClass) : Nat := min t.requested k.cap

def Terms.least (t : Terms) (k : TruckClass) : Nat := if t.minimum = 0 then t.wanted k else t.minimum

def Terms.time (t : Terms) (k : TruckClass) : Nat := if t.hold = 0 ∨ k.maxHold < t.hold then k.maxHold else t.hold

theorem Terms.checked_good {t : Terms} {k : TruckClass} (h0 : t.requested ≠ 0) (h1 : t.minimum ≤ t.requested) (h2 : t.least k ≤ k.cap) :
    t.checked k = some ⟨t.tag, t.wanted k, t.least k, t.time k⟩ := by
  unfold Terms.checked
  rw [if_neg (by omega)]
  dsimp only
  rw [if_neg (by unfold Terms.least Terms.wanted at h2; omega)]
  rfl

theorem Terms.checked_bad {t : Terms} {k : TruckClass} (h : ¬(t.requested ≠ 0 ∧ t.minimum ≤ t.requested ∧ t.least k ≤ k.cap)) :
    t.checked k = none := by
  refine Terms.checked_none ?_
  by_cases h0 : t.requested = 0
  · exact .inl h0
  by_cases h1 : t.requested < t.minimum
  · exact .inr (.inl h1)
  refine .inr (.inr ?_)
  have h2 : k.cap < t.least k := by by_contra hc; exact h ⟨h0, by omega, by omega⟩
  unfold Terms.least Terms.wanted at h2
  split at h2 <;> omega

/-! ### Direct grants (R46) -/

section
variable {u : State} {i : Slot} {f : FeederId} {x : SectionId}

theorem State.grantsDirect_iff (hn : u.swap = .none) : u.grantsDirect i f x = true ↔ (u.fdr f).wait1 = [] ∧ (u.fdr f).wait2 = []
    ∧ (u.sec x).state = .energised ∧ (u.fdr f).state = .online ∧ (u.ctx i).req.minimum ≤ u.candidate i f x ∧ 0 < u.candidate i f x := by
  have hc : u.wouldConflict i x f = false := by
    unfold State.wouldConflict State.swapPending
    rw [hn]
    rfl
  unfold State.grantsDirect Feeder.noneWait State.fits
  rw [hc]
  simp [and_assoc]

/-- What a direct grant leaves of the feeders and the sections' loads. -/
theorem State.grantDirect_fdr (hh : (u.ctx i).hold = none) (e : Timer) (g : FeederId) :
    (u.grantDirect i f x e).fdr g = if g = f then { u.fdr f with
      committed := (u.fdr f).committed + u.candidate i f x, grantOrder := (u.fdr f).grantOrder ++ [i] } else u.fdr g := by
  unfold State.grantDirect State.joinOrder
  rw [State.modCtx_fdr', State.modFdr_fdr, State.setHold_record, hh]
  by_cases hg : f = g
  · subst hg
    rw [if_pos rfl, if_pos rfl]
    simp [heldOn]
  · rw [if_neg hg, if_neg (Ne.symm hg), State.setHold_record, hh]
    simp [heldOn, hg]

theorem State.grantDirect_load (hh : (u.ctx i).hold = none) (e : Timer) (y : SectionId) :
    (u.grantDirect i f x e).load y = if y = x then u.load x + u.candidate i f x else u.load y := by
  unfold State.grantDirect State.joinOrder
  rw [State.modCtx_load', State.modFdr_load', State.setHold_load, hh]
  by_cases hy : x = y
  · subst hy
    simp [heldIn]
  · rw [if_neg (Ne.symm hy)]
    simp [heldIn, hy]

theorem State.grantDirect_ctx_other {j : Slot} (h : i ≠ j) (e : Timer) : (u.grantDirect i f x e).ctx j = u.ctx j := by
  unfold State.grantDirect State.joinOrder
  rw [State.modCtx_ctx_other _ _ h, State.modFdr_ctx', State.setHold_ctx, if_neg h]

theorem State.grantDirect_normalQueue (e : Timer) : (u.grantDirect i f x e).normalQueue = u.normalQueue := by
  have h : HoldersOnly u (u.grantDirect i f x e) := (HoldersOnly.setHold u i _).trans ((HoldersOnly.modFdr _ _ _).trans (HoldersOnly.modCtx _ _ _))
  rw [h.rest]

/-- A wake energises no section. -/
theorem State.wake_energised (u : State) (x : SectionId) : ((u.wake x).sec x).state = .energised ↔ (u.sec x).state = .energised := by
  rw [State.wake_eq, State.modSec_sec_self]
  unfold State.wakeRec
  split
  · exact Iff.rfl
  · split
    · split
      next h => exact ⟨nofun, fun k => by rw [h] at k; cases k⟩
      next h => split <;> exact ⟨nofun, fun k => by rw [h] at k; cases k⟩
      all_goals exact Iff.rfl
    · exact Iff.rfl

theorem State.sendGrt_frame {h : Holding} {truck : Byte} (hh : (u.ctx i).hold = some h) (ht : (u.ctx i).truck = some truck) (tag : Byte) :
    u.sendGrt i tag = u.sendNormal ⟨0x20, truck, 0, tag, nat16 h.amount ++ [byte h.sect.val, byte (max 1 (secondsLeft (u.ctx i).grantExpiry))]⟩ := by
  unfold State.sendGrt Context.address
  dsimp only
  rw [hh, ht]
  rfl

end

/-! ### A request that passed its checks -/

section
variable {u : State} {i : Slot} {f : FeederId} {x : SectionId} {t : Terms} {l : Level}

/-- The state in which a request is granted or deferred. -/
def State.requested (u : State) (i : Slot) (t : Terms) (l : Level) (x : SectionId) : State := (u.setRequest i t l).wake x

theorem State.requested_ctx (u : State) (i : Slot) (t : Terms) (l : Level) (x : SectionId) : (u.requested i t l x).ctx i
    = { u.ctx i with req := { tag := some t.tag, requested := t.requested, minimum := t.minimum, hold := some t.hold, level := l } } :=
  (State.wake_ctx _ _ _).trans (State.modCtx_ctx_self _ _ _)

theorem State.requested_ctx_other {j : Slot} (h : i ≠ j) : (u.requested i t l x).ctx j = u.ctx j :=
  (State.wake_ctx _ _ _).trans (State.modCtx_ctx_other _ _ h)

theorem State.requested_rest (u : State) (i : Slot) (t : Terms) (l : Level) (x : SectionId) :
    u.requested i t l x = { u with contexts := (u.requested i t l x).contexts, sections := (u.requested i t l x).sections } := by
  unfold State.requested
  rw [State.wake_eq]
  rfl

theorem State.requested_candidate (u : State) (i : Slot) (t : Terms) (l : Level) (x : SectionId) (f : FeederId) :
    (u.requested i t l x).candidate i f x = min (min t.requested (u.feederRoom f)) (min (u.sectionRoom x) (u.ctx i).cls.cap) := by
  have hf : (u.requested i t l x).feederRoom f = u.feederRoom f := by rw [State.requested_rest]; rfl
  have hs : (u.requested i t l x).sectionRoom x = u.sectionRoom x := by rw [State.requested_rest]; rfl
  unfold State.candidate
  rw [hf, hs, State.requested_ctx]

theorem State.acceptRequest_direct (h : (u.requested i t l x).grantsDirect i f x = true) :
    u.acceptRequest i t l x f = ((u.requested i t l x).grantDirect i f x (seconds t.hold)).sendGrt i t.tag := if_pos h

/-- A request that is not granted at once waits, or is made an offer by the arbitration that follows. -/
theorem State.acceptRequest_waits (h : ¬(u.requested i t l x).grantsDirect i f x = true) :
    (((u.acceptRequest i t l x f).ctx i).state = .queued ∨ ((u.acceptRequest i t l x f).ctx i).state = .offered)
    ∧ ((u.acceptRequest i t l x f).ctx i).req = { tag := some t.tag, requested := t.requested, minimum := t.minimum, hold := some t.hold, level := l } := by
  have he : u.acceptRequest i t l x f = (((u.requested i t l x).queueAt i f l x .ordinary).arbitrate f).deferIfQueued i t.tag := if_neg h
  have hq : ((u.requested i t l x).queueAt i f l x .ordinary).ctx i = Context.settled ((u.requested i t l x).ctx i) .queued := by
    rw [State.queueAt_ctx, if_pos rfl]
  rw [he, State.deferIfQueued_ctx]
  generalize (u.requested i t l x).queueAt i f l x .ordinary = v at hq
  have hw := Waited.arbitrate v f
  refine ⟨hw.of_queued (by rw [hq]; rfl), ?_⟩
  rw [(hw.stays i).req, hq, State.requested_ctx]
  rfl

end

end Sys2Proof.Machine
end

section
/-! PROOFS. Requests and renewals as they are stated (R45, R46, R48, R53, R56, R57). -/

namespace Sys2Proof.Machine
open Sys2Proof

/-! ### Renewals (R56, R57) -/

section
variable {v : State} {i : Slot} {h : Holding} {u : Terms}

theorem Feeder.noneWait_iff (d : Feeder) : d.noneWait = true ↔ d.wait1 = [] ∧ d.wait2 = [] := by
  unfold Feeder.noneWait
  simp

/-- The amount of a renewed grant. -/
theorem State.renewedAmount_eq (v : State) (h : Holding) (n : Nat) : v.renewedAmount h n = if n ≤ h.amount then n
    else if n - h.amount ≤ v.feederRoom h.feeder ∧ n - h.amount ≤ v.sectionRoom h.sect ∧ (v.fdr h.feeder).state = .online
      ∧ (v.fdr h.feeder).wait1 = [] ∧ (v.fdr h.feeder).wait2 = [] then n
    else h.amount := by
  unfold State.renewedAmount State.increaseFits
  simp only [Bool.and_eq_true, decide_eq_true_eq, beq_iff_eq, Feeder.noneWait_iff, and_assoc]

/-- The context of a renewed grant before its frame and the arbitration. -/
theorem State.settleExpiry_ctx (v : State) (i : Slot) (f : FeederId) (n : Nat) : (v.settleExpiry i f n).ctx i
    = { v.ctx i with grantExpiry := if ((v.fdr f).wait1 = [] ∧ (v.fdr f).wait2 = []) ∨ (v.ctx i).cls.holdThrough = true then some (n * 1000)
        else (v.ctx i).grantExpiry } := by
  unfold State.settleExpiry
  simp only [Bool.or_eq_true, Feeder.noneWait_iff]
  split
  · exact State.modCtx_ctx_self _ _ _
  · rfl

theorem State.renewGrant_ctx (hs : (v.ctx i).state = .drawing) : (v.renewGrant i h u).ctx i = { v.ctx i with
    req := { tag := some u.tag, requested := u.requested, minimum := u.minimum, hold := some u.hold, level := v.effectiveLevel i }
    hold := some { h with amount := v.renewedAmount h u.requested }
    grantExpiry := if ((v.fdr h.feeder).wait1 = [] ∧ (v.fdr h.feeder).wait2 = []) ∨ (v.ctx i).cls.holdThrough = true then some (u.hold * 1000)
      else (v.ctx i).grantExpiry } := by
  have ha : ∀ n, (v.setRequest i u (v.effectiveLevel i)).renewedAmount h n = v.renewedAmount h n := fun n => rfl
  have hw : ∀ k, ((v.setRequest i u (v.effectiveLevel i)).setHold i k).fdr h.feeder = { v.fdr h.feeder with
      committed := (((v.setRequest i u (v.effectiveLevel i)).setHold i k).fdr h.feeder).committed } := fun k => by
    rw [State.setHold_record]
    rfl
  unfold State.renewGrant
  dsimp only
  rw [ha]
  generalize v.renewedAmount h u.requested = n
  have hk : (((v.setRequest i u (v.effectiveLevel i)).setHold i (some { h with amount := n })).ctx i)
      = { v.ctx i with
        req := { tag := some u.tag, requested := u.requested, minimum := u.minimum, hold := some u.hold, level := v.effectiveLevel i }
        hold := some { h with amount := n } } := by
    rw [State.setHold_ctx, if_pos rfl, State.Tidy.setRequest_ctx]
  have hd := hw (some { h with amount := n })
  generalize (v.setRequest i u (v.effectiveLevel i)).setHold i (some { h with amount := n }) = w at hk hd
  have he : ((w.settleExpiry i h.feeder u.hold).sendGrt i u.tag).ctx i = _ := (State.sendGrt_ctx _ _ _ _).trans (w.settleExpiry_ctx i h.feeder u.hold)
  rw [hk, hd] at he
  split
  · rw [State.arbitrate_ctx (by rw [he]; simp [hs]) (by rw [he]; simp [hs])]
    exact he
  · exact he

end

/-! ### New tags in QUEUED and OFFERED (R48, R53) -/

section
variable {u : State} {i : Slot} {t v : Terms}

theorem State.tracked_after (f : FeederId) (r : Refuse) (tag : Byte) :
    (((u.giveUp i .tracked).answer i tag r).arbitrate f).ctx i = (u.ctx i).left .tracked := by
  have h : ((u.giveUp i .tracked).answer i tag r).ctx i = (u.ctx i).left .tracked := (State.sendNormal_ctx _ _ _).trans (State.giveUp_self _ _ _)
  rw [State.arbitrate_ctx (by rw [h]; exact nofun) (by rw [h]; exact nofun), h]

/-- A queued slot that is arbitrated and told waits on, or has its offer. -/
theorem State.waits_after {w : State} (h : (w.ctx i).state = .queued) (f : FeederId) (tag : Byte) :
    ((((w.arbitrate f).deferIfQueued i tag).ctx i).state = .queued ∨ (((w.arbitrate f).deferIfQueued i tag).ctx i).state = .offered)
    ∧ (((w.arbitrate f).deferIfQueued i tag).ctx i).req = (w.ctx i).req := by
  rw [State.deferIfQueued_ctx]
  exact ⟨(Waited.arbitrate w f).of_queued h, ((Waited.arbitrate w f).stays i).req⟩

theorem State.updateRequest_bad {m : Membership} (hm : u.memberOf i = some m) (hb : t.checked (u.ctx i).cls = none) :
    (u.updateRequest i t).ctx i = (u.ctx i).left .tracked := by
  unfold State.updateRequest
  rw [hm]
  dsimp only
  rw [hb]
  exact State.tracked_after _ _ _

theorem State.updateRequest_good {m : Membership} (hm : u.memberOf i = some m) (hs : (u.ctx i).state = .queued)
    (hv : t.checked (u.ctx i).cls = some v) :
    (((u.updateRequest i t).ctx i).state = .queued ∨ ((u.updateRequest i t).ctx i).state = .offered)
    ∧ ((u.updateRequest i t).ctx i).req = { tag := some v.tag, requested := v.requested, minimum := v.minimum, hold := some v.hold, level := m.level } := by
  have hc := State.Tidy.setRequest_ctx u i v m.level
  have ha := State.waits_after (w := u.setRequest i v m.level) (i := i) (by rw [hc]; exact hs) m.feeder t.tag
  rw [hc] at ha
  unfold State.updateRequest
  rw [hm]
  dsimp only
  rw [hv]
  exact ha

theorem State.declineAndAsk_bad {h : Holding} (hh : (u.ctx i).hold = some h) (hb : t.checked (u.ctx i).cls = none) :
    (u.declineAndAsk i t).ctx i = (u.ctx i).left .tracked := by
  unfold State.declineAndAsk
  rw [hh]
  dsimp only
  rw [hb]
  exact State.tracked_after _ _ _

theorem State.declineAndAsk_good {h : Holding} (hh : (u.ctx i).hold = some h) (hv : t.checked (u.ctx i).cls = some v) :
    (((u.declineAndAsk i t).ctx i).state = .queued ∨ ((u.declineAndAsk i t).ctx i).state = .offered)
    ∧ ((u.declineAndAsk i t).ctx i).req = { tag := some v.tag, requested := v.requested, minimum := v.minimum, hold := some v.hold, level := u.effectiveLevel i } := by
  have hc : ((((u.giveUp i .tracked).setRequest i v (u.effectiveLevel i)).queueAt i h.feeder (u.effectiveLevel i) h.sect .ordinary).ctx i)
      = Context.settled { (u.ctx i).left .tracked with
          req := { tag := some v.tag, requested := v.requested, minimum := v.minimum, hold := some v.hold, level := u.effectiveLevel i } } .queued := by
    rw [State.queueAt_ctx, if_pos rfl, State.Tidy.setRequest_ctx, State.giveUp_self]
  have ha := State.waits_after (i := i) (w := ((u.giveUp i .tracked).setRequest i v (u.effectiveLevel i)).queueAt i h.feeder (u.effectiveLevel i) h.sect
    .ordinary) (by rw [hc]; rfl) h.feeder t.tag
  rw [hc] at ha
  unfold State.declineAndAsk
  rw [hh]
  dsimp only
  rw [hv]
  exact ha

end

/-! ### The requests that are taken -/

section
variable {s : State} {i : Slot} {truck tag : Byte} {requested minimum : Word} {hold : Byte}

/-- With no swap pending a DRQ of a known truck ends with its taking. -/
theorem exec_drq_known (hp : s.resetPin = false) (hw : s.wSending = none) (h1 : 1 ≤ truck.toNat) (h2 : truck.toNat ≤ 127)
    (hi : s.slotOf truck = some i) (hn : s.swap = .none) : exec (.drq truck tag requested minimum hold) s
      = .next ((s.goodW.heard i).takeDrq i ⟨tag, requested.toNat, minimum.toNat, hold.toNat⟩) := by
  rw [exec_drq hp hw h1 h2, State.dispatchDrq_known ((s.goodW_slotOf truck).trans hi),
    State.evalSwap_onward ((Onward.refl (s.goodW.heard i)).takeDrq i _) (s.goodW_swap.trans hn)]

theorem State.goodW_asked_ctx (s : State) (i : Slot) (truck : Byte) : (s.goodW.asked i truck).ctx i = { s.ctx i with
    silenceTimer := some (s.globals.silenceTime * 1000), silenceAge := 0, silenceCount := 0, cls := s.resolveClass truck } := by
  rw [State.asked_ctx, State.goodW_ctx, State.goodW_globals, State.goodW_resolveClass]

end

end Sys2Proof.Machine
end

section
/-! PROOFS. Requests and renewals as they are stated (R45, R46, R48, R53, R56, R57). -/

namespace Sys2Proof.Machine
open Sys2Proof

section
variable (s : State) (i : Slot) (truck : Byte)

/-- What a truck that asks leaves of everything but its context. -/
theorem State.goodW_asked_rest : (∀ f, (s.goodW.asked i truck).fdr f = s.fdr f) ∧ (∀ x, (s.goodW.asked i truck).sec x = s.sec x)
    ∧ (∀ x, (s.goodW.asked i truck).load x = s.load x) ∧ (∀ x, (s.goodW.asked i truck).entry x = s.entry x)
    ∧ (∀ x, (s.goodW.asked i truck).feederOf x = s.feederOf x)
    ∧ (∀ j, j ≠ i → (s.goodW.asked i truck).ctx j = s.ctx j)
    ∧ (s.goodW.asked i truck).swap = s.swap ∧ (s.goodW.asked i truck).normalQueue = s.normalQueue ∧ (s.goodW.asked i truck).globals = s.globals :=
  ⟨s.goodW_fdr, s.goodW_sec, s.goodW_load, s.goodW_entry, s.goodW_feederOf,
    fun _ hj => (s.goodW.asked_ctx_other truck hj).trans (s.goodW_ctx _), s.goodW_swap, s.goodW_normalQueue, s.goodW_globals⟩

theorem State.goodW_asked_room (f : FeederId) : (s.goodW.asked i truck).feederRoom f
    = (s.fdr f).config.capacity - (s.fdr f).config.reserve - (s.fdr f).committed := by
  obtain ⟨hf, -⟩ := s.goodW_asked_rest i truck
  unfold State.feederRoom FeederConfig.limit
  rw [hf]

theorem State.goodW_asked_space (x : SectionId) : (s.goodW.asked i truck).sectionRoom x
    = if (s.entry x).valid then (s.entry x).limit - s.load x else 0 := by
  obtain ⟨-, -, hl, he, -⟩ := s.goodW_asked_rest i truck
  rw [State.sectionRoom_eq, hl, he]

theorem State.goodW_asked_level : (s.goodW.asked i truck).effectiveLevel i = if (s.resolveClass truck).level = .one
    ∨ (s.globals.promote = 1 ∧ (s.ctx i).pos.loaded = true ∧ (s.ctx i).pos.heading = .up) then Level.one else Level.two := by
  obtain ⟨-, -, -, -, -, -, -, -, hg⟩ := s.goodW_asked_rest i truck
  unfold State.effectiveLevel
  dsimp only
  rw [State.goodW_asked_ctx, hg]
  simp only [Bool.or_eq_true, Bool.and_eq_true, beq_iff_eq, and_assoc]

end

/-- The checks of a DRQ's terms, as they are stated (R43, R44). -/
theorem Terms.checked_words (tag : Byte) (requested minimum : Word) (hold : Byte) (k : TruckClass) :
    let wanted := min requested.toNat k.cap
    let least := if minimum = 0 then wanted else minimum.toNat
    let time := if hold = 0 ∨ k.maxHold < hold.toNat then k.maxHold else hold.toNat
    let good := requested ≠ 0 ∧ minimum.toNat ≤ requested.toNat ∧ least ≤ k.cap
    (good → Terms.checked ⟨tag, requested.toNat, minimum.toNat, hold.toNat⟩ k = some ⟨tag, wanted, least, time⟩)
    ∧ (¬good → Terms.checked ⟨tag, requested.toNat, minimum.toNat, hold.toNat⟩ k = none) := by
  have hz : ∀ {n : Nat} {w : BitVec n}, w = 0 ↔ w.toNat = 0 := fun {n w} => by rw [← BitVec.toNat_inj]; simp
  simp only [hz, ne_eq]
  exact ⟨fun ⟨h0, h1, h2⟩ => Terms.checked_good h0 h1 h2, fun h => Terms.checked_bad h⟩

end Sys2Proof.Machine

open Sys2Proof Sys2Proof.Machine

/-- Settles O53, by the state in which the new tag comes. -/
theorem renewalsAreSettled : Obligations.RenewalsAreSettled := by
  unfold Obligations.RenewalsAreSettled
  intro truck tag requested minimum hold s i hp hw h1 h2 hi ha hn htag run k wanted least time good
  have he : run = _ := exec_drq_known (tag := tag) (requested := requested) (minimum := minimum) (hold := hold) hp hw h1 h2 hi hn
  have hrun := State.takeDrq_running ((s.goodW_slotOf truck).trans hi) (by rwa [State.goodW_admission]) ⟨tag, requested.toNat, minimum.toNat, hold.toNat⟩
  obtain ⟨hgood, hbad⟩ := Terms.checked_words tag requested minimum hold k
  have hc := s.goodW_asked_ctx i truck
  have hnot : ∀ {a b : State}, (if (s.ctx i).hasTag tag then a else b) = b := if_neg (fun h => htag ((State.hasTag_iff _ _).1 h))
  obtain ⟨hfdr, -⟩ := s.goodW_asked_rest i truck
  have hmem : (s.goodW.asked i truck).memberOf i = s.memberOf i := s.goodW_memberOf i
  have hroom := s.goodW_asked_room i truck
  have hspace := s.goodW_asked_space i truck
  rw [State.goodW_ctx] at hrun
  generalize s.goodW.asked i truck = u at hrun hc hfdr hmem hroom hspace
  have hcls : (u.ctx i).cls = k := by rw [hc]
  rw [he]
  refine ⟨fun hg hs hf h hh => ?_, fun m hm hs => ⟨fun hg => ⟨_, rfl, ?_⟩, fun hg => ⟨_, rfl, ?_⟩⟩,
    fun h hh hs => ⟨fun hg => ⟨_, rfl, ?_⟩, fun hg => ⟨_, rfl, ?_⟩⟩⟩
  · intro room space alone amount
    have hv : (s.goodW.heard i).takeDrq i ⟨tag, requested.toNat, minimum.toNat, hold.toNat⟩ = u.renewGrant i h ⟨tag, wanted, least, time⟩ := by
      rw [hrun, hs]
      refine hnot.trans ?_
      unfold State.renew
      rw [show (u.ctx i).hold = some h by rw [hc]; exact hh]
      dsimp only
      rw [if_neg (by rw [hc]; simp [hf]), hcls, hgood hg]
    have hk := State.renewGrant_ctx (h := h) (u := ⟨tag, wanted, least, time⟩) (show (u.ctx i).state = .drawing by rw [hc]; exact hs)
    have hamount : u.renewedAmount h wanted = amount := by
      rw [State.renewedAmount_eq, hroom, hspace, hfdr]
    rw [hv]
    refine ⟨_, rfl, ?_⟩
    rw [hk]
    refine ⟨?_, ?_, rfl, rfl, rfl, rfl, ?_, ?_⟩
    · rw [hc]; exact hs
    · exact congrArg (fun n => some ({ h with amount := n } : Holding)) hamount
    · rw [hc]
    · rw [hc, hfdr]
  · rw [hrun, hs]
    exact (congrArg (fun v : State => (v.ctx i).state) (hnot.trans rfl)).trans
      (congrArg Context.state (State.updateRequest_bad (by rw [hmem]; exact hm) (by rw [hcls]; exact hbad hg)))
  · have hk := State.updateRequest_good (u := u) (t := ⟨tag, requested.toNat, minimum.toNat, hold.toNat⟩) (by rw [hmem]; exact hm) (by rw [hc]; exact hs) (by rw [hcls]; exact hgood hg)
    rw [hrun, hs]
    dsimp only
    rw [hnot]
    exact hk
  · have hk := State.declineAndAsk_bad (u := u) (i := i) (t := ⟨tag, requested.toNat, minimum.toNat, hold.toNat⟩) (by rw [hc]; exact hh)
      (by rw [hcls]; exact hbad hg)
    rw [hrun, hs]
    dsimp only
    rw [hnot, hk]
    exact ⟨rfl, rfl⟩
  · have hk := State.declineAndAsk_good (u := u) (i := i) (t := ⟨tag, requested.toNat, minimum.toNat, hold.toNat⟩) (by rw [hc]; exact hh)
      (by rw [hcls]; exact hgood hg)
    rw [hrun, hs]
    dsimp only
    rw [hnot]
    obtain ⟨h1, h2⟩ := hk
    exact ⟨h1, by rw [h2], by rw [h2], by rw [h2]⟩

/-- Settles O52, by whether the request is granted at once. -/
theorem drawRequestsAreGrantedOrDeferred : Obligations.DrawRequestsAreGrantedOrDeferred := by
  unfold Obligations.DrawRequestsAreGrantedOrDeferred
  intro truck tag requested minimum hold s i x f hp hw h1 h2 hi ha hs hf hn hres happ hiso hxf hup run k wanted least time level request room space amount
    direct h0 hmin hcap
  have he : run = _ := exec_drq_known (tag := tag) (requested := requested) (minimum := minimum) (hold := hold) hp hw h1 h2 hi hn
  have hrun := State.takeDrq_running ((s.goodW_slotOf truck).trans hi) (by rwa [State.goodW_admission]) ⟨tag, requested.toNat, minimum.toNat, hold.toNat⟩
  have hgood := (Terms.checked_words tag requested minimum hold k).1 ⟨h0, hmin, hcap⟩
  have hc := s.goodW_asked_ctx i truck
  obtain ⟨hfdr, hsec, hload, -, hof, hother, hswap, hqueue, -⟩ := s.goodW_asked_rest i truck
  have hroom := s.goodW_asked_room i truck f
  have hspace := s.goodW_asked_space i truck x
  have hlevel := s.goodW_asked_level i truck
  rw [State.goodW_ctx, hs] at hrun
  dsimp only at hrun
  generalize s.goodW.asked i truck = u at hrun hc hfdr hsec hload hof hother hswap hqueue hroom hspace hlevel
  have hplace : u.placeRequest i = .placed x f := by
    rw [State.placeRequest_clear (x := x) (by rw [hc]; exact hres) (by rw [hc]; exact happ)]
    exact State.place_up (by rwa [hsec]) (by rwa [hof]) (by rwa [hfdr])
  rw [State.requestFromTracked_good hplace (by rw [hc]; exact hf) (by rw [hc]; exact hgood), hlevel] at hrun
  rw [he, hrun]
  change _ ∧ (_ → ∃ t, Host.Outcome.next (u.acceptRequest i ⟨tag, wanted, least, time⟩ level x f) = _ ∧ _)
  have hctx := u.requested_ctx i ⟨tag, wanted, least, time⟩ level x
  have hcand : (u.requested i ⟨tag, wanted, least, time⟩ level x).candidate i f x = amount := by
    rw [State.requested_candidate, hroom, hspace, hc]
  have hrest := u.requested_rest i ⟨tag, wanted, least, time⟩ level x
  have hv : ∀ g, (u.requested i ⟨tag, wanted, least, time⟩ level x).fdr g = s.fdr g := fun g => by rw [hrest]; exact hfdr g
  have hvl : ∀ y, (u.requested i ⟨tag, wanted, least, time⟩ level x).load y = s.load y := fun y => by rw [hrest]; exact hload y
  have hvq : (u.requested i ⟨tag, wanted, least, time⟩ level x).normalQueue = s.normalQueue := by rw [hrest]; exact hqueue
  have hdirect : (u.requested i ⟨tag, wanted, least, time⟩ level x).grantsDirect i f x = true ↔ direct := by
    rw [State.grantsDirect_iff (by rw [hrest]; exact hswap.trans hn), hcand, hv, hctx]
    unfold State.requested
    rw [State.wake_energised]
    exact Iff.of_eq (congrArg (fun r : SectionRec => _ ∧ _ ∧ r.state = .energised ∧ _ ∧ _ ∧ _) (hsec x))
  refine ⟨fun hd hh => ⟨_, rfl, ?_⟩, fun hd => ⟨_, rfl, State.acceptRequest_waits fun h => hd (hdirect.1 h)⟩⟩
  have hvc : ∀ j, j ≠ i → (u.requested i ⟨tag, wanted, least, time⟩ level x).ctx j = s.ctx j := fun j hj =>
    (State.requested_ctx_other (Ne.symm hj)).trans (hother j hj)
  have hvh : ((u.requested i ⟨tag, wanted, least, time⟩ level x).ctx i).hold = none := by rw [hctx, hc]; exact hh
  rw [State.acceptRequest_direct (hdirect.2 hd)]
  rw [hc] at hctx
  generalize u.requested i ⟨tag, wanted, least, time⟩ level x = v at hctx hcand hv hvl hvq hvc hvh
  have hgc := State.Tidy.grantDirect_ctx v i f x (seconds time)
  rw [hctx, hcand] at hgc
  have htruck : ((v.grantDirect i f x (seconds time)).ctx i).truck = some truck := by rw [hgc]; exact (State.slotOf_spec hi).2
  have hhold : ((v.grantDirect i f x (seconds time)).ctx i).hold = some ⟨amount, f, x⟩ := by rw [hgc]; rfl
  have hexp : ((v.grantDirect i f x (seconds time)).ctx i).grantExpiry = seconds time := by rw [hgc]
  rw [State.sendGrt_frame hhold htruck, hexp, secondsLeft_seconds]
  refine ⟨?_, ?_, ?_, ?_, ?_, ?_, ?_, ?_, ?_, fun g hg => ?_, fun y hy => ?_, fun j hj => ?_, fun hq => ?_⟩
  · rw [State.sendNormal_ctx, hgc]; rfl
  · rw [State.sendNormal_ctx, hhold]
  · rw [State.sendNormal_ctx, hgc]; rfl
  · rw [State.sendNormal_ctx, hgc]
  · rw [State.sendNormal_ctx, hgc]; rfl
  · rw [State.sendNormal_ctx, hgc]; rfl
  · rw [State.sendNormal_fdr', State.grantDirect_fdr hvh, if_pos rfl, hv, hcand]
  · rw [State.sendNormal_load', State.grantDirect_load hvh, if_pos rfl, hvl, hcand]
  · rw [State.sendNormal_fdr', State.grantDirect_fdr hvh, if_pos rfl, hv]
  · rw [State.sendNormal_fdr', State.grantDirect_fdr hvh, if_neg hg, hv]
  · rw [State.sendNormal_load', State.grantDirect_load hvh, if_neg hy, hvl]
  · rw [State.sendNormal_ctx, State.grantDirect_ctx_other (Ne.symm hj), hvc j hj]
  · unfold State.sendNormal
    rw [State.grantDirect_normalQueue, hvq, if_pos hq]

end

section
/-! PROOFS. The swap of the banks: the conflicts, and what its completion settles (R11, R16 to R18). -/

namespace Sys2Proof.Machine
open Sys2Proof

/-! ### Conflicts (R11) -/

theorem Bank.resolve_valid {k : Bank} {c : Nat} {x : SectionId} (h : k.resolve c = .sect x) : (k.sect x).valid = true := by
  unfold Bank.resolve at h
  split at h
  · cases h
  · split at h
    next y hy =>
      cases h
      have hc := List.find?_some hy
      unfold SectionEntry.covers at hc
      simp only [Bool.and_eq_true] at hc
      exact hc.1.1
    next => cases h

theorem State.shadowAgrees_iff (s : State) (c : Nat) (x : SectionId) (f : FeederId) :
    s.shadowAgrees c x f = true ↔ s.shadowBank.resolve c = .sect x ∧ s.shadowBank.sections[x].feeder = f := by
  unfold State.shadowAgrees
  simp only [Bool.and_eq_true, beq_iff_eq]
  refine and_congr_right fun h => ?_
  unfold Bank.feederOf
  rw [if_pos (Bank.resolve_valid h)]
  exact Option.some_inj

theorem State.swapPending_iff (s : State) : s.swapPending = true ↔ s.swap ≠ .none := by
  unfold State.swapPending
  simp

/-- What is in conflict with a pending swap. -/
theorem State.inConflict_iff (s : State) (i : Slot) : s.inConflict i = true ↔ s.swap ≠ .none ∧ ((s.ctx i).state = .dropping
    ∨ (s.ctx i).state = .crossing ∨ ((s.ctx i).state = .drawing ∨ (s.ctx i).state = .offered) ∧ ∃ h, (s.ctx i).hold = some h ∧
      ¬(s.shadowBank.resolve (s.ctx i).pos.chainage = .sect h.sect ∧ s.shadowBank.sections[h.sect].feeder = h.feeder)) := by
  have held : ((s.ctx i).hold.map (fun h => s.wouldConflict i h.sect h.feeder)).getD false = true ↔ s.swap ≠ .none ∧ ∃ h, (s.ctx i).hold = some h ∧
      ¬(s.shadowBank.resolve (s.ctx i).pos.chainage = .sect h.sect ∧ s.shadowBank.sections[h.sect].feeder = h.feeder) := by
    unfold State.wouldConflict
    rw [← State.swapPending_iff]
    cases (s.ctx i).hold with
    | none => simp
    | some h =>
      simp only [Option.map_some, Option.getD_some, Bool.and_eq_true, Bool.not_eq_true', Option.some.injEq, exists_eq_left']
      rw [← State.shadowAgrees_iff, Bool.not_eq_true]
  unfold State.inConflict
  cases hs : (s.ctx i).state
  case dropping => simp [State.swapPending_iff]
  case crossing => simp [State.swapPending_iff]
  case drawing => simpa using held
  case offered => simpa using held
  all_goals simp

theorem State.conflicts_zero_iff (s : State) : s.conflicts = 0 ↔ ∀ i, s.inConflict i = false := by
  unfold State.conflicts
  rw [List.length_eq_zero_iff, List.filter_eq_nil_iff]
  exact ⟨fun h i => by simpa using h i (mem_allSlots i), fun h i _ => by simp [h i]⟩

theorem State.evalSwap_waits {s : State} (h : ∃ i, s.inConflict i = true) : s.evalSwap = s := by
  unfold State.evalSwap
  refine if_neg fun hc => ?_
  rw [Bool.and_eq_true, beq_iff_eq, State.conflicts_zero_iff] at hc
  obtain ⟨i, hi⟩ := h
  rw [hc.2 i] at hi
  cases hi

theorem State.evalSwap_completes {s : State} (hp : s.swap ≠ .none) (h : ∀ i, s.inConflict i = false) : s.evalSwap = s.completeSwap := by
  unfold State.evalSwap
  exact if_pos (by rw [(State.swapPending_iff s).2 hp, (State.conflicts_zero_iff s).2 h]; rfl)

/-! ### The positions that a completed swap leaves (R17) -/

/-- What arbitration leaves of every context's position. -/
theorem Waited.pos {s t : State} (h : Waited s t) (i : Slot) : (t.ctx i).pos = (s.ctx i).pos := by
  by_cases hw : (s.ctx i).waits = true
  · have hs : (s.ctx i).state = .queued ∨ (s.ctx i).state = .crossing := by simpa [Context.waits] using hw
    rcases hs with hs | hs
    · rcases h.queued i hs with e | ⟨k, w, r, e⟩
      · rw [e]
      · rw [e]; rfl
    · obtain ⟨f, e⟩ := h.crossing i hs
      rw [e]
  · rw [h.others i (by simpa using hw)]

theorem State.rehome_pos (s : State) (i j : Slot) : ((s.rehome i).ctx j).pos = (s.ctx j).pos := by
  by_cases e : i = j
  · subst e
    unfold State.rehome
    split
    · rfl
    · split
      · rw [State.refuse_ctx, State.giveUp_ctx, if_pos rfl]; rfl
      · split
        · rw [State.wake_ctx, State.moveEntry_ctx]
        · rw [State.wake_ctx, State.queueAt_ctx, if_pos rfl]; rfl
  · rw [State.rehome_ctx_other _ e]

theorem Moves.resettle (s : State) (i : Slot) : Moves i s (s.resettle i) := by
  unfold State.resettle
  dsimp only
  split
  · exact .refl s
  · exact (Moves.refl s).modCtx fun _ => rfl

/-- Every allocated context stands resolved against the bank that became active. -/
theorem State.completeSwap_pos {s : State} {i : Slot} (h : (s.ctx i).state ≠ .free) : ∃ a, (s.completeSwap.ctx i).pos
    = { (s.ctx i).pos with resolution := s.shadowBank.resolve (s.ctx i).pos.chainage, approach := a } := by
  obtain ⟨u, hm, hu, ht⟩ := State.eachSlot_at (Q := SameMap s.flip) (g := State.resettle) (s := s.flip) (i := i) (fun t j h => by
    unfold State.resettle
    dsimp only
    split
    · exact h
    · exact h.trans (.of_holders (.modCtx _ _ _))) (fun t j => Moves.resettle t j) (.refl _)
  have hc : u.ctx i = s.ctx i := hu.ctx
  have hr : ∀ n, u.resolve n = s.shadowBank.resolve n := fun n => by
    unfold State.resolve
    rw [hm.activeBank]
    rfl
  have h1 : ∃ a, (((s.flip.eachSlot State.resettle).sectionsAfterSwap).ctx i).pos
      = { (s.ctx i).pos with resolution := s.shadowBank.resolve (s.ctx i).pos.chainage, approach := a } := by
    rw [State.sectionsAfterSwap, State.eachSection_ctx State.sectionAfterSwap_ctx, ht.ctx]
    unfold State.resettle
    dsimp only
    rw [if_neg (by rw [hc]; simpa using h), State.modCtx_ctx_self, hr, hc]
    exact ⟨_, rfl⟩
  obtain ⟨a, ha⟩ := h1
  refine ⟨a, ?_⟩
  unfold State.completeSwap
  dsimp only
  generalize (s.flip.eachSlot State.resettle).sectionsAfterSwap = v at ha
  rw [← ha]
  refine State.eachSlot_induction (P := fun t => (t.ctx i).pos = (v.ctx i).pos) (fun t j k => by rw [State.tellRehomed_ctx]; exact k) ?_
  refine ((Waited.arbitrateOn _ _).pos i).trans ?_
  rw [State.report_ctx]
  refine State.eachSlot_induction (P := fun t => (t.ctx i).pos = (v.ctx i).pos) (fun t j k => ?_) rfl
  unfold State.rehomeQueued
  split
  · exact (t.rehome_pos j i).trans k
  · exact k

theorem State.completeSwap_latches (s : State) : s.completeSwap.latches.getLsbD 1 = true := by
  unfold State.completeSwap
  dsimp only
  generalize (s.flip.eachSlot State.resettle).sectionsAfterSwap = v
  generalize (allSlots.filter (fun i => (v.ctx i).state == .queued && v.rehomeLeaves i)).length = n
  have hl := (v.eachSlot State.rehomeQueued).report_latch .swapDone v.active.code n
  generalize (v.eachSlot State.rehomeQueued).report .swapDone v.active.code n = w at hl ⊢
  refine (Onward.eachSlot (fun t i k => ?_) (Onward.arbitrateAll (Onward.refl w))).latches 1 hl
  unfold State.tellRehomed
  split
  · exact k.deferIfQueued _ _
  · exact k

end Sys2Proof.Machine
end

section
/-! PROOFS. The banks as they are swapped, with and without force (R11 to R18). -/

namespace Sys2Proof.Machine
open Sys2Proof

/-! ### What a forced swap does to the contexts in conflict (R12) -/

theorem Moves.redirectDrop (s : State) (i : Slot) (r : Reason) : Moves i s (s.redirectDrop i r) := by
  have turn : ∀ {t : State}, Moves i s t → Moves i s (t.turnDrop i r) := fun h => by
    unfold State.turnDrop
    refine Moves.setWithdraw (Moves.modCtx h ?_) _ _
    exact fun _ => rfl
  unfold State.redirectDrop State.releaseTarget
  split
  · exact turn (((Moves.refl s).dropEntry).setGap _)
  · exact turn (.refl s)

theorem Moves.reconfig (s : State) (i : Slot) : Moves i s (s.reconfig i) := by
  unfold State.reconfig
  split
  · exact (Moves.refl s).startDrop _ _
  · exact ((Moves.refl s).giveUp _).same (.refuse _ _ _)
  · split
    · exact .redirectDrop s i _
    · exact .refl s
  · exact (Moves.refl s).withdrawNow _ _
  all_goals exact .refl s

/-- The map, the settings and the swap stand. -/
structure SameSwap (s t : State) : Prop extends SameMap s t where
  globals : t.globals = s.globals
  swap : t.swap = s.swap

namespace SameSwap
variable {s t u : State}

theorem refl (s : State) : SameSwap s s := ⟨.refl s, rfl, rfl⟩

theorem trans (h : SameSwap s t) (k : SameSwap t u) : SameSwap s u := ⟨h.toSameMap.trans k.toSameMap, k.globals.trans h.globals, k.swap.trans h.swap⟩

theorem of_holders (h : HoldersOnly s t) : SameSwap s t := ⟨.of_holders h, by rw [h.rest], by rw [h.rest]⟩

theorem of_served (h : Served s t) : SameSwap s t := ⟨.of_served h, by rw [h.rest], by rw [h.rest]⟩

theorem sendNormal (s : State) (f : Frame) : SameSwap s (s.sendNormal f) := ⟨.sendNormal s f, by simp, by simp⟩

theorem redirectDrop (s : State) (i : Slot) (r : Reason) : SameSwap s (s.redirectDrop i r) := by
  have turn : ∀ t : State, SameSwap t (t.turnDrop i r) := fun t => by
    unfold State.turnDrop State.setWithdraw
    exact (of_holders (.modCtx _ _ _)).trans (of_holders (.modCtx _ _ _))
  unfold State.redirectDrop State.releaseTarget
  split
  · exact ((of_holders (.dropEntry _ _)).trans (of_holders (.setGap _ _ _))).trans (turn _)
  · exact turn s

theorem reconfig (s : State) (i : Slot) : SameSwap s (s.reconfig i) := by
  unfold State.reconfig
  split
  · unfold State.startDrop
    exact of_holders (.modCtx _ _ _)
  · exact (of_holders (.giveUp _ _ _)).trans (sendNormal _ _)
  · split
    · exact redirectDrop s i _
    · exact refl s
  · unfold State.withdrawNow State.setWithdraw
    exact (of_holders (.giveUp _ _ _)).trans (of_holders (.modCtx _ _ _))
  all_goals exact refl s

theorem reconfigAll (s : State) : SameSwap s s.reconfigAll := by
  unfold State.reconfigAll
  refine SameSwap.trans ?_ (of_served (.arbitrateOn _ _))
  refine State.eachSlot_induction (P := SameSwap s) (fun t i h => ?_) (.refl s)
  split
  · exact h.trans (reconfig t i)
  · exact h

end SameSwap

/-- What the reconfiguration makes of a context in conflict. -/
def Context.reconfigured (c : Context) (deadline : Nat) : Context :=
  match c.state with
  | .drawing => { c with state := .dropping, grantExpiry := none, overdraw := 0, dropReason := some .reconfig
                         dropDeadline := tenths deadline, withdraw := some ⟨.reconfig, false⟩ }
  | .offered => c.left .tracked
  | .dropping => if c.dropReason = some .gap then
      { c with dropReason := some .reconfig, withdraw := some ⟨.reconfig, false⟩, gap := GapFields.clear } else c
  | .crossing => { c.left .tracked with withdraw := some ⟨.reconfig, true⟩ }
  | _ => c

section
variable {c : Context} (n : Nat)

theorem Context.reconfigured_drawing (h : c.state = .drawing) : c.reconfigured n = { c with
    state := .dropping, grantExpiry := none, overdraw := 0, dropReason := some .reconfig, dropDeadline := tenths n
    withdraw := some ⟨.reconfig, false⟩ } := by
  unfold Context.reconfigured
  split <;> simp_all

theorem Context.reconfigured_offered (h : c.state = .offered) : c.reconfigured n = c.left .tracked := by
  unfold Context.reconfigured
  rw [h]

theorem Context.reconfigured_crossing (h : c.state = .crossing) :
    c.reconfigured n = { c.left .tracked with withdraw := some ⟨.reconfig, true⟩ } := by
  unfold Context.reconfigured
  rw [h]

theorem Context.reconfigured_gapDrop (h : c.state = .dropping) (hg : c.dropReason = some .gap) :
    c.reconfigured n = { c with dropReason := some .reconfig, withdraw := some ⟨.reconfig, false⟩, gap := GapFields.clear } := by
  unfold Context.reconfigured
  split <;> simp_all

theorem Context.reconfigured_drop (h : c.state = .dropping) (hg : c.dropReason ≠ some .gap) : c.reconfigured n = c := by
  unfold Context.reconfigured
  rw [h]
  exact if_neg hg

theorem Context.reconfigured_drops (h : c.state = .dropping) : (c.reconfigured n).state = .dropping := by
  by_cases hg : c.dropReason = some .gap
  · rw [Context.reconfigured_gapDrop n h hg]
    exact h
  · rw [Context.reconfigured_drop n h hg, h]

/-- What is in conflict neither waits nor crosses once it is reconfigured. -/
theorem Context.reconfigured_still (h : c.state = .dropping ∨ c.state = .crossing ∨ c.state = .drawing ∨ c.state = .offered) :
    (c.reconfigured n).state ≠ .queued ∧ (c.reconfigured n).state ≠ .crossing := by
  rcases h with h | h | h | h
  · rw [Context.reconfigured_drops n h]
    decide
  · rw [Context.reconfigured_crossing n h]
    exact ⟨nofun, nofun⟩
  · rw [Context.reconfigured_drawing n h]
    exact ⟨nofun, nofun⟩
  · rw [Context.reconfigured_offered n h]
    exact ⟨nofun, nofun⟩

end

theorem State.reconfig_ctx {s : State} {i : Slot} (h : (s.ctx i).state = .dropping ∨ (s.ctx i).state = .crossing ∨ (s.ctx i).state = .drawing
    ∨ (s.ctx i).state = .offered) : (s.reconfig i).ctx i = (s.ctx i).reconfigured s.globals.ordinaryDrop := by
  unfold State.reconfig
  rcases h with h | h | h | h <;> rw [h] <;> dsimp only
  · by_cases hg : (s.ctx i).dropReason = some .gap
    · have hd : (s.ctx i).dropsForGap = true := (Context.dropsForGap_iff _).2 ⟨h, hg⟩
      rw [if_pos hd, State.redirectDrop_ctx, if_pos rfl, if_pos hd, Context.reconfigured_gapDrop _ h hg]
    · rw [if_neg (fun hd => hg ((Context.dropsForGap_iff _).1 hd).2), Context.reconfigured_drop _ h hg]
  · rw [State.withdrawNow_self, Context.reconfigured_crossing _ h]
  · rw [State.startDrop_ctx, if_pos rfl, Context.reconfigured_drawing _ h]
  · rw [State.refuse_ctx, State.giveUp_self, Context.reconfigured_offered _ h]

theorem State.reconfigAll_ctx {s : State} {i : Slot} (hi : s.inConflict i = true) :
    s.reconfigAll.ctx i = (s.ctx i).reconfigured s.globals.ordinaryDrop := by
  have hs : (s.ctx i).state = .dropping ∨ (s.ctx i).state = .crossing ∨ (s.ctx i).state = .drawing ∨ (s.ctx i).state = .offered := by
    obtain ⟨-, h | h | ⟨h, -⟩⟩ := (s.inConflict_iff i).1 hi
    · exact .inl h
    · exact .inr (.inl h)
    · exact .inr (.inr h)
  obtain ⟨u, hu, hc, ht⟩ := State.eachSlot_at (Q := SameSwap s) (g := fun t i => if s.inConflict i then t.reconfig i else t) (s := s) (i := i)
    (fun t j h => by
      split
      · exact h.trans (.reconfig t j)
      · exact h)
    (fun t j => by
      split
      · exact .reconfig t j
      · exact .refl t) (.refl s)
  have he : (s.eachSlot (fun t i => if s.inConflict i then t.reconfig i else t)).ctx i = (s.ctx i).reconfigured s.globals.ordinaryDrop := by
    rw [ht.ctx, if_pos hi, State.reconfig_ctx (by rwa [hc.ctx]), hc.ctx, hu.globals]
  obtain ⟨h1, h2⟩ := Context.reconfigured_still s.globals.ordinaryDrop hs
  unfold State.reconfigAll
  rw [State.arbitrateOn_ctx (by rw [he]; exact h1) (by rw [he]; exact h2), he]

/-! ### The answers -/

section
variable {u : State} {c : Caller} {g : State → State}

theorem State.requestSwap_busy (h : u.swap ≠ .none) : u.requestSwap c g = u.nak c .busy 0 255 := if_pos ((State.swapPending_iff u).2 h)

theorem State.requestSwap_idle (h : u.swap = .none) : u.requestSwap c g = match u.shadowBank.invalid with
    | some (table, index) => u.nak c .invalidMap (byte table) (byte index)
    | none => (g u).ack c := if_neg (by rw [State.swapPending_iff]; exact not_not.2 h)

theorem State.requestSwap_invalid (h : u.swap = .none) {t n : Nat} (hi : u.shadowBank.invalid = some (t, n)) :
    u.requestSwap c g = u.nak c .invalidMap (byte t) (byte n) := by
  rw [State.requestSwap_idle h, hi]

theorem State.requestSwap_begins (h : u.swap = .none) (hi : u.shadowBank.invalid = none) : u.requestSwap c g = (g u).ack c := by
  rw [State.requestSwap_idle h, hi]

end

theorem State.taken_shadow (s : State) : s.taken.shadowBank = s.shadowBank := by
  unfold State.shadowBank State.bank
  simp only [State.taken_active, State.taken_bankA, State.taken_bankB]

/-- What stands through a swap that goes on to its end, with its answer. -/
theorem State.answered_swap {s u t : State} {c : Caller} (hu : u.bankA = s.bankA ∧ u.bankB = s.bankB ∧ u.feeders = s.feeders)
    (h : Onward u t) (he : s.taken.onlyEvents t) : (t.ack c).cQueue.getLast? = some ⟨0x70, c.src, s.cAddress, c.seq, []⟩
      ∧ (t.ack c).bankA = s.bankA ∧ (t.ack c).bankB = s.bankB ∧ ∀ f, ((t.ack c).fdr f).config = (s.fdr f).config := by
  have hb := SameBody.ack t c
  refine ⟨(he.ack_getLast c).trans (by rw [State.taken_cAddress]), ?_, ?_, fun f => ?_⟩
  · rw [hb.bankA, h.rest]
    exact hu.1
  · rw [hb.bankB, h.rest]
    exact hu.2.1
  · rw [hb.fdr, (h.records f).1]
    unfold State.fdr
    rw [hu.2.2]

end Sys2Proof.Machine
end

section
/-! PROOFS. The banks as they are swapped (R11 to R18). -/

namespace Sys2Proof.Machine
open Sys2Proof

section
variable {s : State} {c : Caller}

theorem exec_bankSwap (force : Byte) (h : s.takes (.bankSwap c force)) : exec (.bankSwap c force) s = .next (s.taken.swapUnforced c force) :=
  exec_taken (a := 0) rfl h

theorem exec_bankSwapForced (h : s.takes (.bankSwapForced c)) :
    exec (.bankSwapForced c) s = .next (s.taken.requestSwap c State.beginForcedSwap) := exec_taken (a := 0) rfl h

theorem State.taken_beginSwap (s : State) :
    s.taken.beginSwap = ({ s.taken with swap := .pending, swapTimer := some (s.globals.swapTime * 1000) } : State).evalSwap :=
  congrArg (fun g : Globals => ({ s.taken with swap := .pending, swapTimer := seconds g.swapTime } : State).evalSwap) s.taken_globals

/-- A busy part and an invalid shadow bank refuse a swap, in that order. -/
theorem State.swap_refused (hq : s.taken.cQueue.length < 32) (g : State → State) :
    (s.swap ≠ .none → s.taken.requestSwap c g = s.taken.withNak c 6 0 255)
    ∧ (s.swap = .none → ∀ table index, s.shadowBank.invalid = some (table, index) →
        s.taken.requestSwap c g = s.taken.withNak c 7 (byte table) (byte index)) := by
  refine ⟨fun h => ?_, fun h table index hi => ?_⟩
  · rw [State.requestSwap_busy (by rwa [State.taken_swap]), State.nak_room hq]
    rfl
  · rw [State.requestSwap_invalid (by rwa [State.taken_swap]) (by rwa [State.taken_shadow]), State.nak_room hq]
    rfl

/-- What a swap that completes at once leaves (R16, R17). -/
theorem State.completeSwap_leaves {u : State} (hi : ∀ i, u.inConflict i = false) (hn : u.swap ≠ .none) :
    (u.completeSwap.active = u.active.other ∧ u.completeSwap.swap = .none ∧ u.completeSwap.swapTimer = none)
    ∧ ∀ i, (u.ctx i).state ≠ .queued → (u.completeSwap.ctx i).state = (u.ctx i).state ∧ (u.completeSwap.ctx i).hold = (u.ctx i).hold := by
  obtain ⟨h1, h2, h3⟩ := (Onward.completed u).swap_none rfl
  refine ⟨⟨h3, h1, h2⟩, fun i hq => ?_⟩
  have hx : (u.ctx i).state ≠ .crossing := fun hx => by
    have := (u.inConflict_iff i).2 ⟨hn, .inr (.inl hx)⟩
    rw [hi i] at this
    cases this
  obtain ⟨-, r, a, he⟩ := State.completeSwap_ctx hq hx
  rw [he]
  exact ⟨rfl, rfl⟩

/-- What a forced swap leaves, before its answer: the swap has ended or waits, and it waits where a drop goes on. -/
theorem State.forced_swap {u : State} (hf : u.swap = .pendingForced) :
    (u.reconfigAll.evalSwap.active = u.active.other ∧ u.reconfigAll.evalSwap.swap = .none ∧ u.reconfigAll.evalSwap.swapTimer = none
      ∨ u.reconfigAll.evalSwap.active = u.active ∧ u.reconfigAll.evalSwap.swap = .pendingForced)
    ∧ ((∃ i, (u.ctx i).state = .dropping ∨ (u.ctx i).state = .drawing ∧ u.inConflict i = true) →
        u.reconfigAll.evalSwap.active = u.active ∧ u.reconfigAll.evalSwap.swap = .pendingForced) := by
  refine ⟨?_, fun ⟨i, h⟩ => ?_⟩
  · rcases ((Onward.refl u).reconfigAll.evalSwap).swapping with ⟨h1, h2, h3⟩ | ⟨-, h1, h2, h3⟩
    · exact .inr ⟨h3, h1.trans hf⟩
    · exact .inl ⟨h3, h1, h2⟩
  · have hi : u.inConflict i = true := h.elim (fun h => (u.inConflict_iff i).2 ⟨by rw [hf]; exact nofun, .inl h⟩) And.right
    have hd : (u.reconfigAll.ctx i).state = .dropping := by
      rw [State.reconfigAll_ctx hi]
      rcases h with h | ⟨h, -⟩
      · exact Context.reconfigured_drops _ h
      · rw [Context.reconfigured_drawing _ h]
    rw [State.evalSwap_held (.inl hd)]
    exact ⟨(SameSwap.reconfigAll u).active, (SameSwap.reconfigAll u).swap.trans hf⟩

/-- What becomes of each context in conflict. -/
theorem State.forced_contexts {u : State} {i : Slot} (hi : u.inConflict i = true) :
    ((u.ctx i).state = .drawing → (u.reconfigAll.evalSwap.ctx i).state = .dropping ∧ (u.reconfigAll.evalSwap.ctx i).dropReason = some .reconfig
      ∧ (u.reconfigAll.evalSwap.ctx i).dropDeadline = some (u.globals.ordinaryDrop * 100)
      ∧ (u.reconfigAll.evalSwap.ctx i).hold = (u.ctx i).hold
      ∧ (u.reconfigAll.evalSwap.ctx i).grantExpiry = none ∧ (u.reconfigAll.evalSwap.ctx i).withdraw = some ⟨.reconfig, false⟩)
    ∧ ((u.ctx i).state = .offered → (u.reconfigAll.evalSwap.ctx i).state = .tracked ∧ (u.reconfigAll.evalSwap.ctx i).hold = none)
    ∧ ((u.ctx i).state = .crossing → (u.reconfigAll.evalSwap.ctx i).state = .tracked ∧ (u.reconfigAll.evalSwap.ctx i).gap = GapFields.clear
      ∧ (u.reconfigAll.evalSwap.ctx i).withdraw = some ⟨.reconfig, true⟩)
    ∧ ((u.ctx i).state = .dropping → (u.ctx i).dropReason = some .gap → (u.reconfigAll.evalSwap.ctx i).state = .dropping
      ∧ (u.reconfigAll.evalSwap.ctx i).dropReason = some .reconfig ∧ (u.reconfigAll.evalSwap.ctx i).gap = GapFields.clear
      ∧ (u.reconfigAll.evalSwap.ctx i).dropDeadline = (u.ctx i).dropDeadline
      ∧ (u.reconfigAll.evalSwap.ctx i).withdraw = some ⟨.reconfig, false⟩)
    ∧ ((u.ctx i).state = .dropping → (u.ctx i).dropReason ≠ some .gap → u.reconfigAll.evalSwap.ctx i = u.ctx i) := by
  have hc := State.reconfigAll_ctx hi
  have held : (u.reconfigAll.ctx i).state = .dropping → u.reconfigAll.evalSwap.ctx i = (u.ctx i).reconfigured u.globals.ordinaryDrop :=
    fun h => by rw [State.evalSwap_held (.inl h), hc]
  refine ⟨fun h => ?_, fun h => ?_, fun h => ?_, fun h hg => ?_, fun h hg => ?_⟩
  · rw [held (by rw [hc, Context.reconfigured_drawing _ h]), Context.reconfigured_drawing _ h]
    exact ⟨rfl, rfl, rfl, rfl, rfl, rfl⟩
  · obtain ⟨p, hp⟩ := State.evalSwap_resettled (hc.trans (Context.reconfigured_offered _ h)) nofun
    rw [hp]
    exact ⟨rfl, rfl⟩
  · obtain ⟨p, hp⟩ := State.evalSwap_resettled (hc.trans (Context.reconfigured_crossing _ h)) nofun
    rw [hp]
    exact ⟨rfl, rfl, rfl⟩
  · rw [held (by rw [hc, Context.reconfigured_drops _ h]), Context.reconfigured_gapDrop _ h hg]
    exact ⟨h, rfl, rfl, rfl, rfl⟩
  · rw [held (by rw [hc, Context.reconfigured_drops _ h]), Context.reconfigured_drop _ h hg]

/-- A swap begun with nothing in conflict, with its answer. -/
theorem State.begun_completes {u : State} (h : SameBody { s.taken with swap := u.swap } u) (hn : u.swap ≠ .none) (hk : s.taken.onlyEvents u)
    (hi : ∀ i, u.inConflict i = false) :
    let t := u.evalSwap.ack c
    (t.active = s.active.other ∧ t.swap = .none ∧ t.swapTimer = none)
    ∧ (t.cQueue.getLast? = some ⟨0x70, c.src, s.cAddress, c.seq, []⟩ ∧ t.bankA = s.bankA ∧ t.bankB = s.bankB
      ∧ ∀ f, (t.fdr f).config = (s.fdr f).config)
    ∧ t.latches.getLsbD 1 = true
    ∧ (∀ i, (s.ctx i).state ≠ .free → (t.ctx i).pos = { (s.ctx i).pos with
        resolution := s.shadowBank.resolve (s.ctx i).pos.chainage, approach := (t.ctx i).pos.approach })
    ∧ ∀ i, (s.ctx i).state ≠ .queued → (t.ctx i).state = (s.ctx i).state ∧ (t.ctx i).hold = (s.ctx i).hold := by
  have hev : s.taken.onlyEvents u.evalSwap := (keeps_onlyEvents _).evalSwap hk
  rw [State.evalSwap_completes hn hi] at hev ⊢
  obtain ⟨⟨h1, h2, h3⟩, h4⟩ := State.completeSwap_leaves hi hn
  have hc : ∀ i, u.ctx i = s.ctx i := fun i => (h.ctx i).trans (s.taken_ctx i)
  have hsh : u.shadowBank = s.shadowBank := by
    unfold State.shadowBank State.bank
    rw [h.active, h.bankA, h.bankB]
    exact s.taken_shadow
  have ha := State.answered_swap (s := s) (u := u) (t := u.completeSwap) (c := c)
    ⟨h.bankA.trans s.taken_bankA, h.bankB.trans s.taken_bankB, h.feeders.trans s.taken_feeders⟩ ((Onward.refl u).completeSwap hn) hev
  have hl := u.completeSwap_latches
  have hpos := fun i (hf : (u.ctx i).state ≠ .free) => State.completeSwap_pos hf
  simp only [hc, hsh] at h4 hpos
  generalize u.completeSwap = v at h1 h2 h3 h4 ha hl hpos
  have hs := SameBody.ack v c
  refine ⟨⟨hs.active.trans (h1.trans (congrArg BankId.other (h.active.trans s.taken_active))), hs.swap.trans h2,
    (State.sendReply_swapTimer _ _).trans h3⟩, ha, ?_, fun i hf => ?_, fun i hq => ?_⟩
  · exact (congrArg (fun l : BitVec 22 => l.getLsbD 1) (State.sendReply_latches v _)).trans hl
  · obtain ⟨a, hp⟩ := hpos i hf
    rw [hs.ctx, hp]
  · rw [hs.ctx]
    exact h4 i hq

/-- A forced swap, with its answer. -/
theorem State.forced_answered {u : State} (h : SameBody { s.taken with swap := u.swap } u) (hf : u.swap = .pendingForced) (hk : s.taken.onlyEvents u) :
    let t := u.reconfigAll.evalSwap.ack c
    (t.cQueue.getLast? = some ⟨0x70, c.src, s.cAddress, c.seq, []⟩ ∧ t.bankA = s.bankA ∧ t.bankB = s.bankB
      ∧ ∀ f, (t.fdr f).config = (s.fdr f).config)
    ∧ (t.active = s.active.other ∧ t.swap = .none ∧ t.swapTimer = none ∨ t.active = s.active ∧ t.swap = .pendingForced)
    ∧ ((∃ i, (s.ctx i).state = .dropping ∨ (s.ctx i).state = .drawing ∧ u.inConflict i = true) →
        t.active = s.active ∧ t.swap = .pendingForced)
    ∧ ∀ i, u.inConflict i = true →
      ((s.ctx i).state = .drawing → (t.ctx i).state = .dropping ∧ (t.ctx i).dropReason = some .reconfig
        ∧ (t.ctx i).dropDeadline = some (s.globals.ordinaryDrop * 100) ∧ (t.ctx i).hold = (s.ctx i).hold
        ∧ (t.ctx i).grantExpiry = none ∧ (t.ctx i).withdraw = some ⟨.reconfig, false⟩)
      ∧ ((s.ctx i).state = .offered → (t.ctx i).state = .tracked ∧ (t.ctx i).hold = none)
      ∧ ((s.ctx i).state = .crossing → (t.ctx i).state = .tracked ∧ (t.ctx i).gap = GapFields.clear
        ∧ (t.ctx i).withdraw = some ⟨.reconfig, true⟩)
      ∧ ((s.ctx i).state = .dropping → (s.ctx i).dropReason = some .gap → (t.ctx i).state = .dropping
        ∧ (t.ctx i).dropReason = some .reconfig ∧ (t.ctx i).gap = GapFields.clear
        ∧ (t.ctx i).dropDeadline = (s.ctx i).dropDeadline ∧ (t.ctx i).withdraw = some ⟨.reconfig, false⟩)
      ∧ ((s.ctx i).state = .dropping → (s.ctx i).dropReason ≠ some .gap → t.ctx i = s.ctx i) := by
  have hev : s.taken.onlyEvents u.reconfigAll.evalSwap := (keeps_onlyEvents _).evalSwap ((keeps_onlyEvents _).reconfigAll hk)
  have ha := State.answered_swap (s := s) (u := u) (t := u.reconfigAll.evalSwap) (c := c)
    ⟨h.bankA.trans s.taken_bankA, h.bankB.trans s.taken_bankB, h.feeders.trans s.taken_feeders⟩ (Onward.refl u).reconfigAll.evalSwap hev
  obtain ⟨h1, h2⟩ := State.forced_swap hf
  have h3 := fun i (hi : u.inConflict i = true) => State.forced_contexts hi
  have hact : u.active = s.active := h.active.trans s.taken_active
  have hg : u.globals = s.globals := h.globals.trans s.taken_globals
  simp only [show ∀ i, u.ctx i = s.ctx i from fun i => (h.ctx i).trans (s.taken_ctx i), hact, hg] at h1 h2 h3
  generalize u.reconfigAll.evalSwap = v at h1 h2 h3 ha
  have hs := SameBody.ack v c
  have ht : (v.ack c).swapTimer = v.swapTimer := State.sendReply_swapTimer _ _
  dsimp only
  simp only [hs.active, hs.swap, ht, hs.ctx]
  exact ⟨ha, h1, h2, h3⟩

end

end Sys2Proof.Machine

open Sys2Proof Sys2Proof.Machine

/-- Settles O38, by the force of the swap and the contexts in conflict. -/
theorem banksAreSwapped : Obligations.BanksAreSwapped := by
  unfold Obligations.BanksAreSwapped
  refine ⟨State.inConflict_iff, fun c s => ?_⟩
  intro refused completed forced answered
  refine ⟨fun force ht hb => ?_, fun ht => ?_, fun ht => ?_⟩
  · rw [exec_bankSwap force ht]
    unfold State.swapUnforced
    rw [if_neg (by rintro rfl; simp at hb), if_neg (by rintro rfl; simp at hb), State.nak_room (State.taken_room ht)]
    rfl
  · intro pending
    have he : exec (.bankSwap c 0) s = .next (s.taken.requestSwap c State.beginSwap) := (exec_bankSwap 0 ht).trans (congrArg _ (if_pos rfl))
    have hq := State.taken_room ht
    obtain ⟨hr1, hr2⟩ := State.swap_refused (s := s) (c := c) hq State.beginSwap
    rw [he]
    refine ⟨⟨fun h => congrArg _ (hr1 h), fun h t n hi => congrArg _ (hr2 h t n hi)⟩, fun hn hi => ?_⟩
    have hb : s.taken.requestSwap c State.beginSwap = pending.evalSwap.ack c :=
      (State.requestSwap_begins (by rwa [State.taken_swap]) (by rwa [State.taken_shadow])).trans (congrArg (State.ack · c) s.taken_beginSwap)
    rw [hb]
    refine ⟨fun hc => ?_, fun hc => ?_⟩
    · rw [State.evalSwap_waits hc, State.ack_room (s := pending) hq]
    · exact ⟨_, rfl, State.begun_completes (.of rfl) (by exact nofun) (State.taken_onlyEvents ht) hc⟩
  · have hq := State.taken_room ht
    obtain ⟨hr1, hr2⟩ := State.swap_refused (s := s) (c := c) hq State.beginForcedSwap
    rw [exec_bankSwapForced ht]
    refine ⟨⟨fun h => congrArg _ (hr1 h), fun h t n hi => congrArg _ (hr2 h t n hi)⟩, fun hn hi => ?_⟩
    have hb : s.taken.requestSwap c State.beginForcedSwap = forced.reconfigAll.evalSwap.ack c :=
      State.requestSwap_begins (by rwa [State.taken_swap]) (by rwa [State.taken_shadow])
    rw [hb]
    exact ⟨_, rfl, State.forced_answered (.of rfl) rfl (State.taken_onlyEvents ht)⟩

end

section
/-! PROOFS. Position reports: what every report stores and wakes, and its copy (R26, R114, R151). -/

namespace Sys2Proof.Machine
open Sys2Proof

/-! ### The wake of an approach (R114) -/

theorem State.adjacent_iff (s : State) (x y : SectionId) : s.adjacent x y = true ↔ (∃ g, (s.gapEntry g).valid = true
      ∧ ((s.gapEntry g).lower = x ∧ (s.gapEntry g).upper = y ∨ (s.gapEntry g).lower = y ∧ (s.gapEntry g).upper = x))
    ∨ (s.entry x).high + 1 = (s.entry y).low ∨ (s.entry y).high + 1 = (s.entry x).low := by
  unfold State.adjacent
  simp [allGaps, or_assoc]

theorem State.wakesAhead_iff (s : State) (h : Heading) (x : SectionId) (n : Nat) (y : SectionId) : s.wakesAhead h x n y = true ↔
    y ≠ x ∧ (s.entry y).valid = true ∧ 0 < (s.entry y).wake ∧ s.adjacent x y = true
    ∧ (h = .up ∧ n < (s.entry y).low ∧ (s.entry y).low - n ≤ (s.entry y).wake
      ∨ h = .down ∧ (s.entry y).high < n ∧ n - (s.entry y).high ≤ (s.entry y).wake) := by
  unfold State.wakesAhead
  cases h <;> simp [and_assoc, and_comm, and_left_comm]

/-- The wake of an approach changes the sections it heads for alone. -/
theorem State.approachWake_eq (s : State) (i : Slot) : s.approachWake i = { s with sections := (s.approachWake i).sections }
    ∧ ∀ y, (s.approachWake i).sec y = if (s.ctx i).state ≠ .faulted ∧ (s.ctx i).state ≠ .free
        ∧ ∃ x, (s.ctx i).pos.resolution = .sect x ∧ s.wakesAhead (s.ctx i).pos.heading x (s.ctx i).pos.chainage y = true
      then s.wakeRec y (s.sec y) else s.sec y := by
  have still : ∀ {p : SectionId → Prop} [∀ y, Decidable (p y)], (∀ y, ¬p y) → ∀ y, s.sec y = if p y then s.wakeRec y (s.sec y) else s.sec y :=
    fun hp y => (if_neg (hp y)).symm
  unfold State.approachWake
  dsimp only
  split
  next h => exact ⟨rfl, still fun y hy => hy.1 h⟩
  next h => exact ⟨rfl, still fun y hy => hy.2.1 h⟩
  next x hx h1 h2 =>
    obtain ⟨hr, hs⟩ := State.foldSections (g := State.wake) (G := State.wakeRec) (fun t x => t.wake_eq x) (fun _ _ _ => rfl)
      (l := allSections.filter (s.wakesAhead (s.ctx i).pos.heading x (s.ctx i).pos.chainage)) ((List.nodup_finRange 64).filter _) s
    refine ⟨hr, fun y => (hs y).trans (if_congr ?_ rfl rfl)⟩
    rw [List.mem_filter, hx]
    constructor
    · exact fun ⟨_, hw⟩ => ⟨h1, h2, x, rfl, hw⟩
    · rintro ⟨-, -, z, hz, hw⟩
      cases hz
      exact ⟨List.mem_finRange y, hw⟩
  next g hx _ _ => exact ⟨rfl, still fun y ⟨_, _, z, hz, _⟩ => by rw [hx] at hz; cases hz⟩
  next hx _ _ => exact ⟨rfl, still fun y ⟨_, _, z, hz, _⟩ => by rw [hx] at hz; cases hz⟩

/-- What a wake makes of a section whose feeder is online, and of any other. -/
theorem State.wakeRec_online {s : State} {y : SectionId} {f : FeederId} (hf : s.feederOf y = some f) (ho : (s.fdr f).state = .online) :
    let fast := (s.entry y).fastRaise = true ∧ ∃ m, (s.meter f).latest = some m ∧ (s.fdr f).config.fastVolts ≤ m.voltage
    ((s.sec y).state = .idle → s.wakeRec y (s.sec y) = (s.sec y).raised .idle .close (some (s.globals.idleRaise * 100)))
    ∧ ((s.sec y).state = .standby → fast → s.wakeRec y (s.sec y) = (s.sec y).raised .standby .closeFast (some (s.globals.idleRaise * 100)))
    ∧ ((s.sec y).state = .standby → ¬fast → s.wakeRec y (s.sec y) = (s.sec y).raised .standby .close (some (s.globals.standbyRaise * 1000))) := by
  intro fast
  have hfast : ((s.entry y).fastRaise && s.fastVoltage f) = true ↔ fast := by
    unfold State.fastVoltage
    cases hm : (s.meter f).latest <;> simp [fast, hm]
  unfold State.wakeRec
  rw [hf]
  dsimp only
  rw [if_pos (by rw [ho]; rfl)]
  refine ⟨fun h => by rw [h]; rfl, fun h hk => ?_, fun h hk => ?_⟩
  · rw [h]
    dsimp only
    rw [if_pos (hfast.2 hk)]
    rfl
  · rw [h]
    dsimp only
    rw [if_neg (fun k => hk (hfast.1 k))]
    rfl

theorem State.wakeRec_still {s : State} {y : SectionId}
    (h : (∀ f, s.feederOf y = some f → (s.fdr f).state ≠ .online) ∨ (s.sec y).state ∉ [.idle, .standby]) : s.wakeRec y (s.sec y) = s.sec y := by
  unfold State.wakeRec
  split
  · rfl
  next f hf =>
    split
    next ho =>
      have hs := h.resolve_left fun h => h f hf (beq_iff_eq.1 ho)
      split
      next hi => rw [hi] at hs; exact absurd (List.mem_cons_self ..) hs
      next hi => rw [hi] at hs; exact absurd (List.mem_cons_of_mem _ (List.mem_cons_self ..)) hs
      all_goals rfl
    next => rfl

/-! ### The end of a report (R114, R151) -/

theorem SameBody.psaFor (s : State) (i : Slot) (p : Report) (r : Resolution) : SameBody s (s.psaFor i p r) := by
  unfold State.psaFor
  dsimp only
  split
  · exact SameBody.offerC (s := s) _
  · exact .of rfl

theorem SameBody.psaWithout (s : State) (b : Byte) (p : Report) (r : Resolution) : SameBody s (s.psaWithout b p r) := by
  unfold State.psaWithout
  split
  · exact SameBody.offerC (s := s) _
  · exact .of rfl

/-- The sections that a report wakes, and its copy. -/
def State.reported (s : State) (i : Slot) (p : Report) (r : Resolution) : State := (s.approachWake i).psaFor i p r

section
variable (s : State) (i : Slot) (p : Report) (r : Resolution)

theorem Onward.reported : Onward s (s.reported i p r) := ((Onward.refl s).approachWake i).psaFor i p r

theorem State.reported_rest : (s.reported i p r).contexts = s.contexts ∧ (s.reported i p r).feeders = s.feeders ∧ (s.reported i p r).loads = s.loads
    ∧ (s.reported i p r).normalQueue = s.normalQueue ∧ (s.reported i p r).latches = s.latches
    ∧ (s.reported i p r).sections = (s.approachWake i).sections := by
  have hb := SameBody.psaFor (s.approachWake i) i p r
  have hq : (s.reported i p r).normalQueue = (s.approachWake i).normalQueue := by
    unfold State.reported State.psaFor
    dsimp only
    split
    · exact State.offerC_normalQueue _ _
    · rfl
  have hl : (s.reported i p r).latches = (s.approachWake i).latches := by
    unfold State.reported State.psaFor
    dsimp only
    split
    · exact State.offerC_latches _ _
    · rfl
  have he := (s.approachWake_eq i).1
  exact ⟨hb.contexts.trans (by rw [he]), hb.feeders.trans (by rw [he]), hb.loads.trans (by rw [he]), hq.trans (by rw [he]), hl.trans (by rw [he]),
    hb.sections⟩

theorem State.reported_ctx (j : Slot) : (s.reported i p r).ctx j = s.ctx j := by
  unfold State.ctx
  rw [(s.reported_rest i p r).1]

theorem SameSlots.reported : SameSlots s (s.reported i p r) := .of_eq (s.reported_rest i p r).1 (s.reported_rest i p r).2.1

theorem State.reported_sec (y : SectionId) : (s.reported i p r).sec y = (s.approachWake i).sec y := by
  unfold State.sec
  rw [(s.reported_rest i p r).2.2.2.2.2]

/-- With no swap pending the effects of a report end with the wake and the copy. -/
theorem State.actOnReport_eq {s : State} (h : s.swap = .none) (i : Slot) (p : Report) (r : Resolution) :
    s.actOnReport i p r = (((s.countOverdraw i).admissionReport i).gapReport i).reported i p r := by
  have ho : Onward s (((s.countOverdraw i).admissionReport i).gapReport i) := (((Onward.refl s).countOverdraw i).admissionReport i).gapReport i
  unfold State.actOnReport
  dsimp only
  generalize ((s.countOverdraw i).admissionReport i).gapReport i = t at ho ⊢
  have hr : t.reconfigReport i = t := if_neg (by rw [(ho.swap_none h).1]; simp)
  rw [hr]
  exact State.evalSwap_onward (Onward.reported t i p r) (ho.swap_none h).1

end

end Sys2Proof.Machine
end

section
/-! PROOFS. Position reports of trucks with and without a context (R23 to R28). -/

namespace Sys2Proof.Machine
open Sys2Proof

/-- The state with the report of a truck's context stored. -/
def State.stored (s : State) (i : Slot) (p : Report) : State := (s.goodW.heard i).settle i p (s.resolve p.chainage)

/-- The context with the report stored. -/
def Context.storing (c : Context) (s : State) (p : Report) : Context :=
  { c with
    pos := { chainage := p.chainage, heading := p.heading, pantograph := p.pantograph, loaded := p.loaded, drawn := p.drawn
             resolution := s.resolve p.chainage, approach := s.approachOf p.heading (s.resolve p.chainage) p.chainage }
    silenceAge := 0, silenceCount := 0, silenceTimer := some (s.globals.silenceTime * 1000) }

section
variable {s : State} {i : Slot} {truck : Byte} {p : Report}

theorem State.stored_rest (s : State) (i : Slot) (p : Report) : ∃ a k v, s.stored i p
    = { s with asmW := a, counters := { s.counters with w := k }, contexts := v } := by
  obtain ⟨a, k, h⟩ := s.goodW_rest
  unfold State.stored
  rw [h]
  exact ⟨a, k, _, rfl⟩

theorem State.stored_ctx (s : State) (i : Slot) (p : Report) : (s.stored i p).ctx i = (s.ctx i).storing s p := by
  have ha : (s.goodW.heard i).approachOf = s.approachOf := by
    obtain ⟨a, k, h⟩ := s.goodW_rest
    unfold State.heard
    rw [h]
    rfl
  unfold State.stored State.settle
  rw [State.modCtx_ctx_self, State.heard_ctx, ha]
  rfl

theorem State.stored_ctx_other {j : Slot} (h : j ≠ i) : (s.stored i p).ctx j = s.ctx j :=
  (State.modCtx_ctx_other _ _ (Ne.symm h)).trans ((State.modCtx_ctx_other _ _ (Ne.symm h)).trans (s.goodW_ctx j))

theorem State.stored_listed {w : Option Place} (h : s.Listed i w) : (s.stored i p).Listed i w :=
  State.Listed.congr (h.heard i) (.modCtx _ _ _)

theorem State.stored_memberOf (s : State) (i : Slot) (p : Report) : (s.stored i p).memberOf i = s.memberOf i := by
  obtain ⟨a, k, v, h⟩ := s.stored_rest i p
  exact State.memberOf_congr (by rw [h])

theorem State.stored_place (s : State) (i : Slot) (p : Report) (r : Resolution) : (s.stored i p).place r = s.place r := by
  obtain ⟨a, k, v, h⟩ := s.stored_rest i p
  rw [h]
  rfl

/-- What a report of a truck with a context comes to (R26, R28). -/
theorem State.dispatchPsn_known (h : s.slotOf truck = some i) : s.goodW.dispatchPsn truck p
    = if leavesRamp p (s.resolve p.chainage) && (s.ctx i).state != .drawing then
        (((s.stored i p).freeCtx i).psaWithout (s.ctx i).address p (s.resolve p.chainage)).evalSwap
      else (s.stored i p).actOnReport i p (s.resolve p.chainage) := by
  have hc : ((s.stored i p).ctx i).state = (s.ctx i).state := by rw [State.stored_ctx]; rfl
  unfold State.dispatchPsn
  rw [State.goodW_slotOf, h]
  dsimp only
  unfold State.takeReport
  dsimp only
  rw [State.goodW_resolve, State.goodW_ctx, ← hc]
  rfl

theorem State.dispatchPsn_stranger (h : s.slotOf truck = none) : s.goodW.dispatchPsn truck p = s.goodW.takeStranger truck p := by
  unfold State.dispatchPsn
  rw [State.goodW_slotOf, h]

theorem leavesRamp_iff (p : Report) (r : Resolution) : leavesRamp p r = true ↔ r = .offMap ∧ p.pantograph = .lowered := by
  unfold leavesRamp
  simp

/-- A report that does not leave the ramp acts, with no swap pending, up to the wake and the copy. -/
theorem State.dispatchPsn_acts (h : s.slotOf truck = some i) (hn : s.swap = .none)
    (hl : ¬(s.resolve p.chainage = .offMap ∧ p.pantograph = .lowered) ∨ (s.ctx i).state = .drawing) :
    s.goodW.dispatchPsn truck p = (((((s.stored i p).countOverdraw i).admissionReport i).gapReport i).reported i p (s.resolve p.chainage)) := by
  have hs : (s.stored i p).swap = .none := by
    obtain ⟨a, k, v, h⟩ := s.stored_rest i p
    rw [h]
    exact hn
  rw [State.dispatchPsn_known h, if_neg, State.actOnReport_eq hs]
  rw [Bool.and_eq_true, leavesRamp_iff]
  rintro ⟨h1, h2⟩
  exact hl.elim (fun hl => hl h1) fun hl => by rw [hl] at h2; cases h2

/-! ### States in which a report changes nothing more -/

theorem State.countOverdraw_still {t : State} (h : (t.ctx i).state ≠ .drawing) : t.countOverdraw i = t := by
  unfold State.countOverdraw
  dsimp only
  split
  next hs _ => exact absurd hs h
  next => rfl

theorem State.report_resting {t : State} (h : (t.ctx i).state = .tracked ∨ (t.ctx i).state = .faulted) :
    ((t.countOverdraw i).admissionReport i).gapReport i = t := by
  have h1 : t.countOverdraw i = t := State.countOverdraw_still (by rcases h with h | h <;> rw [h] <;> decide)
  have h2 : t.admissionReport i = t := by
    unfold State.admissionReport
    rcases h with h | h <;> rw [h]
  rw [h1, h2]
  unfold State.gapReport
  rcases h with h | h <;> rw [h]

/-- The gap sequencer leaves what waits or was refused. -/
theorem State.gapReport_resting {t : State} (h : (t.ctx i).state = .tracked ∨ (t.ctx i).state = .queued ∨ (t.ctx i).state = .offered
    ∨ (t.ctx i).state = .faulted) : t.gapReport i = t := by
  unfold State.gapReport
  rcases h with h | h | h | h <;> rw [h]

/-! ### Allocation (R23, R24) -/

theorem State.allocate_ctx (t : State) (i : Slot) (truck : Byte) : (t.allocate i truck).ctx i
    = { Context.newcomer truck (t.resolveClass truck) with
        silenceAge := 0, silenceCount := 0, silenceTimer := some (t.globals.silenceTime * 1000) } := by
  have hg : ∀ c, ((t.freeQuiet i).setCtx i c).globals = t.globals := fun c => by
    rw [State.setCtx_globals, (HoldersOnly.freeQuiet t i).rest]
  unfold State.allocate State.heard
  rw [State.modCtx_ctx_self, hg, State.setCtx_ctx, if_pos rfl]
  rfl

/-- A new context with its first report stored. -/
theorem State.newcomer_ctx (t : State) (i : Slot) (truck : Byte) (p : Report) (r : Resolution) : ((t.allocate i truck).settle i p r).ctx i
    = { Context.newcomer truck (t.resolveClass truck) with
        pos := { chainage := p.chainage, heading := p.heading, pantograph := p.pantograph, loaded := p.loaded, drawn := p.drawn
                 resolution := r, approach := (t.allocate i truck).approachOf p.heading r p.chainage }
        silenceAge := 0, silenceCount := 0, silenceTimer := some (t.globals.silenceTime * 1000) } := by
  unfold State.settle
  rw [State.modCtx_ctx_self, State.allocate_ctx]

theorem State.inConflict_tracked {t : State} (h : (t.ctx i).state = .tracked) : t.inConflict i = false := by
  unfold State.inConflict
  rw [h]

/-- A report of a TRACKED context, whether a swap is pending or not. -/
theorem State.actOnReport_tracked {t : State} (h : (t.ctx i).state = .tracked) (p : Report) (r : Resolution) :
    t.actOnReport i p r = (t.reported i p r).evalSwap := by
  have hr : t.reconfigReport i = t := if_neg (by rw [State.inConflict_tracked h]; simp)
  unfold State.actOnReport
  dsimp only
  rw [State.report_resting (.inl h), hr]
  rfl

end

end Sys2Proof.Machine
end

section
/-! PROOFS. Reports in QUEUED and OFFERED (R49, R55). -/

namespace Sys2Proof.Machine
open Sys2Proof

theorem Awaits.moveEntry {s : State} {i : Slot} {f : FeederId} {l : Level} {e : Entry} (h : s.Listed i (some (f, l, e))) (hs : e.slot = i)
    (hq : (s.ctx i).state = .queued) (x : SectionId) : Awaits i f l x e.mark (s.ctx i) (s.moveEntry i x) := by
  subst hs
  exact .inl ⟨State.moveEntry_ctx _ _ _ _, hq, h.moveEntry x⟩

/-! ### The DFR that ends a re-homing (R47) -/

/-- A DFR sent to a queued context stands last, where the queue keeps it. -/
theorem State.deferIfQueued_last {s : State} {i : Slot} {truck : Byte} (ht : (s.ctx i).truck = some truck) (tag : Byte) {m : Membership}
    (hm : (s.deferIfQueued i tag).memberOf i = some m) (hq : ((s.deferIfQueued i tag).ctx i).state = .queued)
    (hl : (s.deferIfQueued i tag).normalQueue.length < 32) :
    (s.deferIfQueued i tag).normalQueue.getLast? = some ⟨0x21, truck, 0, tag, [byte m.feeder.val, byte m.level.code, byte (min 255 m.position)]⟩ := by
  have hf : (s.deferIfQueued i tag).feeders = s.feeders := by
    unfold State.deferIfQueued State.sendDfr
    split
    · split
      · rfl
      · exact State.sendNormal_feeders _ _
    · rfl
  rw [State.memberOf_congr hf] at hm
  rw [State.deferIfQueued_ctx] at hq
  have he : s.deferIfQueued i tag = s.sendNormal ⟨0x21, truck, 0, tag, [byte m.feeder.val, byte m.level.code, byte (min 255 m.position)]⟩ := by
    unfold State.deferIfQueued
    rw [if_pos (by rw [hq]; rfl)]
    unfold State.sendDfr
    rw [hm]
    unfold Context.address
    rw [ht]
    rfl
  rw [he] at hl ⊢
  unfold State.sendNormal at hl ⊢
  split at hl
  next hr =>
    rw [if_pos hr]
    exact List.getLast?_concat
  next hr => exact absurd hl hr

section
variable {v : State} {i : Slot}

/-! ### Reports in QUEUED (R49) -/

section
variable {m : Membership} (hm : v.memberOf i = some m)
include hm

theorem State.reportQueued_here (hr : (v.ctx i).pos.resolution = .sect m.entry.sect) : v.reportQueued i = v := by
  unfold State.reportQueued
  rw [hm]
  exact if_pos (by rw [hr]; exact beq_self_eq_true _)

section
variable (hr : (v.ctx i).pos.resolution ≠ .sect m.entry.sect)
include hr

theorem State.reportQueued_refused {q : Refuse} (hp : v.place (v.ctx i).pos.resolution = .refused q) :
    v.reportQueued i = ((v.giveUp i .tracked).refuse i q).arbitrateOn (v.rehomeTouches i) := by
  unfold State.reportQueued
  rw [hm]
  dsimp only
  rw [if_neg (by simpa using hr), if_neg (by unfold State.rehomeMoves; rw [hm, hp]; exact nofun)]
  unfold State.rehome
  rw [hm]
  dsimp only
  rw [hp]

theorem State.reportQueued_stays {x : SectionId} (hp : v.place (v.ctx i).pos.resolution = .placed x m.feeder) :
    v.reportQueued i = ((v.moveEntry i x).wake x).arbitrateOn (v.rehomeTouches i) := by
  unfold State.reportQueued
  rw [hm]
  dsimp only
  rw [if_neg (by simpa using hr), if_neg (by unfold State.rehomeMoves; rw [hm, hp]; simp)]
  unfold State.rehome
  rw [hm]
  dsimp only
  rw [hp]
  dsimp only
  rw [if_pos (beq_self_eq_true _)]

theorem State.reportQueued_moves {x : SectionId} {f : FeederId} (hp : v.place (v.ctx i).pos.resolution = .placed x f) (hf : f ≠ m.feeder) :
    v.reportQueued i
      = (((v.queueAt i f m.level x .ordinary).wake x).arbitrateOn (v.rehomeTouches i)).deferIfQueued i (v.ctx i).tagByte := by
  unfold State.reportQueued
  rw [hm]
  dsimp only
  rw [if_neg (by simpa using hr), if_pos (by unfold State.rehomeMoves; rw [hm, hp]; simpa using hf)]
  unfold State.rehome
  rw [hm]
  dsimp only
  rw [hp]
  dsimp only
  rw [if_neg (by simpa using hf)]

end
end

/-! ### Reports in OFFERED (R55) -/

section
variable {h : Holding} (hh : (v.ctx i).hold = some h)
include hh

theorem State.reportOffered_here (hr : (v.ctx i).pos.resolution = .sect h.sect) : v.reportOffered i = v := by
  unfold State.reportOffered
  rw [hh]
  exact if_pos (by rw [hr]; exact beq_self_eq_true _)

section
variable (hr : (v.ctx i).pos.resolution ≠ .sect h.sect)
include hr

theorem State.reportOffered_refused {q : Refuse} (hp : v.place (v.ctx i).pos.resolution = .refused q) :
    v.reportOffered i = ((v.giveUp i .tracked).refuse i q).arbitrate h.feeder := by
  have hp : (v.giveUp i .tracked).place ((v.giveUp i .tracked).ctx i).pos.resolution = .refused q := by
    rw [State.giveUp_place, State.giveUp_self]
    exact hp
  unfold State.reportOffered
  rw [hh]
  dsimp only
  rw [if_neg (by simpa using hr), hp]

theorem State.reportOffered_moves {x : SectionId} {f : FeederId} (hp : v.place (v.ctx i).pos.resolution = .placed x f) :
    v.reportOffered i = ((((v.giveUp i .tracked).queueAt i f (v.ctx i).req.level x .carryOver).wake x).arbitrateOn
      (fun g => g == h.feeder || g == f)).deferIfQueued i (v.ctx i).tagByte := by
  have hc := State.giveUp_self v i .tracked
  have hp : (v.giveUp i .tracked).place ((v.giveUp i .tracked).ctx i).pos.resolution = .placed x f := by
    rw [State.giveUp_place, hc]
    exact hp
  have ht : ((((v.giveUp i .tracked).queueAt i f (v.ctx i).req.level x .carryOver).wake x).ctx i).tagByte = (v.ctx i).tagByte := by
    rw [State.wake_ctx, State.queueAt_ctx, if_pos rfl, hc]
    rfl
  unfold State.reportOffered
  rw [hh]
  dsimp only
  rw [if_neg (by simpa using hr), hp]
  dsimp only
  rw [← ht, hc]
  rfl

end
end

/-- What is refused by a report holds nothing and waits nowhere, and was told so. -/
theorem State.refused_ctx (w : FeederId → Bool) (q : Refuse) :
    (((v.giveUp i .tracked).refuse i q).arbitrateOn w).ctx i = (v.ctx i).left .tracked := by
  have hc : ((v.giveUp i .tracked).refuse i q).ctx i = (v.ctx i).left .tracked := by rw [State.refuse_ctx, State.giveUp_self]
  rw [State.arbitrateOn_ctx (by rw [hc]; exact nofun) (by rw [hc]; exact nofun), hc]

end

end Sys2Proof.Machine
end

section
/-! PROOFS. Position reports of trucks without a context (R23, R24). -/

namespace Sys2Proof.Machine
open Sys2Proof

section
variable {s t : State}

theorem Onward.resolveClass (h : Onward s t) (truck : Byte) : t.resolveClass truck = s.resolveClass truck := by
  rw [h.rest]
  rfl

theorem Onward.approachOf (h : Onward s t) (hn : s.swap = .none) : t.approachOf = s.approachOf := by
  rw [h.rest, (h.swap_none hn).2.2]
  rfl

/-! ### A report that allocates nothing -/

/-- With the swap settled, a copy is all that a truck leaving the ramp causes. -/
theorem State.psaWithout_settled (h : s.swapSettled) (b : Byte) (p : Report) (r : Resolution) : (s.psaWithout b p r).evalSwap = s.psaWithout b p r := by
  have k := SameBody.psaWithout s b p r
  exact State.evalSwap_settled (State.swapSettled_same h k.swap k.active k.bankA k.bankB k.contexts)

theorem State.psaWithout_normalQueue (s : State) (b : Byte) (p : Report) (r : Resolution) : (s.psaWithout b p r).normalQueue = s.normalQueue := by
  unfold State.psaWithout
  split
  · exact State.offerC_normalQueue _ _
  · rfl

theorem State.psaWithout_latches (s : State) (b : Byte) (p : Report) (r : Resolution) : (s.psaWithout b p r).latches = s.latches := by
  unfold State.psaWithout
  split
  · exact State.offerC_latches _ _
  · rfl

theorem State.goodW_settled (h : s.swapSettled) : s.goodW.swapSettled := by
  obtain ⟨a, k, e⟩ := s.goodW_rest
  rw [e]
  exact State.swapSettled_same h rfl rfl rfl rfl rfl

theorem State.takeStranger_leaving {truck : Byte} {p : Report} (h : s.resolve p.chainage = .offMap ∧ p.pantograph = .lowered) :
    s.takeStranger truck p = (s.psaWithout truck p .offMap).evalSwap := by
  have hl : leavesRamp p (s.resolve p.chainage) = true := (leavesRamp_iff _ _).2 h
  unfold State.takeStranger
  dsimp only
  rw [if_pos hl, h.1]

section
variable {truck : Byte} {p : Report} (hl : ¬(s.resolve p.chainage = .offMap ∧ p.pantograph = .lowered))
include hl

theorem State.takeStranger_full (h1 : s.freeSlot = none) (h2 : s.evictee = none) :
    s.takeStranger truck p = s.refuseTableFull truck p (s.resolve p.chainage) := by
  unfold State.takeStranger
  dsimp only
  rw [if_neg fun h => hl ((leavesRamp_iff _ _).1 h), h1, h2]

theorem State.takeStranger_admits {i : Slot} (h : (s.freeSlot.or s.evictee) = some i) :
    ∃ u, (u = s ∨ u = s.freeCtx i) ∧ s.takeStranger truck p = u.admitTruck i truck p (s.resolve p.chainage) := by
  unfold State.takeStranger
  dsimp only
  rw [if_neg fun h => hl ((leavesRamp_iff _ _).1 h)]
  cases hf : s.freeSlot with
  | some j => rw [hf] at h; cases h; exact ⟨_, .inl rfl, rfl⟩
  | none =>
    rw [hf] at h
    have he : s.evictee = some i := h
    rw [he]
    exact ⟨_, .inr rfl, rfl⟩

end

/-- A full table: the refusal and its event, and nothing else. -/
theorem State.refuseTableFull_rest (h : s.swapSettled) (truck : Byte) (p : Report) (r : Resolution) :
    (s.refuseTableFull truck p r).contexts = s.contexts ∧ (s.refuseTableFull truck p r).latches.getLsbD 3 = true
    ∧ (s.normalQueue.length < 32 → (s.refuseTableFull truck p r).normalQueue = s.normalQueue ++ [⟨0x24, truck, 0, p.tag, [1]⟩]) := by
  let v : State := (s.refuseTruck truck p.tag .tableFull).report .tableFull truck.toNat 0
  have hv : v.swapSettled := State.swapSettled_same h (by simp [v, State.refuseTruck]) (by simp [v, State.refuseTruck])
    (by simp [v, State.refuseTruck]) (by simp [v, State.refuseTruck]) (by simp [v, State.refuseTruck])
  have e : s.refuseTableFull truck p r = v.psaWithout truck p r := State.psaWithout_settled hv truck p r
  rw [e, State.psaWithout_normalQueue, State.psaWithout_latches]
  refine ⟨(SameBody.psaWithout v truck p r).contexts.trans (by simp [v, State.refuseTruck]), State.report_latch _ .tableFull _ _, fun hq => ?_⟩
  have hn : v.normalQueue = (s.sendNormal (rfsFrame truck p.tag .tableFull)).normalQueue := by simp [v, State.refuseTruck]
  rw [hn]
  unfold State.sendNormal
  rw [if_pos hq]
  rfl

/-! ### A report that allocates -/

theorem Onward.allocate (s : State) (i : Slot) (truck : Byte) : Onward s (s.allocate i truck) :=
  (((Onward.refl s).freeQuiet i).setCtx i _).heard i

/-- The context of a truck newly admitted, its swap evaluated. -/
theorem State.admitTruck_ctx (s : State) (i : Slot) (truck : Byte) (p : Report) (r : Resolution) :
    ∃ q, (s.admitTruck i truck p r).ctx i = { Context.newcomer truck (s.resolveClass truck) with
        pos := q, silenceAge := 0, silenceCount := 0, silenceTimer := some (s.globals.silenceTime * 1000) }
      ∧ (s.swap = .none → q = { chainage := p.chainage, heading := p.heading, pantograph := p.pantograph, loaded := p.loaded, drawn := p.drawn
                                resolution := r, approach := s.approachOf p.heading r p.chainage }) := by
  have hc := s.newcomer_ctx i truck p r
  have hon : Onward s ((s.allocate i truck).settle i p r) := (Onward.allocate s i truck).settle i p r
  have ha : s.swap = .none → (s.allocate i truck).approachOf = s.approachOf := (Onward.allocate s i truck).approachOf
  have ht : (((s.allocate i truck).settle i p r).ctx i).state = .tracked := by rw [hc]; rfl
  unfold State.admitTruck
  rw [State.actOnReport_tracked ht]
  have hr := State.reported_ctx ((s.allocate i truck).settle i p r) i p r i
  obtain ⟨q, hq⟩ := State.evalSwap_resettled (hr.trans hc) nofun
  refine ⟨_, hq, fun hn => ?_⟩
  rw [State.evalSwap_onward (hon.trans (Onward.reported _ i p r)) hn, hr, hc, ha hn] at hq
  exact (congrArg Context.pos hq).symm

end

end Sys2Proof.Machine
end

section
/-! PROOFS. Position reports of trucks with a context (R26, R28, R114, R151). -/

namespace Sys2Proof.Machine
open Sys2Proof

section
variable {s : State} {i : Slot} {truck : Byte} {p : Report}

/-- A truck that leaves the ramp leaves its slot free. -/
theorem State.dispatchPsn_leaves_ctx (h : s.slotOf truck = some i) (hl : s.resolve p.chainage = .offMap ∧ p.pantograph = .lowered)
    (hd : (s.ctx i).state ≠ .drawing) : (s.goodW.dispatchPsn truck p).ctx i = Context.freed := by
  rw [State.dispatchPsn_known h, if_pos (by rw [Bool.and_eq_true, leavesRamp_iff]; exact ⟨hl, by simpa using hd⟩)]
  have e : ((s.stored i p).freeQuiet i).ctx i = Context.freed := by rw [State.freeQuiet_ctx, if_pos rfl]
  have hf : ((s.stored i p).freeCtx i).ctx i = Context.freed :=
    (State.arbitrateOn_ctx (by rw [e]; exact nofun) (by rw [e]; exact nofun) _).trans e
  generalize (s.stored i p).freeCtx i = v at hf
  have hv := (SameBody.psaWithout v (s.ctx i).address p (s.resolve p.chainage)).ctx i
  generalize v.psaWithout (s.ctx i).address p (s.resolve p.chainage) = w at hv
  have hw : w.ctx i = Context.freed := hv.trans hf
  have hr := State.evalSwap_ctx (s := w) (i := i) (by rw [hw]; exact nofun)
  rw [hw] at hr
  exact hr.1 rfl

/-- The section that a report stands in has another raised ahead of it. -/
def State.headsFor (s : State) (p : Report) (y : SectionId) : Prop :=
  ∃ x, s.resolve p.chainage = .sect x ∧ s.wakesAhead p.heading x p.chainage y = true

theorem State.reported_stored_sec (s : State) (i : Slot) (p : Report) (r : Resolution) (y : SectionId) :
    ((s.ctx i).state = .tracked → s.headsFor p y → ((s.stored i p).reported i p r).sec y = s.wakeRec y (s.sec y))
    ∧ ((s.ctx i).state = .faulted ∨ ¬s.headsFor p y → ((s.stored i p).reported i p r).sec y = s.sec y) := by
  have hc := s.stored_ctx i p
  have he : (s.stored i p).wakesAhead = s.wakesAhead ∧ (s.stored i p).wakeRec y = s.wakeRec y ∧ (s.stored i p).sec y = s.sec y := by
    obtain ⟨a, k, v, h⟩ := s.stored_rest i p
    rw [h]
    exact ⟨rfl, rfl, rfl⟩
  rw [State.reported_sec, (State.approachWake_eq _ i).2 y, hc, he.1, he.2.1, he.2.2]
  refine ⟨fun ht hy => if_pos ⟨?_, ?_, hy⟩, fun h => if_neg fun ⟨h1, _, h3⟩ => h.elim h1 fun h => h h3⟩
  · exact fun e => CtxState.noConfusion (ht.symm.trans e)
  · exact fun e => CtxState.noConfusion (ht.symm.trans e)

/-- The copy of a report of a context that draws nothing. -/
theorem State.reported_frames {v : State} (hp : v.globals.psaForward = 1) (hq : v.cQueue.length ≤ 28)
    (hs : (v.ctx i).state = .tracked ∨ (v.ctx i).state = .faulted) (p : Report) (r : Resolution) :
    (v.reported i p r).cQueue = v.cQueue ++ [⟨0x81, 0, v.cAddress, p.tag,
      [(v.ctx i).address] ++ nat16 p.chainage ++ [byte (headingCode p.heading), byte (pantographCode p.pantograph), flagByte p.loaded]
        ++ nat16 p.drawn ++ r.bytes ++ [byte i.val, byte (v.ctx i).state.code, 0, 0]⟩] := by
  have hg : (v.ctx i).granted = 0 := by
    unfold Context.granted
    rcases hs with hs | hs <;> rw [hs] <;> rfl
  unfold State.reported
  rw [(v.approachWake_eq i).1]
  unfold State.psaFor
  dsimp only
  rw [if_pos (beq_iff_eq.2 hp)]
  unfold State.offerC
  rw [if_pos hq]
  refine congrArg (fun a => v.cQueue ++ [a]) ?_
  unfold State.psaFrame
  rw [show ({ v with sections := (v.approachWake i).sections } : State).ctx i = v.ctx i from rfl, hg, show nat16 0 = [0, 0] by decide,
    List.append_assoc _ [_, _] [_, _]]
  rfl

end

end Sys2Proof.Machine
end

section
/-! PROOFS. Position reports in QUEUED and OFFERED (R26, R49, R55). -/

namespace Sys2Proof.Machine
open Sys2Proof

section
variable {s : State} {i : Slot} {truck : Byte} {p : Report}

/-- A report of a truck that waits or has an offer does what the admission engine makes of it, then the wake and the copy. -/
theorem State.dispatchPsn_waiting (h : s.slotOf truck = some i) (hn : s.swap = .none)
    (hl : ¬(s.resolve p.chainage = .offMap ∧ p.pantograph = .lowered)) (hs : (s.ctx i).state = .queued ∨ (s.ctx i).state = .offered)
    {u : State} (hu : (s.stored i p).admissionReport i = u)
    (hr : (u.ctx i).state = .tracked ∨ (u.ctx i).state = .queued ∨ (u.ctx i).state = .offered) :
    s.goodW.dispatchPsn truck p = u.reported i p (s.resolve p.chainage) := by
  have hc : ((s.stored i p).ctx i).state = (s.ctx i).state := by rw [State.stored_ctx]; rfl
  have hd : (s.stored i p).countOverdraw i = s.stored i p :=
    State.countOverdraw_still (by rw [hc]; rcases hs with hs | hs <;> rw [hs] <;> decide)
  rw [State.dispatchPsn_acts h hn (.inl hl), hd, hu,
    State.gapReport_resting (hr.imp id fun h => h.imp id .inl)]

theorem State.admissionReport_queued {v : State} (h : (v.ctx i).state = .queued) : v.admissionReport i = v.reportQueued i := by
  unfold State.admissionReport
  rw [h]

theorem State.admissionReport_offered {v : State} (h : (v.ctx i).state = .offered) : v.admissionReport i = v.reportOffered i := by
  unfold State.admissionReport
  rw [h]

theorem State.stored_normalQueue (s : State) (i : Slot) (p : Report) : (s.stored i p).normalQueue = s.normalQueue := by
  obtain ⟨a, k, v, h⟩ := s.stored_rest i p
  rw [h]

theorem State.stored_feeders (s : State) (i : Slot) (p : Report) : (s.stored i p).feeders = s.feeders := by
  obtain ⟨a, k, v, h⟩ := s.stored_rest i p
  rw [h]

/-- The context that a refused report leaves, and what its truck is told. -/
theorem State.reported_refused (h : s.slotOf truck = some i) {q : Refuse} {u : State} (hu : u.ctx i = ((s.stored i p).ctx i).left .tracked)
    (ho : Onward (((s.stored i p).giveUp i .tracked).refuse i q) u) (r : Resolution) :
    ((u.reported i p r).ctx i).state = .tracked ∧ ((u.reported i p r).ctx i).hold = none
    ∧ (s.normalQueue.length < 32 → (u.reported i p r).normalQueue[s.normalQueue.length]?
        = some ⟨0x24, truck, 0, (s.ctx i).req.tag.getD 0, [byte q.code]⟩) := by
  have hc := (u.reported_ctx i p r i).trans hu
  have ht := State.told_of_giveUp (ho.trans (Onward.reported u i p r))
  rw [State.stored_normalQueue, State.stored_ctx] at ht
  rw [hc]
  refine ⟨rfl, rfl, fun hq => (ht hq).trans ?_⟩
  rw [show ((s.ctx i).storing s p).truck = some truck from (State.slotOf_spec h).2]
  rfl

/-- What waits after a report waits when the report has ended. -/
theorem Awaits.reported {f : FeederId} {l : Level} {x : SectionId} {k : Mark} {c : Context} {u : State} (h : Awaits i f l x k c u) (r : Resolution) :
    Awaits i f l x k c (u.reported i p r) := h.of_slot (.of_same (.reported u i p r))

/-- The DFR of a report that takes its entry to another list stands last when the report has ended. -/
theorem State.reported_deferred {u : State} {f : FeederId} {l : Level} {x : SectionId} {k : Mark} {c : Context} (hw : Awaits i f l x k c u)
    (ht : c.truck = some truck) (tag : Byte) (r : Resolution) {m : Membership} (hm : ((u.deferIfQueued i tag).reported i p r).memberOf i = some m)
    (hq : (((u.deferIfQueued i tag).reported i p r).ctx i).state = .queued)
    (hl : ((u.deferIfQueued i tag).reported i p r).normalQueue.length < 32) :
    ((u.deferIfQueued i tag).reported i p r).normalQueue.getLast?
      = some ⟨0x21, truck, 0, tag, [byte m.feeder.val, byte m.level.code, byte (min 255 m.position)]⟩ := by
  obtain ⟨-, hf, -, hn, -⟩ := (u.deferIfQueued i tag).reported_rest i p r
  rw [State.memberOf_congr hf] at hm
  rw [State.reported_ctx] at hq
  rw [hn] at hl ⊢
  have hu : (u.ctx i).truck = some truck := by
    rw [State.deferIfQueued_ctx] at hq
    rcases hw with ⟨h1, -⟩ | ⟨h1, -⟩
    · rw [h1]; exact ht
    · rw [h1] at hq; cases hq
  exact State.deferIfQueued_last hu tag hm hq hl

/-! ### In QUEUED (R49) -/

section
variable (h : s.slotOf truck = some i) (hn : s.swap = .none) (hl : ¬(s.resolve p.chainage = .offMap ∧ p.pantograph = .lowered))
include h hn hl

/-- A report in the place of the wait or offer is stored, and nothing else. -/
theorem State.dispatchPsn_here (hs : (s.ctx i).state = .queued ∨ (s.ctx i).state = .offered) (hv : (s.stored i p).admissionReport i = s.stored i p) :
    (s.goodW.dispatchPsn truck p).ctx i = (s.ctx i).storing s p ∧ (s.goodW.dispatchPsn truck p).feeders = s.feeders
    ∧ (s.goodW.dispatchPsn truck p).normalQueue = s.normalQueue := by
  have hc := s.stored_ctx i p
  have hst : ((s.stored i p).ctx i).state = .tracked ∨ ((s.stored i p).ctx i).state = .queued ∨ ((s.stored i p).ctx i).state = .offered := by
    rw [hc]
    exact .inr hs
  rw [State.dispatchPsn_waiting h hn hl hs hv hst, State.reported_ctx]
  obtain ⟨-, hf, -, hq, -⟩ := (s.stored i p).reported_rest i p (s.resolve p.chainage)
  exact ⟨hc, hf.trans (s.stored_feeders i p), hq.trans (s.stored_normalQueue i p)⟩

section
variable (hs : (s.ctx i).state = .queued) {m : Membership} (hm : s.memberOf i = some m)
include hs hm

theorem State.psnQueued_here (hr : s.resolve p.chainage = .sect m.entry.sect) :
    (s.goodW.dispatchPsn truck p).ctx i = (s.ctx i).storing s p ∧ (s.goodW.dispatchPsn truck p).feeders = s.feeders
    ∧ (s.goodW.dispatchPsn truck p).normalQueue = s.normalQueue := by
  have hc := s.stored_ctx i p
  refine State.dispatchPsn_here h hn hl (.inl hs) ?_
  rw [State.admissionReport_queued (by rw [hc]; exact hs)]
  exact State.reportQueued_here ((s.stored_memberOf i p).trans hm) (by rw [hc]; exact hr)

section
variable (hr : s.resolve p.chainage ≠ .sect m.entry.sect)
include hr

theorem State.psnQueued_refused {q : Refuse} (hp : s.place (s.resolve p.chainage) = .refused q) :
    ((s.goodW.dispatchPsn truck p).ctx i).state = .tracked ∧ ((s.goodW.dispatchPsn truck p).ctx i).hold = none
    ∧ (s.normalQueue.length < 32 → (s.goodW.dispatchPsn truck p).normalQueue[s.normalQueue.length]?
        = some ⟨0x24, truck, 0, (s.ctx i).req.tag.getD 0, [byte q.code]⟩) := by
  have hc := s.stored_ctx i p
  have hu := State.reportQueued_refused (v := s.stored i p) ((s.stored_memberOf i p).trans hm) (by rw [hc]; exact hr) (q := q)
    (by rw [State.stored_place, hc]; exact hp)
  have hcu := State.refused_ctx (v := s.stored i p) (i := i) ((s.stored i p).rehomeTouches i) q
  rw [← hu] at hcu
  rw [State.dispatchPsn_waiting h hn hl (.inl hs) (State.admissionReport_queued (by rw [hc]; exact hs)) (.inl (by rw [hcu]; rfl))]
  exact State.reported_refused h hcu (by rw [hu]; exact (Onward.refl _).arbitrateOn _) _

variable (hf : s.contextFits i)
include hf

theorem State.psnQueued_stays {y : SectionId} (hp : s.place (s.resolve p.chainage) = .placed y m.feeder) :
    Awaits i m.feeder m.level y m.entry.mark ((s.ctx i).storing s p) (s.goodW.dispatchPsn truck p) := by
  have hc := s.stored_ctx i p
  obtain ⟨w, hw⟩ := hf.place
  obtain rfl := hw.of_memberOf hm
  have hu := State.reportQueued_stays (v := s.stored i p) ((s.stored_memberOf i p).trans hm) (by rw [hc]; exact hr) (x := y)
    (by rw [State.stored_place, hc]; exact hp)
  have ha : Awaits i m.feeder m.level y m.entry.mark ((s.ctx i).storing s p) ((s.stored i p).reportQueued i) := by
    rw [hu, ← hc]
    exact ((Awaits.moveEntry (State.stored_listed hw) (hw.mem_iff.2 rfl).2 (by rw [hc]; exact hs) y).wake y).arbitrateOn _
  rw [State.dispatchPsn_waiting h hn hl (.inl hs) (State.admissionReport_queued (by rw [hc]; exact hs)) (.inr ha.state)]
  exact ha.reported _

theorem State.psnQueued_moves {y : SectionId} {f : FeederId} (hp : s.place (s.resolve p.chainage) = .placed y f) (hne : f ≠ m.feeder) :
    ∃ u, Awaits i f m.level y .ordinary (((s.ctx i).storing s p).settled .queued) u
      ∧ s.goodW.dispatchPsn truck p = (u.deferIfQueued i ((s.ctx i).req.tag.getD 0)).reported i p (s.resolve p.chainage) := by
  have hc := s.stored_ctx i p
  obtain ⟨w, hw⟩ := hf.place
  have hu := State.reportQueued_moves (v := s.stored i p) ((s.stored_memberOf i p).trans hm) (by rw [hc]; exact hr) (x := y)
    (by rw [State.stored_place, hc]; exact hp) hne
  have ha := ((Awaits.queueAt (State.stored_listed (p := p) hw) f m.level y .ordinary).wake y).arbitrateOn ((s.stored i p).rehomeTouches i)
  rw [hc] at ha hu
  refine ⟨_, ha, ?_⟩
  exact State.dispatchPsn_waiting h hn hl (.inl hs) ((State.admissionReport_queued (by rw [hc]; exact hs)).trans hu) (.inr (ha.deferIfQueued i _).state)

end
end

/-! ### In OFFERED (R55) -/

section
variable (hs : (s.ctx i).state = .offered) {k : Holding} (hk : (s.ctx i).hold = some k)
include hs hk

theorem State.psnOffered_here (hr : s.resolve p.chainage = .sect k.sect) :
    (s.goodW.dispatchPsn truck p).ctx i = (s.ctx i).storing s p ∧ (s.goodW.dispatchPsn truck p).feeders = s.feeders
    ∧ (s.goodW.dispatchPsn truck p).normalQueue = s.normalQueue := by
  have hc := s.stored_ctx i p
  refine State.dispatchPsn_here h hn hl (.inr hs) ?_
  rw [State.admissionReport_offered (by rw [hc]; exact hs)]
  exact State.reportOffered_here (by rw [hc]; exact hk) (by rw [hc]; exact hr)

variable (hr : s.resolve p.chainage ≠ .sect k.sect)
include hr

theorem State.psnOffered_refused {q : Refuse} (hp : s.place (s.resolve p.chainage) = .refused q) :
    ((s.goodW.dispatchPsn truck p).ctx i).state = .tracked ∧ ((s.goodW.dispatchPsn truck p).ctx i).hold = none
    ∧ (s.normalQueue.length < 32 → (s.goodW.dispatchPsn truck p).normalQueue[s.normalQueue.length]?
        = some ⟨0x24, truck, 0, (s.ctx i).req.tag.getD 0, [byte q.code]⟩) := by
  have hc := s.stored_ctx i p
  have hu := State.reportOffered_refused (v := s.stored i p) (by rw [hc]; exact hk) (by rw [hc]; exact hr) (q := q)
    (by rw [State.stored_place, hc]; exact hp)
  have hg : (((s.stored i p).giveUp i .tracked).refuse i q).ctx i = ((s.stored i p).ctx i).left .tracked := by
    rw [State.refuse_ctx, State.giveUp_self]
  have hcu : ((s.stored i p).reportOffered i).ctx i = ((s.stored i p).ctx i).left .tracked := by
    rw [hu, State.arbitrate_ctx (by rw [hg]; exact nofun) (by rw [hg]; exact nofun), hg]
  rw [State.dispatchPsn_waiting h hn hl (.inr hs) (State.admissionReport_offered (by rw [hc]; exact hs)) (.inl (by rw [hcu]; rfl))]
  exact State.reported_refused h hcu (by rw [hu]; exact (Onward.refl _).arbitrate _) _

theorem State.psnOffered_moves (hf : s.contextFits i) {y : SectionId} {f : FeederId} (hp : s.place (s.resolve p.chainage) = .placed y f) :
    ∃ u, Awaits i f (s.ctx i).req.level y .carryOver ((((s.ctx i).storing s p).left .tracked).settled .queued) u
      ∧ s.goodW.dispatchPsn truck p = (u.deferIfQueued i ((s.ctx i).req.tag.getD 0)).reported i p (s.resolve p.chainage) := by
  have hc := s.stored_ctx i p
  obtain ⟨w, hw⟩ := hf.place
  have hu := State.reportOffered_moves (v := s.stored i p) (by rw [hc]; exact hk) (by rw [hc]; exact hr) (x := y)
    (by rw [State.stored_place, hc]; exact hp)
  have ha := ((Awaits.queueAt ((State.stored_listed (p := p) hw).giveUp .tracked) f (s.ctx i).req.level y .carryOver).wake y).arbitrateOn
    (fun g => g == k.feeder || g == f)
  rw [State.giveUp_self, hc] at ha
  rw [hc] at hu
  refine ⟨_, ha, ?_⟩
  exact State.dispatchPsn_waiting h hn hl (.inr hs) ((State.admissionReport_offered (by rw [hc]; exact hs)).trans hu) (.inr (ha.deferIfQueued i _).state)

end
end

end

end Sys2Proof.Machine
end

section
/-! PROOFS. What position reports allocate, free, wake and move. -/

namespace Sys2Proof.Machine
open Sys2Proof

section
variable {s : State} {i : Slot} {truck : Byte} {p : Report}

/-- A report of a truck that is TRACKED or FAULTED is stored, raises what a TRACKED truck heads for, and is copied. -/
theorem State.dispatchPsn_rests (h : s.slotOf truck = some i) (hn : s.swap = .none)
    (hl : ¬(s.resolve p.chainage = .offMap ∧ p.pantograph = .lowered)) (hs : (s.ctx i).state = .tracked ∨ (s.ctx i).state = .faulted) :
    s.goodW.dispatchPsn truck p = (s.stored i p).reported i p (s.resolve p.chainage) := by
  have hc : ((s.stored i p).ctx i).state = (s.ctx i).state := by rw [State.stored_ctx]; rfl
  rw [State.dispatchPsn_acts h hn (.inl hl), State.report_resting (by rw [hc]; exact hs)]

theorem State.reported_stored_rest (s : State) (i : Slot) (p : Report) (r : Resolution) :
    ((s.stored i p).reported i p r).ctx i = (s.ctx i).storing s p ∧ (∀ j, j ≠ i → ((s.stored i p).reported i p r).ctx j = s.ctx j)
    ∧ ((s.stored i p).reported i p r).feeders = s.feeders ∧ ((s.stored i p).reported i p r).loads = s.loads
    ∧ ((s.stored i p).reported i p r).normalQueue = s.normalQueue := by
  obtain ⟨-, hf, ho, hq, -⟩ := (s.stored i p).reported_rest i p r
  have hl : (s.stored i p).loads = s.loads := by
    obtain ⟨a, k, v, h⟩ := s.stored_rest i p
    rw [h]
  exact ⟨(State.reported_ctx _ i p r i).trans (s.stored_ctx i p), fun j hj => (State.reported_ctx _ i p r j).trans (State.stored_ctx_other hj),
    hf.trans (s.stored_feeders i p), ho.trans hl, hq.trans (s.stored_normalQueue i p)⟩

theorem State.reported_stored_sections (hs : (s.ctx i).state = .faulted) (r : Resolution) :
    ((s.stored i p).reported i p r).sections = s.sections :=
  Vector.ext fun n hn => (State.reported_stored_sec s i p r ⟨n, hn⟩).2 (.inl hs)

theorem State.reported_stored_frames (h : s.slotOf truck = some i) (hs : (s.ctx i).state = .tracked ∨ (s.ctx i).state = .faulted)
    (hp : s.globals.psaForward = 1) (hq : s.cQueue.length ≤ 28) (r : Resolution) :
    ((s.stored i p).reported i p r).cQueue = s.cQueue ++ [⟨0x81, 0, s.cAddress, p.tag,
      [truck] ++ nat16 p.chainage ++ [byte (headingCode p.heading), byte (pantographCode p.pantograph), flagByte p.loaded]
        ++ nat16 p.drawn ++ r.bytes ++ [byte i.val, byte (s.ctx i).state.code, 0, 0]⟩] := by
  have hc := s.stored_ctx i p
  have ha : ((s.ctx i).storing s p).address = truck := State.slotOf_address h
  have hst : ((s.ctx i).storing s p).state = (s.ctx i).state := rfl
  obtain ⟨a, k, v, e⟩ := s.stored_rest i p
  have hf := State.reported_frames (v := s.stored i p) (i := i) (by rw [e]; exact hp) (by rw [e]; exact hq) (by rw [hc]; exact hs) p r
  rw [hc, ha, hst] at hf
  rw [hf, e]

theorem State.headsFor_iff (s : State) (p : Report) (y : SectionId) : s.headsFor p y ↔
    ∃ x, s.resolve p.chainage = .sect x ∧ y ≠ x ∧ (s.entry y).valid = true ∧ 0 < (s.entry y).wake
      ∧ ((∃ g, (s.gapEntry g).valid = true
            ∧ ((s.gapEntry g).lower = x ∧ (s.gapEntry g).upper = y ∨ (s.gapEntry g).lower = y ∧ (s.gapEntry g).upper = x))
          ∨ (s.entry x).high + 1 = (s.entry y).low ∨ (s.entry y).high + 1 = (s.entry x).low)
      ∧ (p.heading = .up ∧ p.chainage < (s.entry y).low ∧ (s.entry y).low - p.chainage ≤ (s.entry y).wake
        ∨ p.heading = .down ∧ (s.entry y).high < p.chainage ∧ p.chainage - (s.entry y).high ≤ (s.entry y).wake) := by
  unfold State.headsFor
  simp only [State.wakesAhead_iff, State.adjacent_iff]

end

end Sys2Proof.Machine

open Sys2Proof Sys2Proof.Machine

/-- Settles O49, by whether the truck has a context, and by its state. -/
theorem reportsAllocateAndFree : Obligations.ReportsAllocateAndFree := by
  unfold Obligations.ReportsAllocateAndFree
  intro truck tag chainage heading pantograph loaded drawn s hp hw h1 h2 run r n leaving pos timer joined wakes woken
  let q : Report := { tag := tag, chainage := n, heading := heading, pantograph := pantograph, loaded := loaded, drawn := drawn.toNat }
  have he : run = .next (s.goodW.dispatchPsn truck q) := exec_psn hp hw h1 h2 tag chainage heading pantograph loaded drawn
  have hres : s.goodW.resolve q.chainage = r := s.goodW_resolve _
  have hgl : s.goodW.globals = s.globals ∧ s.goodW.contexts = s.contexts ∧ s.goodW.feeders = s.feeders ∧ s.goodW.sections = s.sections
      ∧ s.goodW.normalQueue = s.normalQueue ∧ s.goodW.swap = s.swap ∧ s.goodW.freeSlot = s.freeSlot ∧ s.goodW.evictee = s.evictee
      ∧ s.goodW.resolveClass = s.resolveClass ∧ s.goodW.approachOf = s.approachOf := by
    obtain ⟨a, k, h⟩ := s.goodW_rest
    rw [h]
    exact ⟨rfl, rfl, rfl, rfl, rfl, rfl, rfl, rfl, rfl, rfl⟩
  obtain ⟨hg, hct, hfd, hsc, hnq, hsw, hfs, hev, hcl, hap⟩ := hgl
  rw [he]
  refine ⟨fun hi hl hset => ⟨_, rfl, ?_⟩, fun hi hl i hsl => ⟨_, rfl, ?_⟩, fun hi hl hfree hevi hset => ⟨_, rfl, ?_⟩, fun i hi => ?_⟩
  · have k := SameBody.psaWithout s.goodW truck q .offMap
    rw [State.dispatchPsn_stranger hi, State.takeStranger_leaving (by rw [hres]; exact hl), State.psaWithout_settled (State.goodW_settled hset)]
    exact ⟨k.contexts.trans hct, k.feeders.trans hfd, k.sections.trans hsc, (State.psaWithout_normalQueue _ _ _ _).trans hnq⟩
  · obtain ⟨u, hu, hadm⟩ := State.takeStranger_admits (s := s.goodW) (truck := truck) (p := q) (by rw [hres]; exact hl)
      (by rw [hfs, hev]; exact hsl)
    have hon : Onward s.goodW u := hu.elim (fun e => e ▸ .refl _) fun e => e ▸ (Onward.refl _).freeCtx i
    obtain ⟨x, hx, hpos⟩ := u.admitTruck_ctx i truck q (s.goodW.resolve q.chainage)
    rw [State.dispatchPsn_stranger hi, hadm, hx, hon.resolveClass, hcl, hon.globals, hg]
    refine ⟨rfl, rfl, rfl, rfl, rfl, rfl, rfl, rfl, rfl, fun hn => ?_⟩
    have hn : s.goodW.swap = .none := hsw.trans hn
    rw [hres, hon.approachOf hn, hap] at hpos
    exact hpos (hon.swap_none hn).1
  · obtain ⟨e1, e2, e3⟩ := State.refuseTableFull_rest (State.goodW_settled hset) truck q (s.goodW.resolve q.chainage)
    rw [State.dispatchPsn_stranger hi, State.takeStranger_full (by rw [hres]; exact hl) (hfs.trans hfree) (hev.trans hevi)]
    rw [hnq] at e3
    exact ⟨e1.trans hct, e2, e3⟩
  · intro stored refusal refused waits deferred
    refine ⟨fun hl hd => ⟨_, rfl, State.dispatchPsn_leaves_ctx hi hl hd⟩, fun hl hs hn => ⟨_, rfl, ?_⟩, fun hl hs hn hf m hm => ?_,
      fun hl hs hn hf k hk => ?_⟩
    · rw [State.dispatchPsn_rests hi hn hl hs]
      obtain ⟨e1, e2, e3, e4, e5⟩ := s.reported_stored_rest i q r
      have hsec := s.reported_stored_sec i q r
      have hwk : ∀ y, s.headsFor q y ↔ wakes y := s.headsFor_iff q
      refine ⟨e1, fun ht => ⟨fun y hy f hf ho => ?_, fun y hy => ?_⟩, fun ht => State.reported_stored_sections ht r, e2, e3, e4, e5, fun hps hq => ?_⟩
      · have := State.wakeRec_online hf ho
        rw [← (hsec y).1 ht ((hwk y).2 hy)] at this
        exact this
      · by_cases hy' : s.headsFor q y
        · rw [(hsec y).1 ht hy']
          exact State.wakeRec_still (hy.resolve_left fun h => h ((hwk y).1 hy'))
        · exact (hsec y).2 (.inr hy')
      · have := State.reported_stored_frames (p := q) hi hs hps hq r
        rw [this, show nat16 q.chainage = be16 chainage from nat16_toNat _, show nat16 q.drawn = be16 drawn from nat16_toNat _]
    · refine ⟨fun hr => ⟨_, rfl, State.psnQueued_here hi hn hl hs hm hr⟩, fun hr code hcode => ⟨_, rfl, ?_⟩, fun y f hy hne hno hyf => ?_⟩
      · obtain ⟨w, hpl, hcd⟩ := State.place_refused (s := s) (r := r) hcode
        have := State.psnQueued_refused (p := q) hi hn hl hs hm hr hpl
        rw [hcd] at this
        exact this
      · have hr : r ≠ .sect m.entry.sect := fun e => hne (Resolution.sect.inj (hy.symm.trans e))
        have hno : s.refusalOf (.sect y) = none := by rw [← hy]; exact hno
        have hpl : s.place r = .placed y f := hy ▸ State.place_placed hno hyf
        refine ⟨fun e => ⟨_, rfl, ?_⟩, fun e => ⟨_, rfl, ?_⟩⟩
        · subst e
          exact (State.psnQueued_stays (p := q) hi hn hl hs hm hr hf hpl).waits
        · obtain ⟨u, ha, hu⟩ := State.psnQueued_moves (p := q) hi hn hl hs hm hr hf hpl e
          rw [hu]
          exact ⟨((ha.deferIfQueued i _).reported _).waits, fun m' => State.reported_deferred ha (State.slotOf_spec hi).2 _ _⟩
    · refine ⟨fun hr => ⟨_, rfl, State.psnOffered_here hi hn hl hs hk hr⟩, fun hr code hcode => ⟨_, rfl, ?_⟩, fun y f hy hne hno hyf => ⟨_, rfl, ?_⟩⟩
      · obtain ⟨w, hpl, hcd⟩ := State.place_refused (s := s) (r := r) hcode
        have := State.psnOffered_refused (p := q) hi hn hl hs hk hr hpl
        rw [hcd] at this
        exact this
      · have hr : r ≠ .sect k.sect := fun e => hne (Resolution.sect.inj (hy.symm.trans e))
        have hno : s.refusalOf (.sect y) = none := by rw [← hy]; exact hno
        have hpl : s.place r = .placed y f := hy ▸ State.place_placed hno hyf
        obtain ⟨u, ha, hu⟩ := State.psnOffered_moves (p := q) hi hn hl hs hk hr hf hpl
        rw [hu]
        exact ⟨((ha.deferIfQueued i _).reported _).waits, fun m' => State.reported_deferred ha (State.slotOf_spec hi).2 _ _⟩

end

section
/-! PROOFS. Reports in DRAWING: overdraw, moves, drops, approaches and jumps (R27, R64, R91, R95). -/

namespace Sys2Proof.Machine
open Sys2Proof

/-- A report as the admission engine and the gap sequencer take it (R26 steps 4 and 5). -/
def State.acted (v : State) (i : Slot) : State := ((v.countOverdraw i).admissionReport i).gapReport i

section
variable {v : State} {i : Slot}

theorem State.carriesCurrent_iff : v.carriesCurrent i = true
    ↔ v.globals.zeroThreshold < (v.ctx i).pos.drawn ∧ (v.ctx i).pos.pantograph ≠ .lowered := by
  unfold State.carriesCurrent
  simp

/-- No arc risk is reported where none is due. -/
theorem State.arcTest_quiet (h : (v.ctx i).gap.arcReported = true ∨ v.carriesCurrent i = false ∨ v.inArcPlace i = false) : v.arcTest i = v := by
  unfold State.arcTest
  rcases h with h | h | h <;> rw [h] <;> simp

theorem State.arcTest_risky (h : (v.ctx i).gap.arcReported = false) (hc : v.carriesCurrent i = true) (hp : v.inArcPlace i = true) :
    v.arcTest i = (v.reportArc i).strike i := by
  unfold State.arcTest
  rw [h, hc, hp]
  rfl

theorem State.gapReport_dropping (hs : (v.ctx i).state = .dropping) : v.gapReport i = v.arcTest i := by
  unfold State.gapReport
  rw [hs]

/-- A drop that is not for a gap is in no arc place outside the gaps. -/
theorem State.inArcPlace_outside (hr : ∀ g, (v.ctx i).pos.resolution ≠ .gap g) (hd : (v.ctx i).dropReason ≠ some .gap) :
    v.inArcPlace i = false := by
  unfold State.inArcPlace Context.dropsForGap
  dsimp only
  split
  next g hg => exact absurd hg (hr g)
  next => simp [hd]
  next => rfl

section
variable {h : Holding} (hs : (v.ctx i).state = .drawing) (hh : (v.ctx i).hold = some h)
include hs hh

/-! ### Overdraw (R27) -/

theorem State.countOverdraw_within (hd : (v.ctx i).pos.drawn ≤ h.amount + v.globals.overdrawMargin) :
    v.countOverdraw i = v.modCtx i (fun c => { c with overdraw := 0 }) := by
  unfold State.countOverdraw
  dsimp only
  rw [hs, hh]
  exact if_neg (by omega)

section
variable (hd : h.amount + v.globals.overdrawMargin < (v.ctx i).pos.drawn)
include hd

theorem State.countOverdraw_counts (ho : (v.ctx i).overdraw < 2) :
    v.countOverdraw i = v.modCtx i (fun c => { c with overdraw := c.overdraw + 1 }) := by
  unfold State.countOverdraw
  dsimp only
  rw [hs, hh]
  exact (if_pos hd).trans (if_neg (by omega))

theorem State.countOverdraw_strikes (ho : 2 ≤ (v.ctx i).overdraw) : v.countOverdraw i
    = ((v.report .overdraw (v.ctx i).address.toNat (v.ctx i).pos.drawn).modCtx i (fun c => { c with overdraw := 0 })).strike i := by
  unfold State.countOverdraw
  dsimp only
  rw [hs, hh]
  exact (if_pos hd).trans (if_pos (by omega))

end

/-! ### Where the grant stands, moves or drops (R64) -/

omit hh in
theorem State.admissionReport_drawing : v.admissionReport i = v.reportDrawing i := by
  unfold State.admissionReport
  rw [hs]

omit hh in
theorem State.gapReport_drawing : v.gapReport i = v.gapDrawing i := by
  unfold State.gapReport
  rw [hs]

omit hs in
/-- The admission engine leaves a truck in the section of its grant, or in a gap, to the gap sequencer. -/
theorem State.reportDrawing_stands (hr : (v.ctx i).pos.resolution = .sect h.sect ∨ ∃ g, (v.ctx i).pos.resolution = .gap g) :
    v.reportDrawing i = v := by
  unfold State.reportDrawing
  rw [hh]
  rcases hr with hr | ⟨g, hr⟩
  · rw [hr]
    exact if_pos (beq_self_eq_true _)
  · rw [hr]

omit hs hh in
theorem State.gapDrawing_clear {x : SectionId} (hr : (v.ctx i).pos.resolution = .sect x) (ha : (v.ctx i).pos.approach = none) :
    v.gapDrawing i = v := by
  unfold State.gapDrawing
  dsimp only
  rw [hr, ha]
  cases (v.ctx i).hold <;> rfl

theorem State.drawing_here (hr : (v.ctx i).pos.resolution = .sect h.sect) (ha : (v.ctx i).pos.approach = none) :
    (v.admissionReport i).gapReport i = v := by
  rw [State.admissionReport_drawing hs, State.reportDrawing_stands hh (.inl hr), State.gapReport_drawing hs, State.gapDrawing_clear hr ha]

theorem State.drawing_bridged {g : GapId} (hr : (v.ctx i).pos.resolution = .gap g) (hb : (v.gapEntry g).bridgeable = true) :
    (v.admissionReport i).gapReport i = v := by
  rw [State.admissionReport_drawing hs, State.reportDrawing_stands hh (.inr ⟨g, hr⟩), State.gapReport_drawing hs]
  unfold State.gapDrawing
  dsimp only
  rw [hr, hh]
  exact if_pos hb

theorem State.drawing_approaches {g : GapId} (hr : (v.ctx i).pos.resolution = .sect h.sect) (ha : (v.ctx i).pos.approach = some g) :
    (v.admissionReport i).gapReport i = v.approachGap i g h := by
  rw [State.admissionReport_drawing hs, State.reportDrawing_stands hh (.inl hr), State.gapReport_drawing hs]
  unfold State.gapDrawing
  dsimp only
  rw [hr, hh, ha]

theorem State.drawing_jumps {g : GapId} (hr : (v.ctx i).pos.resolution = .gap g) (hb : (v.gapEntry g).bridgeable = false) :
    (v.admissionReport i).gapReport i = v.jumpGap i g h := by
  rw [State.admissionReport_drawing hs, State.reportDrawing_stands hh (.inr ⟨g, hr⟩), State.gapReport_drawing hs]
  unfold State.gapDrawing
  dsimp only
  rw [hr, hh]
  exact if_neg (by rw [hb]; exact Bool.false_ne_true)

omit hs hh in
/-- A drop that the report begins, and that the gap sequencer leaves. -/
theorem State.startDrop_gapReport {r : Reason} {n : Nat} (hr : ∀ g, (v.ctx i).pos.resolution ≠ .gap g) (hn : r ≠ .gap) :
    (v.startDrop i r n).gapReport i = v.startDrop i r n := by
  have hc : (v.startDrop i r n).ctx i = _ := (State.startDrop_ctx v i r n i).trans (if_pos rfl)
  rw [State.gapReport_dropping (by rw [hc])]
  refine State.arcTest_quiet (.inr (.inr (State.inArcPlace_outside ?_ ?_)))
  · rw [hc]
    exact hr
  · rw [hc]
    exact fun e => hn (Option.some.inj e)

theorem State.drawing_offMap (hr : (v.ctx i).pos.resolution = .offMap) :
    (v.admissionReport i).gapReport i = v.startDrop i .offMap v.globals.ordinaryDrop := by
  have he : v.reportDrawing i = v.startDrop i .offMap v.globals.ordinaryDrop := by
    unfold State.reportDrawing
    rw [hh, hr]
  rw [State.admissionReport_drawing hs, he, State.startDrop_gapReport (by rw [hr]; exact nofun) (by decide)]

omit hs hh in
theorem State.canMove_iff {x : SectionId} : v.canMove i h x = true ↔ v.feederOf x = some h.feeder ∧ (v.sec x).state = .energised
    ∧ (v.ctx i).req.minimum ≤ v.sectionRoom x ∧ 0 < v.sectionRoom x := by
  unfold State.canMove
  simp [and_assoc]

section
variable {x : SectionId} (hr : (v.ctx i).pos.resolution = .sect x) (hx : x ≠ h.sect)
include hr hx

theorem State.drawing_leaves (hm : ¬v.canMove i h x = true) :
    (v.admissionReport i).gapReport i = v.startDrop i .reposition v.globals.ordinaryDrop := by
  have he : v.reportDrawing i = v.startDrop i .reposition v.globals.ordinaryDrop := by
    unfold State.reportDrawing
    rw [hh, hr]
    exact (if_neg (by simpa using hx)).trans (if_neg hm)
  rw [State.admissionReport_drawing hs, he, State.startDrop_gapReport (by rw [hr]; exact nofun) (by decide)]

omit hr hx hh in
theorem State.moveGrant_ctx (x : SectionId) : (v.moveGrant i h x).ctx i
    = { v.ctx i with hold := some ⟨min h.amount (v.sectionRoom x), h.feeder, x⟩ } := by
  have hc : ((v.setHold i (some ⟨min h.amount (v.sectionRoom x), h.feeder, x⟩)).sendGrt i (v.ctx i).tagByte).ctx i
      = { v.ctx i with hold := some ⟨min h.amount (v.sectionRoom x), h.feeder, x⟩ } := by
    rw [State.sendGrt_ctx, State.setHold_ctx, if_pos rfl]
  unfold State.moveGrant
  dsimp only
  split
  · rw [State.arbitrate_ctx, hc]
    · rw [hc]; exact fun e => CtxState.noConfusion (hs.symm.trans e)
    · rw [hc]; exact fun e => CtxState.noConfusion (hs.symm.trans e)
  · exact hc

theorem State.drawing_moves (hm : v.canMove i h x = true) (ha : (v.ctx i).pos.approach = none) :
    (v.admissionReport i).gapReport i = v.moveGrant i h x := by
  have he : v.reportDrawing i = v.moveGrant i h x := by
    unfold State.reportDrawing
    rw [hh, hr]
    exact (if_neg (by simpa using hx)).trans (if_pos hm)
  have hc := State.moveGrant_ctx (h := h) hs x
  rw [State.admissionReport_drawing hs, he, State.gapReport_drawing (by rw [hc]; exact hs),
    State.gapDrawing_clear (by rw [hc]; exact hr) (by rw [hc]; exact ha)]

end

/-! ### The approach (R91) -/

omit hs hh in
theorem State.approachGap_ctx (g : GapId) : ∃ f, (v.approachGap i g h).ctx i = { v.ctx i with
      state := .dropping, grantExpiry := none, overdraw := 0, dropReason := some .gap, dropDeadline := tenths v.globals.gapDrop
      withdraw := some ⟨.gap, false⟩
      gap := { (v.ctx i).startCrossing g ((v.gapEntry g).approachTarget (v.ctx i).pos.heading) h.amount with feeder := f } } := by
  unfold State.approachGap
  dsimp only
  generalize hw : (((v.setGap i _).startDrop i .gap v.globals.gapDrop).wake _) = w
  have hc : w.ctx i = { v.ctx i with
      state := .dropping, grantExpiry := none, overdraw := 0, dropReason := some .gap, dropDeadline := tenths v.globals.gapDrop
      withdraw := some ⟨.gap, false⟩
      gap := (v.ctx i).startCrossing g ((v.gapEntry g).approachTarget (v.ctx i).pos.heading) h.amount } := by
    rw [← hw, State.wake_ctx, State.startDrop_ctx, if_pos rfl, State.setGap_ctx, if_pos rfl]
  obtain ⟨f, hf⟩ := w.tryReserve_ctx i
  rw [hc] at hf
  refine ⟨f, ?_⟩
  rw [State.arbitrateOn_ctx, hf]
  · rw [hf]; exact nofun
  · rw [hf]; exact nofun

end
end

end Sys2Proof.Machine
end

section
/-! PROOFS. Reports in DRAWING that strike or jump; arc risks (R27, R33, R93, R95). -/

namespace Sys2Proof.Machine
open Sys2Proof

section
variable {v : State} {i : Slot}

/-! ### Strikes (R33) -/

/-- What one strike leaves of a context that does not wait. -/
def Context.afterStrike (c : Context) (g : Globals) : Context :=
  if c.excludedBy g ∧ c.state ≠ .faulted ∧ ¬(c.state = .dropping ∧ c.dropReason = some .fault)
  then (c.struck g.strikeThreshold).faulted g.ordinaryDrop else c.struck g.strikeThreshold

/-- The states in which a truck that is struck does not wait afterwards. -/
def Context.strikable (c : Context) : Prop := c.state = .drawing ∨ c.state = .dropping ∨ c.state = .crossing

theorem Context.faulted_rests {c : Context} (h : c.strikable) (n : Nat) : (c.faulted n).waits = false := by
  unfold Context.faulted Context.waits
  rcases h with h | h | h <;> rw [h] <;> simp [Context.settled]

theorem State.strikeFaults_excluded : v.strikeFaults i = true ↔ (v.ctx i).excludedBy v.globals ∧ (v.ctx i).state ≠ .faulted
    ∧ ¬((v.ctx i).state = .dropping ∧ (v.ctx i).dropReason = some .fault) := by
  rw [State.strikeFaults_iff, ← and_assoc]
  rfl

theorem State.strike_ctx (h : (v.ctx i).strikable) : (v.strike i).ctx i = (v.ctx i).afterStrike v.globals := by
  unfold Context.afterStrike
  split
  next hx => exact State.strike_severe (State.strikeFaults_excluded.2 hx) (Context.faulted_rests (c := (v.ctx i).struck v.globals.strikeThreshold) h _)
  next hx => exact State.strike_mild fun e => hx (State.strikeFaults_excluded.1 e)

theorem State.strikeQuiet_ctx : (v.strikeQuiet i).ctx i = (v.ctx i).afterStrike v.globals := by
  unfold State.strikeQuiet Context.afterStrike
  rw [State.strikeBy_ctx v i i (fun t => t.faultContext_ctx i i), if_pos rfl]
  exact if_congr State.strikeFaults_excluded rfl rfl

theorem Context.afterStrike_mild {c : Context} {g : Globals} (h : ¬c.excludedBy g ∨ c.state = .dropping ∧ c.dropReason = some .fault) :
    c.afterStrike g = c.struck g.strikeThreshold := if_neg fun hx => h.elim (fun h => h hx.1) hx.2.2

theorem Context.afterStrike_severe {c : Context} {g : Globals} (h : c.excludedBy g)
    (hs : c.state = .drawing ∨ c.state = .crossing ∨ c.state = .dropping ∧ c.dropReason ≠ some .fault) :
    c.afterStrike g = (c.struck g.strikeThreshold).faulted g.ordinaryDrop := by
  refine if_pos ⟨h, ?_, ?_⟩
  · rcases hs with hs | hs | ⟨hs, -⟩ <;> rw [hs] <;> decide
  · rintro ⟨h1, h2⟩
    rcases hs with hs | hs | ⟨-, hs⟩
    · rw [hs] at h1; cases h1
    · rw [hs] at h1; cases h1
    · exact hs h2

/-! ### Arc risks (R93) -/

/-- A context whose arc risk is reported. -/
def Context.arced (c : Context) : Context := { c with gap := { c.gap with arcReported := true } }

theorem State.reportArc_ctx : (v.reportArc i).ctx i = (v.ctx i).arced := by
  unfold State.reportArc
  dsimp only
  rw [State.setGap_ctx, if_pos rfl, State.report_ctx]
  rfl

theorem State.reportArc_onward (v : State) (i : Slot) : Onward (v.report .arcRisk (v.ctx i).address.toNat (v.ctx i).pos.drawn) (v.reportArc i) :=
  (Onward.refl _).setGap i _ (spares_sameGap _ _ rfl)

/-- An arc risk that counts sets its latch. -/
theorem State.reportArc_latch {t : State} (h : Onward (v.reportArc i) t) : t.latches.getLsbD 5 = true :=
  h.latches 5 ((v.reportArc_onward i).latches 5 (State.report_latch _ .arcRisk _ _))

/-! ### The jump (R95) -/

/-- The context of a truck that jumped into a gap. -/
def Context.jumped (c : Context) (g : GapId) (target : SectionId) (amount limit : Nat) (f : Option FeederId) : Context :=
  { c with
    state := .crossing, hold := none, grantExpiry := none, overdraw := 0, dropReason := none, dropDeadline := none
    withdraw := some ⟨.gap, true⟩
    gap := { c.startCrossing g target amount with feeder := f, crossing := some (limit * 1000) } }

theorem State.beginJump_ctx (v : State) (i : Slot) (g : GapId) (h : Holding) : ∃ f, (v.beginJump i g h).ctx i
    = (v.ctx i).jumped g ((v.gapEntry g).jumpTarget h.sect (v.ctx i).pos.heading) h.amount (v.gapEntry g).crossingLimit f := by
  unfold State.beginJump
  dsimp only
  generalize (v.gapEntry g).jumpTarget h.sect (v.ctx i).pos.heading = x
  generalize hu : v.setGap i ((v.ctx i).startCrossing g x h.amount) = u
  have hc : u.ctx i = { v.ctx i with gap := (v.ctx i).startCrossing g x h.amount } := by
    rw [← hu, State.setGap_ctx, if_pos rfl]
  have hl : u.crossingLimit i = (v.gapEntry g).crossingLimit := by
    have he : u.gapEntry g = v.gapEntry g := by
      rw [← hu, (HoldersOnly.setGap v i _).rest]
      rfl
    unfold State.crossingLimit
    rw [hc, ← he]
    rfl
  generalize hw : ((u.enterCrossing i).setWithdraw i .gap true).wake x = w
  have hcw : w.ctx i = (v.ctx i).jumped g x h.amount (v.gapEntry g).crossingLimit none := by
    rw [← hw, State.wake_ctx, State.setWithdraw_ctx, if_pos rfl, State.enterCrossing_ctx, if_pos rfl, hc, hl]
    rfl
  obtain ⟨f, hf⟩ := w.tryReserve_ctx i
  exact ⟨f, by rw [hf, hcw]; rfl⟩

/-- Arbitration may reserve the target of a crossing, and changes nothing else of it. -/
theorem State.arbitrateOn_jumped {c : Context} {g : GapId} {x : SectionId} {n l : Nat} {f : Option FeederId} (h : v.ctx i = c.jumped g x n l f)
    (w : FeederId → Bool) : ∃ f, (v.arbitrateOn w).ctx i = c.jumped g x n l f := by
  obtain ⟨f, hf⟩ := (Waited.arbitrateOn v w).crossing i (by rw [h]; rfl)
  exact ⟨f, by rw [hf, h]; rfl⟩

section
variable (g : GapId) (h : Holding)

theorem State.jumpGap_quiet (hc : v.carriesCurrent i = false) : ∃ f, (v.jumpGap i g h).ctx i
    = (v.ctx i).jumped g ((v.gapEntry g).jumpTarget h.sect (v.ctx i).pos.heading) h.amount (v.gapEntry g).crossingLimit f := by
  obtain ⟨f, hf⟩ := v.beginJump_ctx i g h
  unfold State.jumpGap
  dsimp only
  rw [hc, if_neg Bool.false_ne_true]
  exact State.arbitrateOn_jumped hf _

/-- A jump with current is an arc risk and a strike. -/
theorem State.jumpGap_arcs (hc : v.carriesCurrent i = true) : Onward ((v.beginJump i g h).reportArc i) (v.jumpGap i g h)
    ∧ ∃ w, v.jumpGap i g h = (((v.beginJump i g h).reportArc i).strikeQuiet i).arbitrateOn w := by
  unfold State.jumpGap
  dsimp only
  rw [if_pos hc]
  exact ⟨((Onward.refl _).strikeQuiet i).arbitrateOn _, _, rfl⟩

section
variable (hc : v.carriesCurrent i = true)
include hc

/-- The globals and the context that the strike of a jump counts on. -/
theorem State.jumpGap_counts : ∃ (f : Option FeederId) (u : State) (w : FeederId → Bool), v.jumpGap i g h = (u.strikeQuiet i).arbitrateOn w
    ∧ u.globals = v.globals ∧ u.ctx i
      = ((v.ctx i).jumped g ((v.gapEntry g).jumpTarget h.sect (v.ctx i).pos.heading) h.amount (v.gapEntry g).crossingLimit f).arced := by
  obtain ⟨f, hf⟩ := v.beginJump_ctx i g h
  obtain ⟨-, w, hw⟩ := State.jumpGap_arcs g h hc
  have hon : Onward v ((v.beginJump i g h).reportArc i) := ((Onward.refl v).beginJump i g h).reportArc i
  exact ⟨f, (v.beginJump i g h).reportArc i, w, hw, hon.globals, by rw [State.reportArc_ctx, hf]⟩

theorem State.jumpGap_mild (hx : ¬(v.ctx i).excludedBy v.globals) : ∃ f, (v.jumpGap i g h).ctx i
    = ((v.ctx i).jumped g ((v.gapEntry g).jumpTarget h.sect (v.ctx i).pos.heading) h.amount (v.gapEntry g).crossingLimit f).arced.struck
        v.globals.strikeThreshold := by
  obtain ⟨f, u, w, hw, hg, hu⟩ := State.jumpGap_counts g h hc
  have hq : (u.strikeQuiet i).ctx i = (u.ctx i).struck v.globals.strikeThreshold := by
    rw [State.strikeQuiet_ctx, hg, Context.afterStrike_mild (.inl (by rw [hu]; exact hx))]
  obtain ⟨f', hf'⟩ := (Waited.arbitrateOn (u.strikeQuiet i) w).crossing i (by rw [hq, hu]; rfl)
  rw [hw]
  exact ⟨f', by rw [hf', hq, hu]; rfl⟩

theorem State.jumpGap_severe (hx : (v.ctx i).excludedBy v.globals) :
    ((v.jumpGap i g h).ctx i).state = .faulted ∧ ((v.jumpGap i g h).ctx i).withdraw = some ⟨.fault, true⟩
    ∧ ((v.jumpGap i g h).ctx i).gap = GapFields.clear ∧ ((v.jumpGap i g h).ctx i).hold = none
    ∧ ((v.jumpGap i g h).ctx i).strikes = strikeCount (v.ctx i).strikes v.globals.strikeThreshold := by
  obtain ⟨f, u, w, hw, hg, hu⟩ := State.jumpGap_counts g h hc
  have hq : (u.strikeQuiet i).ctx i = ((u.ctx i).struck v.globals.strikeThreshold).faulted v.globals.ordinaryDrop := by
    rw [State.strikeQuiet_ctx, hg, Context.afterStrike_severe (by rw [hu]; exact hx) (.inr (.inl (by rw [hu]; rfl)))]
  rw [hu] at hq
  rw [hw, State.arbitrateOn_ctx (by rw [hq]; exact nofun) (by rw [hq]; exact nofun), hq]
  exact ⟨rfl, rfl, rfl, rfl, rfl⟩

end

end

end

end Sys2Proof.Machine
end

section
/-! PROOFS. Reports in DROPPING (R61, R62, R63, R93, R96). -/

namespace Sys2Proof.Machine
open Sys2Proof

section
variable {v : State} {i : Slot} (hs : (v.ctx i).state = .dropping)
include hs

theorem State.acted_dropping : v.acted i = (v.reportDropping i).gapReport i := by
  have hc : v.countOverdraw i = v := State.countOverdraw_still (by rw [hs]; decide)
  have ha : v.admissionReport i = v.reportDropping i := by
    unfold State.admissionReport
    rw [hs]
  unfold State.acted
  rw [hc, ha]

/-! ### Current in DROPPING (R62, R93) -/

section
variable {reason : Reason} (hr : (v.ctx i).dropReason = some reason) (hc : v.carriesCurrent i = true)
include hr hc

theorem State.dropping_carries : v.acted i = (v.setWithdraw i reason false).arcTest i := by
  have hd : v.reportDropping i = v.setWithdraw i reason false := by
    unfold State.reportDropping
    rw [if_pos hc, hr]
  rw [State.acted_dropping hs, hd, State.gapReport_dropping]
  rw [State.setWithdraw_ctx, if_pos rfl]
  exact hs

omit hs hr hc in
/-- The withdrawal that is set again moves neither the place nor the current of its truck. -/
theorem State.setWithdraw_arcs (v : State) (i : Slot) (r : Reason) :
    (v.setWithdraw i r false).ctx i = { v.ctx i with withdraw := some ⟨r, false⟩ }
    ∧ (v.setWithdraw i r false).carriesCurrent i = v.carriesCurrent i ∧ (v.setWithdraw i r false).inArcPlace i = v.inArcPlace i := by
  have hw : (v.setWithdraw i r false).ctx i = { v.ctx i with withdraw := some ⟨r, false⟩ } := by rw [State.setWithdraw_ctx, if_pos rfl]
  refine ⟨hw, ?_, ?_⟩
  · unfold State.carriesCurrent
    rw [hw]
    rfl
  · unfold State.inArcPlace
    rw [hw]
    rfl

theorem State.dropping_quiet (h : (v.ctx i).gap.arcReported = true ∨ v.inArcPlace i = false) : v.acted i = v.setWithdraw i reason false := by
  obtain ⟨h1, -, h3⟩ := v.setWithdraw_arcs i reason
  rw [State.dropping_carries hs hr hc, State.arcTest_quiet]
  rw [h1, h3]
  exact h.imp id .inr

theorem State.dropping_arcs (ha : (v.ctx i).gap.arcReported = false) (hp : v.inArcPlace i = true) :
    (v.acted i).latches.getLsbD 5 = true
    ∧ (v.acted i).ctx i = (Context.arced { v.ctx i with withdraw := some ⟨reason, false⟩ }).afterStrike v.globals := by
  obtain ⟨h1, h2, h3⟩ := v.setWithdraw_arcs i reason
  have he : v.acted i = ((v.setWithdraw i reason false).reportArc i).strike i :=
    (State.dropping_carries hs hr hc).trans (State.arcTest_risky (by rw [h1]; exact ha) (h2.trans hc) (h3.trans hp))
  have hk : ((v.setWithdraw i reason false).reportArc i).ctx i = Context.arced { v.ctx i with withdraw := some ⟨reason, false⟩ } := by
    rw [State.reportArc_ctx, h1]
  have hg : ((v.setWithdraw i reason false).reportArc i).globals = v.globals :=
    (((Onward.refl v).setWithdraw i reason false).reportArc i).globals
  rw [he]
  refine ⟨State.reportArc_latch ((Onward.refl _).strike i), ?_⟩
  rw [State.strike_ctx (by rw [hk]; exact .inr (.inl hs)), hk, hg]

end

/-! ### The end of a drop (R61, R63, R96) -/

section
variable (hc : v.carriesCurrent i = false)
include hc

theorem State.dropping_confirmed : v.acted i = (v.endDrop i).gapReport i := by
  have hd : v.reportDropping i = v.endDrop i := if_neg (by rw [hc]; exact Bool.false_ne_true)
  rw [State.acted_dropping hs, hd]

theorem State.dropping_ends {reason : Reason} (hr : (v.ctx i).dropReason = some reason) (hn : reason ∉ [.gap, .shed, .fault]) :
    (v.acted i).ctx i = (v.ctx i).left .tracked := by
  have he : v.endDrop i = v.endHolding i .tracked := by
    unfold State.endDrop
    rw [hr]
    cases reason <;> simp at hn ⊢
  have hk := State.endHolding_ctx v i (st := .tracked) (by decide) (by decide)
  rw [State.dropping_confirmed hs hc, he, State.gapReport_resting (.inl (by rw [hk]; rfl)), hk]

theorem State.dropping_faults (hr : (v.ctx i).dropReason = some .fault) : (v.acted i).ctx i = (v.ctx i).left .faulted := by
  have he : v.endDrop i = v.endHolding i .faulted := by
    unfold State.endDrop
    rw [hr]
  have hk := State.endHolding_ctx v i (st := .faulted) (by decide) (by decide)
  rw [State.dropping_confirmed hs hc, he, State.gapReport_resting (.inr (.inr (.inr (by rw [hk]; rfl)))), hk]

/-- A gap drop that ends in the gap goes on as a crossing. -/
theorem State.dropping_crosses (hr : (v.ctx i).dropReason = some .gap) {g : GapId} (hg : (v.ctx i).pos.resolution = .gap g) :
    ∃ f, (v.acted i).ctx i = { v.ctx i with
      state := .crossing, hold := none, grantExpiry := none, overdraw := 0, dropReason := none, dropDeadline := none
      gap := { (v.ctx i).gap with feeder := f, crossing := seconds (v.crossingLimit i) } } := by
  have he : v.endDrop i = v.endGapDrop i := by
    unfold State.endDrop
    rw [hr]
  obtain ⟨f, hf⟩ := v.endGapDrop_ctx i
  have hgl : (v.endGapDrop i).globals = v.globals := ((Onward.refl v).endGapDrop i).globals
  have hca : (v.endGapDrop i).carriesCurrent i = false := by
    unfold State.carriesCurrent at hc ⊢
    rw [hf, hgl]
    exact hc
  have hx : (v.endGapDrop i).gapReport i = v.endGapDrop i := by
    unfold State.gapReport
    rw [hf]
    dsimp only
    unfold State.reportCrossing
    dsimp only
    rw [hf]
    dsimp only
    rw [hg]
    exact State.arcTest_quiet (.inr (.inl hca))
  rw [State.dropping_confirmed hs hc, he, hx]
  exact ⟨f, hf⟩

theorem State.dropping_sheds (hr : (v.ctx i).dropReason = some .shed)
    (hk : ((v.endShedDrop i).ctx i).state = .tracked ∨ ((v.endShedDrop i).ctx i).state = .queued ∨ ((v.endShedDrop i).ctx i).state = .offered) :
    v.acted i = v.endShedDrop i := by
  have he : v.endDrop i = v.endShedDrop i := by
    unfold State.endDrop
    rw [hr]
  rw [State.dropping_confirmed hs hc, he, State.gapReport_resting (hk.imp id fun h => h.imp id .inl)]

end
end

end Sys2Proof.Machine
end

section
/-! PROOFS. Reports in CROSSING: in the gap, before it, and the exits (R97 to R102). -/

namespace Sys2Proof.Machine
open Sys2Proof

section
variable {v : State} {i : Slot} (hs : (v.ctx i).state = .crossing)
include hs

theorem State.acted_crossing : v.acted i = v.reportCrossing i := by
  have hc : v.countOverdraw i = v := State.countOverdraw_still (by rw [hs]; decide)
  have ha : v.admissionReport i = v := by
    unfold State.admissionReport
    rw [hs]
  unfold State.acted
  rw [hc, ha]
  unfold State.gapReport
  rw [hs]

/-! ### In the gap (R93, R97) -/

section
variable {k : GapId} (hr : (v.ctx i).pos.resolution = .gap k)
include hr

theorem State.crossing_inside : v.acted i = v.arcTest i := by
  rw [State.acted_crossing hs]
  unfold State.reportCrossing
  dsimp only
  rw [hr]

omit hs in
theorem State.inArcPlace_inside : v.inArcPlace i = !(v.gapEntry k).bridgeable := by
  unfold State.inArcPlace
  dsimp only
  rw [hr]

theorem State.crossing_quiet (h : v.carriesCurrent i = false ∨ (v.ctx i).gap.arcReported = true ∨ (v.gapEntry k).bridgeable = true) :
    v.acted i = v := by
  rw [State.crossing_inside hs hr]
  refine State.arcTest_quiet ?_
  rw [State.inArcPlace_inside hr]
  rcases h with h | h | h
  · exact .inr (.inl h)
  · exact .inl h
  · exact .inr (.inr (by rw [h]; rfl))

theorem State.crossing_arcs (hc : v.carriesCurrent i = true) (ha : (v.ctx i).gap.arcReported = false) (hb : (v.gapEntry k).bridgeable = false) :
    (v.acted i).latches.getLsbD 5 = true ∧ (v.acted i).ctx i = (v.ctx i).arced.afterStrike v.globals := by
  have he : v.acted i = (v.reportArc i).strike i :=
    (State.crossing_inside hs hr).trans (State.arcTest_risky ha hc (by rw [State.inArcPlace_inside hr, hb]; rfl))
  have hk : (v.reportArc i).ctx i = (v.ctx i).arced := State.reportArc_ctx
  have hg : (v.reportArc i).globals = v.globals := ((Onward.refl v).reportArc i).globals
  rw [he]
  refine ⟨State.reportArc_latch ((Onward.refl _).strike i), ?_⟩
  rw [State.strike_ctx (by rw [hk]; exact .inr (.inr hs)), hk, hg]

end

/-! ### Where the crossing goes on, and where it ends (R97 to R102) -/

theorem State.crossing_offMap (hr : (v.ctx i).pos.resolution = .offMap) : v.acted i = v.endHolding i .tracked := by
  rw [State.acted_crossing hs]
  unfold State.reportCrossing
  dsimp only
  rw [hr]

section
variable {g : GapId} {x y : SectionId} (hg : (v.ctx i).gap.gapId = some g) (ht : (v.ctx i).gap.target = some x)
  (hr : (v.ctx i).pos.resolution = .sect y)
include hg ht hr

theorem State.crossing_before (hy : y = (v.gapEntry g).originOf x)
    (hb : (v.gapEntry g).stillBefore x (v.ctx i).pos.heading (v.ctx i).pos.chainage = true) : v.acted i = v := by
  rw [State.acted_crossing hs]
  unfold State.reportCrossing
  dsimp only
  rw [hr, hg, ht]
  exact if_pos (by rw [hb, hy]; simp)

section
variable (hn : y ≠ (v.gapEntry g).originOf x ∨ (v.gapEntry g).stillBefore x (v.ctx i).pos.heading (v.ctx i).pos.chainage = false)
include hn

theorem State.crossing_exits : v.acted i = v.exitInto i (v.gapEntry g) x y := by
  rw [State.acted_crossing hs]
  unfold State.reportCrossing
  dsimp only
  rw [hr, hg, ht]
  refine if_neg fun h => ?_
  rw [Bool.and_eq_true, beq_iff_eq] at h
  rcases hn with hn | hn
  · exact hn h.1
  · rw [hn] at h
    exact Bool.false_ne_true h.2

theorem State.crossing_arrives (hy : y = x) : v.acted i = v.exitTarget i x := by
  rw [State.crossing_exits hs hg ht hr hn]
  unfold State.exitInto
  rw [if_pos (beq_iff_eq.2 hy), hy]

theorem State.crossing_returns (hx : y ≠ x) (hy : y = (v.gapEntry g).originOf x) : v.acted i = v.reversal i y := by
  rw [State.crossing_exits hs hg ht hr hn]
  unfold State.exitInto
  rw [if_neg (by simpa using hx), if_pos (beq_iff_eq.2 hy)]

theorem State.crossing_strays (hx : y ≠ x) (hy : y ≠ (v.gapEntry g).originOf x) : v.acted i = v.endHolding i .tracked := by
  rw [State.crossing_exits hs hg ht hr hn]
  unfold State.exitInto
  rw [if_neg (by simpa using hx), if_neg (by simpa using hy)]

end
end
end

theorem GapEntry.stillBefore_iff (g : GapEntry) (x : SectionId) (h : Heading) (n : Nat) : g.stillBefore x h n = true ↔
    if x = g.upper then g.low - g.approach ≤ n ∧ n < g.low ∧ h ≠ .down else g.high < n ∧ n ≤ g.high + g.approach ∧ h ≠ .up := by
  unfold GapEntry.stillBefore GapEntry.inLowerZone GapEntry.inUpperZone
  by_cases hx : x = g.upper
  · simp [hx, and_assoc]
  · simp [hx, and_assoc]

theorem GapEntry.originOf_eq (g : GapEntry) (x : SectionId) : g.originOf x = if x = g.upper then g.lower else g.upper := by
  unfold GapEntry.originOf
  simp

end Sys2Proof.Machine
end

section
/-! PROOFS. The exits of a crossing into its target (R98 to R100). -/

namespace Sys2Proof.Machine
open Sys2Proof

/-- The step dismisses the truck with a refusal: it holds nothing and waits for nothing, and was told so. -/
def Dismissed (v : State) (i : Slot) (q : Refuse) (t : State) : Prop :=
  t.ctx i = (v.ctx i).left .tracked ∧ Onward ((v.giveUp i .tracked).refuse i q) t

theorem Dismissed.refuse (v : State) (i : Slot) (q : Refuse) : Dismissed v i q ((v.giveUp i .tracked).refuse i q) :=
  ⟨by rw [State.refuse_ctx, State.giveUp_self], .refl _⟩

theorem Dismissed.arbitrate {v t : State} {i : Slot} {q : Refuse} (h : Dismissed v i q t) (f : FeederId) : Dismissed v i q (t.arbitrate f) :=
  ⟨(State.arbitrate_ctx (by rw [h.1]; exact nofun) (by rw [h.1]; exact nofun) f).trans h.1, h.2.arbitrate f⟩

/-- The context with the request fields of its crossing (R98). -/
def Context.asking (c : Context) : Context :=
  { c with req := { c.req with requested := c.gap.amount, minimum := min c.req.minimum c.gap.amount, level := c.grantLevel } }

section
variable {v : State} {i : Slot}

theorem State.askForCrossing_ctx (v : State) (i : Slot) : (v.askForCrossing i).ctx i = (v.ctx i).asking := State.modCtx_ctx_self _ _ _

theorem Context.asking_level (c : Context) : c.asking.grantLevel = c.grantLevel := by
  unfold Context.asking Context.grantLevel
  cases c.levelAtGrant <;> rfl

theorem State.exitQueued_awaits {w : Option Place} (hl : v.Listed i w) (f : FeederId) (x : SectionId) :
    Awaits i f (v.ctx i).grantLevel x .carryOver (((v.ctx i).left .tracked).settled .queued) (v.exitQueued i f x) := by
  have ha := (Awaits.queueAt (hl.giveUp .tracked) f (v.ctx i).grantLevel x .carryOver).wake x
  rw [State.giveUp_self] at ha
  exact ha

/-- A crossing that asks and waits: the entry is for the level of its grant. -/
theorem State.askQueued_awaits {w : Option Place} (hl : v.Listed i w) (f : FeederId) (x : SectionId) :
    Awaits i f (v.ctx i).grantLevel x .carryOver (((v.ctx i).asking.left .tracked).settled .queued) ((v.askForCrossing i).exitQueued i f x) := by
  have ha := State.exitQueued_awaits (v := v.askForCrossing i) (i := i) (State.Listed.congr hl (.modCtx _ _ _)) f x
  rw [State.askForCrossing_ctx, Context.asking_level] at ha
  exact ha

/-! ### With a reservation (R99) -/

section
variable {r : Holding} (hr : (v.ctx i).gap.reserved = some r)
include hr

theorem State.exitTarget_reserved (x : SectionId) : v.exitTarget i x = v.exitReserved i r := by
  unfold State.exitTarget
  rw [hr]

omit hr in
theorem State.exitReserved_grants (hn : v.swap = .none) (he : (v.sec r.sect).state = .energised) : v.exitReserved i r = v.exitGranted i r := by
  have hc : v.wouldConflict i r.sect r.feeder = false := by
    unfold State.wouldConflict State.swapPending
    rw [hn]
    rfl
  unfold State.exitReserved
  rw [if_pos (by rw [he, hc]; rfl)]

omit hr in
theorem State.exitGranted_ctx (r : Holding) : (v.exitGranted i r).ctx i
    = { Context.settled { v.ctx i with hold := some r, gap := GapFields.clear } .drawing with
        levelAtGrant := (v.ctx i).levelAtGrant, grantExpiry := (v.ctx i).crossedExpiry } := by
  unfold State.exitGranted
  dsimp only
  rw [State.sendGrt_ctx, State.modCtx_ctx_self]
  unfold State.joinOrder
  rw [State.modFdr_ctx', State.setGap_ctx, if_pos rfl, State.setHold_ctx, if_pos rfl]

omit hr in
theorem State.sendGrt_budgets (v : State) (i : Slot) (tag : Byte) (f : FeederId) (x : SectionId) :
    (v.sendGrt i tag).fdr f = v.fdr f ∧ (v.sendGrt i tag).load x = v.load x := by
  unfold State.sendGrt
  dsimp only
  split
  · exact ⟨rfl, rfl⟩
  · unfold State.fdr State.load
    rw [State.sendNormal_feeders, State.sendNormal_loads]
    exact ⟨rfl, rfl⟩

/-- A reservation that turns into a grant moves no budget. -/
theorem State.exitGranted_budgets (hh : (v.ctx i).hold = none) (f : FeederId) (x : SectionId) :
    ((v.exitGranted i r).fdr f).committed = (v.fdr f).committed ∧ (v.exitGranted i r).load x = v.load x := by
  have hc : ((v.setHold i (some r)).ctx i).gap.reserved = some r := by rw [State.setHold_ctx, if_pos rfl]; exact hr
  have hfd : ((v.exitGranted i r).fdr f).committed = (((v.setHold i (some r)).setGap i GapFields.clear).fdr f).committed := by
    unfold State.exitGranted
    dsimp only
    rw [(State.sendGrt_budgets _ _ _ f x).1]
    unfold State.joinOrder
    rw [State.modCtx_fdr']
    by_cases h : r.feeder = f
    · subst h
      rw [State.modFdr_fdr_self]
    · rw [State.modFdr_fdr_other _ _ h]
  have hlo : (v.exitGranted i r).load x = ((v.setHold i (some r)).setGap i GapFields.clear).load x := by
    unfold State.exitGranted
    dsimp only
    rw [(State.sendGrt_budgets _ _ _ f x).2]
    unfold State.joinOrder
    rw [State.modCtx_load', State.modFdr_load']
  rw [hfd, hlo, State.setGap_committed, State.setGap_load, State.setHold_committed, State.setHold_load, hc, hh]
  exact ⟨by simp [heldOn, GapFields.clear, GapFields.reserved], by simp [heldIn, GapFields.clear, GapFields.reserved]⟩

section
variable (he : (v.sec r.sect).state ≠ .energised)
include he

omit hr in
theorem State.exitReserved_held (hf : (v.ctx i).holdFlag = true) : Dismissed v i .held (v.exitReserved i r) := by
  unfold State.exitReserved
  rw [if_neg (by rw [Bool.and_eq_true]; exact fun h => he (beq_iff_eq.1 h.1)), if_pos hf]
  exact (Dismissed.refuse v i .held).arbitrate _

omit hr in
theorem State.exitReserved_awaits (hf : (v.ctx i).holdFlag = false) {w : Option Place} (hl : v.Listed i w) :
    Awaits i r.feeder (v.ctx i).grantLevel r.sect .carryOver (((v.ctx i).asking.left .tracked).settled .queued) (v.exitReserved i r) := by
  unfold State.exitReserved
  rw [if_neg (by rw [Bool.and_eq_true]; exact fun h => he (beq_iff_eq.1 h.1)), if_neg (by rw [hf]; exact Bool.false_ne_true)]
  exact ((State.askQueued_awaits hl r.feeder r.sect).arbitrate _).deferIfQueued i _

end
end

/-! ### With an entry (R100) -/

section
variable {m : Membership} (hr : (v.ctx i).gap.reserved = none) (hm : v.memberOf i = some m)
include hr hm

theorem State.exitTarget_listed (x : SectionId) : v.exitTarget i x = v.exitEntry i m := by
  unfold State.exitTarget
  rw [hr, hm]

omit hr hm in
theorem State.exitEntry_held (hf : (v.ctx i).holdFlag = true) : Dismissed v i .held (v.exitEntry i m) := by
  unfold State.exitEntry
  rw [if_pos hf]
  exact (Dismissed.refuse v i .held).arbitrate _

omit hr in
/-- An entry made in the crossing waits on where it stands. -/
theorem State.exitEntry_awaits (hf : (v.ctx i).holdFlag = false) {w : Option Place} (hl : v.Listed i w) :
    Awaits i m.feeder m.level m.entry.sect m.entry.mark (Context.settled { (v.ctx i).asking with gap := GapFields.clear } .queued)
      (v.exitEntry i m) := by
  obtain rfl := hl.of_memberOf hm
  have hs : m.entry.slot = i := (hl.mem_iff.2 rfl).2
  have he : (⟨i, m.entry.sect, m.entry.mark⟩ : Entry) = m.entry := by rw [← hs]
  unfold State.exitEntry
  rw [if_neg (by rw [hf]; exact Bool.false_ne_true)]
  dsimp only
  refine ((Awaits.wake (.inl ⟨?_, rfl, ?_⟩) _).arbitrate _).deferIfQueued i _
  · rw [State.modCtxTold_ctx, if_pos rfl, State.setGap_ctx, if_pos rfl, State.askForCrossing_ctx]
  · rw [he]
    exact ((State.Listed.congr hl (.modCtx _ _ _)).congr (.setGap _ _ _)).congr (.modCtxTold _ _ _)

end

/-! ### With neither (R100) -/

section
variable (hr : (v.ctx i).gap.reserved = none) (hm : v.memberOf i = none)

include hr hm in
theorem State.exitTarget_bare (x : SectionId) : v.exitTarget i x = v.exitEmpty i x := by
  unfold State.exitTarget
  rw [hr, hm]

theorem State.exitEmpty_refused {x : SectionId} {q : Refuse} (hp : v.place (.sect x) = .refused q) : Dismissed v i q (v.exitEmpty i x) := by
  unfold State.exitEmpty
  rw [hp]
  exact Dismissed.refuse v i q

section
variable {x y : SectionId} {f : FeederId} (hp : v.place (.sect x) = .placed y f)
include hp

theorem State.exitEmpty_held (hf : (v.ctx i).holdFlag = true) : Dismissed v i .held (v.exitEmpty i x) := by
  unfold State.exitEmpty
  rw [hp]
  dsimp only
  rw [if_pos hf]
  exact Dismissed.refuse v i .held

theorem State.exitEmpty_awaits (hf : (v.ctx i).holdFlag = false) {w : Option Place} (hl : v.Listed i w) :
    Awaits i f (v.ctx i).grantLevel y .carryOver (((v.ctx i).asking.left .tracked).settled .queued) (v.exitEmpty i x) := by
  unfold State.exitEmpty
  rw [hp]
  dsimp only
  rw [if_neg (by rw [hf]; exact Bool.false_ne_true)]
  exact ((State.askQueued_awaits hl f y).arbitrate _).deferIfQueued i _

end
end
end

end Sys2Proof.Machine
end

section
/-! PROOFS. The exits of a crossing into its origin (R101). -/

namespace Sys2Proof.Machine
open Sys2Proof

/-- The context of a crossing that gave up its target side and asks again (R101). -/
def Context.returning (c : Context) : Context := Context.asking { c with gap := { c.gap with feeder := none } }

theorem State.place_of_served {s t : State} (h : Served s t) (r : Resolution) : t.place r = s.place r := by
  unfold State.place
  simp only [(SameMap.of_served h).feederOf, h.states, (h.records _).2.1]

section
variable {v : State} {i : Slot}

/-- The state in which the origin side is decided. -/
def State.returned (v : State) (i : Slot) : State := ((v.dropTarget i).arbitrateOn (v.targetTouches i)).askForCrossing i

theorem State.reversal_eq (x : SectionId) : v.reversal i x = (v.returned i).decideOrigin i x := rfl

theorem State.returned_place (v : State) (i : Slot) (r : Resolution) : (v.returned i).place r = v.place r := by
  have h1 : (v.dropTarget i).place r = v.place r :=
    State.place_congr (.of_holders ((HoldersOnly.dropEntry v i).trans (HoldersOnly.setGap _ _ _)))
      (((SameDesk.refl v).dropEntry i).setGap i _) (((IdleOnly.refl v).dropEntry i).setGap i _) r
  exact (State.place_of_served (Served.arbitrateOn (v.dropTarget i) (v.targetTouches i)) r).trans h1

theorem State.returned_listed {w : Option Place} (hl : v.Listed i w) : (v.returned i).Listed i none
    ∧ (v.returned i).ctx i = (v.ctx i).returning := by
  obtain ⟨h1, h2⟩ := State.Tidy.dropTarget_places hl
  obtain ⟨h3, h4⟩ := State.arbitrateOn_unlisted h1 (v.targetTouches i)
  refine ⟨h3.congr (.modCtx _ _ _), ?_⟩
  unfold State.returned
  rw [State.askForCrossing_ctx, h4, h2]
  rfl

/-! ### The decision on the origin side -/

theorem State.decideOrigin_refused {x : SectionId} {q : Refuse} (hp : v.place (.sect x) = .refused q) : Dismissed v i q (v.decideOrigin i x) := by
  unfold State.decideOrigin
  rw [hp]
  exact Dismissed.refuse v i q

section
variable {x y : SectionId} {f : FeederId} (hp : v.place (.sect x) = .placed y f)
include hp

theorem State.decideOrigin_grants (hg : v.grantsDirect i f y = true) : v.decideOrigin i x = v.reverseGranted i f y := by
  unfold State.decideOrigin
  rw [hp]
  exact if_pos hg

section
variable (hg : v.grantsDirect i f y = false)
include hg

theorem State.decideOrigin_held (hf : (v.ctx i).holdFlag = true) : Dismissed v i .held (v.decideOrigin i x) := by
  unfold State.decideOrigin
  rw [hp]
  dsimp only
  rw [if_neg (by rw [hg]; exact Bool.false_ne_true), if_pos hf]
  exact Dismissed.refuse v i .held

theorem State.decideOrigin_awaits (hf : (v.ctx i).holdFlag = false) {w : Option Place} (hl : v.Listed i w) :
    Awaits i f (v.ctx i).grantLevel y .carryOver (((v.ctx i).left .tracked).settled .queued) (v.decideOrigin i x) := by
  unfold State.decideOrigin
  rw [hp]
  dsimp only
  rw [if_neg (by rw [hg]; exact Bool.false_ne_true), if_neg (by rw [hf]; exact Bool.false_ne_true)]
  exact ((State.exitQueued_awaits hl f y).arbitrate _).deferIfQueued i _

end
end

theorem State.reverseGranted_ctx (v : State) (i : Slot) (f : FeederId) (x : SectionId) : (v.reverseGranted i f x).ctx i
    = { Context.settled { v.ctx i with gap := GapFields.clear, hold := some ⟨(v.setGap i GapFields.clear).candidate i f x, f, x⟩ } .drawing with
        levelAtGrant := some (v.ctx i).req.level, grantExpiry := (v.ctx i).crossedExpiry } := by
  unfold State.reverseGranted
  dsimp only
  rw [State.sendGrt_ctx, State.Tidy.grantDirect_ctx, State.setGap_ctx, if_pos rfl]

/-- Every decision on the origin side clears the gap fields and leaves the crossing. -/
theorem State.decideOrigin_leaves {w : Option Place} (hl : v.Listed i w) {x y : SectionId} {f : FeederId} (hp : v.place (.sect x) = .placed y f) :
    ((v.decideOrigin i x).ctx i).gap = GapFields.clear
    ∧ ((v.decideOrigin i x).ctx i).state ∈ [CtxState.tracked, .queued, .offered, .drawing] := by
  by_cases hg : v.grantsDirect i f y = true
  · rw [State.decideOrigin_grants hp hg, State.reverseGranted_ctx]
    exact ⟨rfl, (by decide : CtxState.drawing ∈ [CtxState.tracked, .queued, .offered, .drawing])⟩
  · have hg : v.grantsDirect i f y = false := by simpa using hg
    by_cases hf : (v.ctx i).holdFlag = true
    · rw [(State.decideOrigin_held hp hg hf).1]
      exact ⟨rfl, (by decide : CtxState.tracked ∈ [CtxState.tracked, .queued, .offered, .drawing])⟩
    · have ha := State.decideOrigin_awaits hp hg (by simpa using hf) hl
      refine ⟨ha.gap, ?_⟩
      rcases ha.state with h | h <;> rw [h] <;> decide

/-! ### A crossing that holds nothing on the target side -/

section
variable (hf : (v.ctx i).gap.feeder = none) (hm : v.memberOf i = none)
include hf hm

/-- Nothing is given up and nothing is arbitrated. -/
theorem State.returned_bare : v.returned i = (v.setGap i { (v.ctx i).gap with feeder := none }).askForCrossing i := by
  have hr : (v.ctx i).gap.reserved = none := by
    unfold GapFields.reserved
    rw [hf]
  have hd : v.dropEntry i = v := by
    unfold State.dropEntry
    rw [hm]
  have ht : ∀ g, v.targetTouches i g = false := fun g => by
    unfold State.targetTouches
    rw [hr, hm]
    rfl
  have ha : ∀ t : State, t.arbitrateOn (v.targetTouches i) = t := fun t => by
    unfold State.arbitrateOn
    rw [List.filter_eq_nil_iff.2 fun g _ => by rw [ht g]; exact Bool.false_ne_true]
    rfl
  unfold State.returned State.dropTarget
  rw [ha, hd]

theorem State.returned_budgets (f : FeederId) (x : SectionId) : (v.returned i).fdr f = v.fdr f ∧ (v.returned i).load x = v.load x
    ∧ ((v.returned i).sec x).state = (v.sec x).state ∧ (v.returned i).entry x = v.entry x ∧ (v.returned i).normalQueue = v.normalQueue := by
  have hr : (v.ctx i).gap.reserved = none := by
    unfold GapFields.reserved
    rw [hf]
  have hk : GapFields.reserved { (v.ctx i).gap with feeder := none } = none := rfl
  have hh := HoldersOnly.setGap v i { (v.ctx i).gap with feeder := none }
  rw [State.returned_bare hf hm]
  refine ⟨?_, ?_, hh.states x, ?_, ?_⟩
  · exact (State.setGap_fdr_of_none hr _ f).trans (by rw [hk]; rfl)
  · exact (State.setGap_load v i _ x).trans (by rw [hk, hr]; rfl)
  · show (v.setGap i _).entry x = _
    rw [hh.rest]
    rfl
  · show (v.setGap i _).normalQueue = _
    rw [hh.rest]

end
end

end Sys2Proof.Machine
end

section
/-! PROOFS. A state with other contexts, and the terms of a reversal grant (R64, R67, R101). -/

namespace Sys2Proof.Machine
open Sys2Proof

/-- The states differ in what a report stores alone: the contexts, the assembler and the counters. -/
def Recontexted (s v : State) : Prop := ∃ a k c, v = { s with asmW := a, counters := k, contexts := c }

namespace Recontexted
variable {s v : State}

theorem stored (s : State) (i : Slot) (p : Report) : Recontexted s (s.stored i p) := by
  obtain ⟨a, k, c, h⟩ := s.stored_rest i p
  exact ⟨a, _, c, h⟩

variable (h : Recontexted s v)
include h

theorem modCtx (i : Slot) (g : Context → Context) : Recontexted s (v.modCtx i g) := by
  obtain ⟨a, k, c, rfl⟩ := h
  exact ⟨a, k, _, rfl⟩

theorem globals : v.globals = s.globals := by obtain ⟨a, k, c, rfl⟩ := h; rfl
theorem gapEntry : v.gapEntry = s.gapEntry := by obtain ⟨a, k, c, rfl⟩ := h; rfl
theorem entry : v.entry = s.entry := by obtain ⟨a, k, c, rfl⟩ := h; rfl
theorem feederOf : v.feederOf = s.feederOf := by obtain ⟨a, k, c, rfl⟩ := h; rfl
theorem sec : v.sec = s.sec := by obtain ⟨a, k, c, rfl⟩ := h; rfl
theorem fdr : v.fdr = s.fdr := by obtain ⟨a, k, c, rfl⟩ := h; rfl
theorem load : v.load = s.load := by obtain ⟨a, k, c, rfl⟩ := h; rfl
theorem swap : v.swap = s.swap := by obtain ⟨a, k, c, rfl⟩ := h; rfl
theorem place : v.place = s.place := by obtain ⟨a, k, c, rfl⟩ := h; rfl
theorem normalQueue : v.normalQueue = s.normalQueue := by obtain ⟨a, k, c, rfl⟩ := h; rfl
theorem memberOf (i : Slot) : v.memberOf i = s.memberOf i := by obtain ⟨a, k, c, rfl⟩ := h; rfl

theorem listed {i : Slot} {w : Option Place} (hl : s.Listed i w) : v.Listed i w := by
  obtain ⟨a, k, c, rfl⟩ := h
  exact hl

end Recontexted

theorem Context.crossedExpiry_eq (c : Context) : c.crossedExpiry = c.gap.carried.or (some (c.cls.maxHold * 1000)) := by
  unfold Context.crossedExpiry
  cases c.gap.carried <;> rfl

section
variable {v : State} {i : Slot}

/-- Clearing gap fields that reserve nothing leaves the candidate amounts. -/
theorem State.setGap_candidate (hr : (v.ctx i).gap.reserved = none) (f : FeederId) (x : SectionId) :
    (v.setGap i GapFields.clear).candidate i f x = v.candidate i f x := by
  have hc : (v.setGap i GapFields.clear).ctx i = { v.ctx i with gap := GapFields.clear } := by rw [State.setGap_ctx, if_pos rfl]
  have hf : (v.setGap i GapFields.clear).feederRoom f = v.feederRoom f := by
    unfold State.feederRoom
    rw [State.setGap_fdr_of_none hr]
    rfl
  have hx : (v.setGap i GapFields.clear).sectionRoom x = v.sectionRoom x := by
    have he : (v.setGap i GapFields.clear).entry x = v.entry x := by
      rw [(HoldersOnly.setGap v i _).rest]
      rfl
    rw [State.sectionRoom_eq, State.sectionRoom_eq, he, State.setGap_load, hr]
    rfl
  unfold State.candidate
  rw [hc, hf, hx]

section
variable (hf : (v.ctx i).gap.feeder = none) (hm : v.memberOf i = none)
include hf hm

/-- What a crossing that returns may be granted. -/
theorem State.returned_candidate {w : Option Place} (hl : v.Listed i w) (f : FeederId) (x : SectionId) : (v.returned i).candidate i f x
    = min (min (v.ctx i).gap.amount ((v.fdr f).config.capacity - (v.fdr f).config.reserve - (v.fdr f).committed))
        (min (v.sectionRoom x) (v.ctx i).cls.cap) := by
  obtain ⟨h1, h2, -, h4, -⟩ := State.returned_budgets hf hm f x
  unfold State.candidate State.feederRoom
  rw [State.sectionRoom_eq, State.sectionRoom_eq, (State.returned_listed hl).2, h1, h2, h4]
  rfl

/-- When a crossing that returns is granted at once. -/
theorem State.returned_direct {w : Option Place} (hl : v.Listed i w) (hn : v.swap = .none) (f : FeederId) (x : SectionId) :
    (v.returned i).grantsDirect i f x = true ↔ (v.fdr f).wait1 = [] ∧ (v.fdr f).wait2 = [] ∧ (v.sec x).state = .energised
      ∧ (v.fdr f).state = .online
      ∧ min (v.ctx i).req.minimum (v.ctx i).gap.amount ≤ (v.returned i).candidate i f x ∧ 0 < (v.returned i).candidate i f x := by
  obtain ⟨h1, -, h3, -⟩ := State.returned_budgets hf hm f x
  have hs : (v.returned i).swap = .none := by
    rw [State.returned_bare hf hm]
    show (v.setGap i _).swap = _
    rw [(HoldersOnly.setGap v i _).rest]
    exact hn
  rw [State.grantsDirect_iff hs, h1, h3, (State.returned_listed hl).2]
  rfl

end
end

end Sys2Proof.Machine
end

section
/-! PROOFS. What position reports move, drop and carry over. -/

namespace Sys2Proof.Machine
open Sys2Proof

section
variable {s : State} {i : Slot} {truck : Byte} {p : Report}

/-- What a report leaves when it has acted, been copied and woken what it heads for. -/
def State.psnLeaves (s : State) (i : Slot) (p : Report) : State := ((s.stored i p).acted i).reported i p (s.resolve p.chainage)

theorem State.dispatchPsn_psnLeaves (h : s.slotOf truck = some i) (hn : s.swap = .none)
    (hl : ¬(s.resolve p.chainage = .offMap ∧ p.pantograph = .lowered) ∨ (s.ctx i).state = .drawing) :
    s.goodW.dispatchPsn truck p = s.psnLeaves i p := State.dispatchPsn_acts h hn hl

theorem State.psnLeaves_ctx (s : State) (i : Slot) (p : Report) : (s.psnLeaves i p).ctx i = ((s.stored i p).acted i).ctx i :=
  State.reported_ctx _ _ _ _ _

theorem State.psnLeaves_latches (s : State) (i : Slot) (p : Report) : (s.psnLeaves i p).latches = ((s.stored i p).acted i).latches :=
  (State.reported_rest _ _ _ _).2.2.2.2.1

/-- The context of a report in DRAWING with its overdraw count settled. -/
def Context.drawn (c : Context) (n : Nat) : Context := { c with overdraw := n }

section
variable {h : Holding} (hs : (s.ctx i).state = .drawing) (hh : (s.ctx i).hold = some h)
include hs hh

/-- A report that draws no more than its grant and the margin clears the overdraw count, then moves the grant. -/
theorem State.psnDrawing_within (hd : p.drawn ≤ h.amount + s.globals.overdrawMargin) : ∃ w : State, Recontexted s w
    ∧ w.ctx i = ((s.ctx i).storing s p).drawn 0 ∧ (s.stored i p).acted i = (w.admissionReport i).gapReport i := by
  have hc := s.stored_ctx i p
  have hr := Recontexted.stored s i p
  have he := State.countOverdraw_within (v := s.stored i p) (i := i) (h := h) (by rw [hc]; exact hs) (by rw [hc]; exact hh)
    (by rw [hc, hr.globals]; exact hd)
  refine ⟨_, hr.modCtx i _, ?_, by unfold State.acted; rw [he]⟩
  rw [State.modCtx_ctx_self, hc]
  rfl

section
variable (hd : h.amount + s.globals.overdrawMargin < p.drawn)
include hd

theorem State.psnDrawing_counts (ho : (s.ctx i).overdraw < 2) : ∃ w : State, Recontexted s w
    ∧ w.ctx i = ((s.ctx i).storing s p).drawn ((s.ctx i).overdraw + 1) ∧ (s.stored i p).acted i = (w.admissionReport i).gapReport i := by
  have hc := s.stored_ctx i p
  have hr := Recontexted.stored s i p
  have he := State.countOverdraw_counts (v := s.stored i p) (i := i) (h := h) (by rw [hc]; exact hs) (by rw [hc]; exact hh)
    (by rw [hc, hr.globals]; exact hd) (by rw [hc]; exact ho)
  refine ⟨_, hr.modCtx i _, ?_, by unfold State.acted; rw [he]⟩
  rw [State.modCtx_ctx_self, hc]
  rfl

/-- The third overdraw in a row is reported and strikes. -/
theorem State.psnDrawing_strikes (ho : 2 ≤ (s.ctx i).overdraw) : ∃ w : State, w.globals = s.globals ∧ w.latches.getLsbD 21 = true
    ∧ w.ctx i = (((s.ctx i).storing s p).drawn 0).afterStrike s.globals ∧ (s.stored i p).acted i = (w.admissionReport i).gapReport i := by
  have hc := s.stored_ctx i p
  have hr := Recontexted.stored s i p
  have he := State.countOverdraw_strikes (v := s.stored i p) (i := i) (h := h) (by rw [hc]; exact hs) (by rw [hc]; exact hh)
    (by rw [hc, hr.globals]; exact hd) (by rw [hc]; exact ho)
  have hl := (s.stored i p).report_latch .overdraw ((s.stored i p).ctx i).address.toNat ((s.stored i p).ctx i).pos.drawn
  have hx := (s.stored i p).report_ctx .overdraw ((s.stored i p).ctx i).address.toNat ((s.stored i p).ctx i).pos.drawn i
  have hg := (s.stored i p).report_globals .overdraw ((s.stored i p).ctx i).address.toNat ((s.stored i p).ctx i).pos.drawn
  rw [hr.globals] at hg
  generalize (s.stored i p).report .overdraw _ _ = u at he hl hx hg
  rw [hc] at hx
  have hu : (u.modCtx i (fun c => { c with overdraw := 0 })).ctx i = ((s.ctx i).storing s p).drawn 0 := by
    rw [State.modCtx_ctx_self, hx]
    rfl
  have hon : Onward u ((u.modCtx i (fun c => { c with overdraw := 0 })).strike i) := ((Onward.refl u).modCtx i _).strike i
  refine ⟨_, hon.globals.trans hg, hon.latches 21 hl, ?_, by unfold State.acted; rw [he]⟩
  rw [State.strike_ctx (by rw [hu]; exact .inl hs), hu]
  exact congrArg _ hg

end
end
end

end Sys2Proof.Machine
end

section
/-! PROOFS. What position reports come to: drops that strike, crossings that wait, are granted or dismissed. -/

namespace Sys2Proof.Machine
open Sys2Proof

theorem GapEntry.approachTarget_eq (e : GapEntry) (h : Heading) : e.approachTarget h = if h = .down then e.lower else e.upper := by
  cases h <;> rfl

theorem Context.faulted_drawing {c : Context} (h : c.state = .drawing) (n : Nat) : c.faulted n = { c with
    state := .dropping, grantExpiry := none, overdraw := 0, dropReason := some .fault, dropDeadline := tenths n
    withdraw := some ⟨.fault, false⟩ } := by
  unfold Context.faulted
  rw [h]

theorem State.inArcPlace_iff {v : State} {i : Slot} : v.inArcPlace i = true ↔
    (∃ g, (v.ctx i).pos.resolution = .gap g ∧ (v.gapEntry g).bridgeable = false)
    ∨ ((v.ctx i).state = .dropping ∧ (v.ctx i).dropReason = some .gap)
      ∧ ∃ x, (v.ctx i).pos.resolution = .sect x ∧ (v.ctx i).gap.target = some x := by
  unfold State.inArcPlace Context.dropsForGap
  dsimp only
  cases (v.ctx i).pos.resolution <;> simp

theorem Context.faulted_dropping {c : Context} (h : c.state = .dropping) (n : Nat) : c.faulted n = { c with
    dropReason := some .fault, withdraw := some ⟨.fault, false⟩, gap := if c.dropsForGap then GapFields.clear else c.gap } := by
  unfold Context.faulted
  rw [h]

theorem Context.faulted_crossing {c : Context} (h : c.state = .crossing) (n : Nat) :
    c.faulted n = { c.left .faulted with withdraw := some ⟨.fault, true⟩ } := by
  unfold Context.faulted
  rw [h]
  rfl

/-- A crossing holds no grant. -/
theorem State.contextFits.hold_of_crossing_stored {s : State} {i : Slot} (h : s.contextFits i) (hs : (s.ctx i).state = .crossing) {p : Report} :
    ((s.stored i p).ctx i).hold = none := by
  have hh := h.1
  rw [hs] at hh
  rw [State.stored_ctx]
  show (s.ctx i).hold = none
  simpa using hh

/-- A section that refuses no request is placed on its feeder. -/
theorem State.place_unrefused {s : State} {y : SectionId} (h : s.refusalOf (.sect y) = none) : ∃ f, s.place (.sect y) = .placed y f := by
  have hf : ∃ f, s.feederOf y = some f := by
    unfold State.refusalOf at h
    dsimp only at h
    split at h
    · cases h
    · split at h
      next hf => exact ⟨hf.choose, hf.choose_spec.1⟩
      next => cases h
  exact ⟨hf.choose, State.place_placed h hf.choose_spec⟩

/-- What a report leaves that ends in a wait or its offer. -/
theorem State.psnLeaves_awaits {s : State} {i : Slot} {p : Report} {f : FeederId} {l : Level} {x : SectionId} {k : Mark} {c : Context} {t : State}
    (ha : (s.stored i p).acted i = t) (h : Awaits i f l x k c t) : Awaits i f l x k c (s.psnLeaves i p) := by
  unfold State.psnLeaves
  rw [ha]
  exact h.reported _

/-- What a report leaves that ends in a refusal. -/
theorem State.psnLeaves_dismissed {s u : State} {i : Slot} {p : Report} {k : Refuse} {t : State} (ha : (s.stored i p).acted i = t)
    (h : Dismissed u i k t) (hn : u.normalQueue = s.normalQueue) : (s.psnLeaves i p).ctx i = (u.ctx i).left .tracked
    ∧ (s.normalQueue.length < 32 → (s.psnLeaves i p).normalQueue[s.normalQueue.length]?
        = some ⟨0x24, (u.ctx i).truck.getD 0, 0, (u.ctx i).req.tag.getD 0, [byte k.code]⟩) := by
  have ht := State.told_of_giveUp (h.2.trans (Onward.reported t i p (s.resolve p.chainage)))
  rw [hn] at ht
  refine ⟨?_, fun hq => ?_⟩
  · rw [State.psnLeaves_ctx, ha, h.1]
  · unfold State.psnLeaves
    rw [ha]
    exact ht hq

/-- A truck that overdraw excluded draws still: its withdrawal is set again. -/
theorem State.drawing_excluded {v : State} {i : Slot} (hs : (v.ctx i).state = .dropping) (hr : (v.ctx i).dropReason = some .fault)
    (hc : v.carriesCurrent i = true) (ho : ∀ g, (v.ctx i).pos.resolution ≠ .gap g) :
    (v.admissionReport i).gapReport i = v.setWithdraw i .fault false := by
  have he : v.countOverdraw i = v := State.countOverdraw_still (by rw [hs]; decide)
  have ha := State.dropping_quiet hs hr hc (.inr (State.inArcPlace_outside ho (by rw [hr]; decide)))
  unfold State.acted at ha
  rwa [he] at ha

end Sys2Proof.Machine
end

section
/-! PROOFS. Position reports in DRAWING and DROPPING, clause by clause (R27, R61 to R64, R91, R93, R95, R96). -/

namespace Sys2Proof.Machine
open Sys2Proof

/-! ### What a report may come to -/

/-- The report carries current above the zero threshold with the pantograph not lowered (R62, R93). -/
def Report.carries (p : Report) (g : Globals) : Prop := g.zeroThreshold < p.drawn ∧ p.pantograph ≠ .lowered

/-- The holding drops for the reason, with the deadline in tenths of a second (R60). -/
def DropsFor (i : Slot) (h : Holding) (r : Reason) (deadline : Nat) (t : State) : Prop :=
  (t.ctx i).state = .dropping ∧ (t.ctx i).dropReason = some r ∧ (t.ctx i).dropDeadline = some (deadline * 100)
  ∧ (t.ctx i).hold = some h ∧ (t.ctx i).grantExpiry = none ∧ (t.ctx i).withdraw = some ⟨r, false⟩

/-- The context ends TRACKED with nothing held and no other withdrawal than before. -/
def EndsTracked (i : Slot) (c : Context) (t : State) : Prop :=
  (t.ctx i).state = .tracked ∧ (t.ctx i).hold = none ∧ (t.ctx i).gap = GapFields.clear ∧ (t.ctx i).withdraw = c.withdraw

/-- The truck is told the refusal in the place that the queue has next. -/
def IsTold (s : State) (truck : Byte) (c : Context) (code : Byte) (t : State) : Prop :=
  s.normalQueue.length < 32 → t.normalQueue[s.normalQueue.length]? = some ⟨0x24, truck, 0, c.req.tag.getD 0, [code]⟩

/-- The context waits at the place, or has the offer made from it, with its gap fields cleared. -/
def WaitsClear (i : Slot) (f : FeederId) (l : Level) (y : SectionId) (k : Mark) (t : State) : Prop :=
  (t.ctx i).gap = GapFields.clear
  ∧ ((t.ctx i).state = .queued ∧ (t.memberOf i).map (fun m => (m.feeder, m.level, m.entry)) = some (f, l, ⟨i, y, k⟩)
    ∨ (t.ctx i).state = .offered ∧ (t.ctx i).hold.map (fun h => (h.feeder, h.sect)) = some (f, y))

theorem Awaits.clear {i : Slot} {f : FeederId} {l : Level} {y : SectionId} {k : Mark} {c : Context} {t : State} (h : Awaits i f l y k c t)
    (hg : c.gap = GapFields.clear) : WaitsClear i f l y k t := ⟨h.gap.trans hg, h.waits⟩

section
variable {s : State} {i : Slot} {p : Report}

theorem State.stored_carries : (s.stored i p).carriesCurrent i = true ↔ p.carries s.globals := by
  rw [State.carriesCurrent_iff, s.stored_ctx i p, (Recontexted.stored s i p).globals]
  exact Iff.rfl

theorem State.stored_idle (h : ¬p.carries s.globals) : (s.stored i p).carriesCurrent i = false := by
  rw [← Bool.not_eq_true]
  exact fun e => h (State.stored_carries.1 e)

/-! ### In DRAWING -/

section
variable {h : Holding} (hs : (s.ctx i).state = .drawing) (hh : (s.ctx i).hold = some h)
include hs hh

section
variable (hd : p.drawn ≤ h.amount + s.globals.overdrawMargin)
include hd

theorem State.psnDrawing_stands (hr : s.resolve p.chainage = .sect h.sect) (ha : s.approachOf p.heading (s.resolve p.chainage) p.chainage = none) :
    (s.psnLeaves i p).ctx i = ((s.ctx i).storing s p).drawn 0 := by
  obtain ⟨w, -, hwc, hact⟩ := State.psnDrawing_within (p := p) hs hh hd
  rw [State.psnLeaves_ctx, hact, State.drawing_here (by rw [hwc]; exact hs) (by rw [hwc]; exact hh) (by rw [hwc]; exact hr) (by rw [hwc]; exact ha)]
  exact hwc

theorem State.psnDrawing_offMap (hr : s.resolve p.chainage = .offMap) : DropsFor i h .offMap s.globals.ordinaryDrop (s.psnLeaves i p) := by
  obtain ⟨w, hw, hwc, hact⟩ := State.psnDrawing_within (p := p) hs hh hd
  unfold DropsFor
  rw [State.psnLeaves_ctx, hact, State.drawing_offMap (by rw [hwc]; exact hs) (by rw [hwc]; exact hh) (by rw [hwc]; exact hr),
    State.startDrop_ctx, if_pos rfl, hwc, hw.globals]
  exact ⟨rfl, rfl, rfl, hh, rfl, rfl⟩

/-- The conditions under which a grant moves to a section (R64). -/
def State.movesTo (s : State) (i : Slot) (h : Holding) (x : SectionId) : Prop :=
  s.feederOf x = some h.feeder ∧ (s.sec x).state = .energised ∧ (s.ctx i).req.minimum ≤ s.sectionRoom x ∧ 0 < s.sectionRoom x

omit hs hh hd in
theorem Recontexted.canMove_iff {w : State} {n : Nat} (hw : Recontexted s w) (hwc : w.ctx i = ((s.ctx i).storing s p).drawn n) (x : SectionId) :
    w.canMove i h x = true ↔ s.movesTo i h x := by
  rw [State.canMove_iff, State.sectionRoom_eq, hw.feederOf, hw.sec, hw.entry, hw.load, hwc, ← State.sectionRoom_eq]
  exact Iff.rfl

section
variable {x : SectionId} (hr : s.resolve p.chainage = .sect x) (hx : x ≠ h.sect)
include hr hx

theorem State.psnDrawing_leaves (hm : ¬s.movesTo i h x) : DropsFor i h .reposition s.globals.ordinaryDrop (s.psnLeaves i p) := by
  obtain ⟨w, hw, hwc, hact⟩ := State.psnDrawing_within (p := p) hs hh hd
  unfold DropsFor
  rw [State.psnLeaves_ctx, hact, State.drawing_leaves (by rw [hwc]; exact hs) (by rw [hwc]; exact hh) (by rw [hwc]; exact hr) hx
    (fun e => hm ((hw.canMove_iff hwc x).1 e)), State.startDrop_ctx, if_pos rfl, hwc, hw.globals]
  exact ⟨rfl, rfl, rfl, hh, rfl, rfl⟩

theorem State.psnDrawing_moves (hm : s.movesTo i h x) (ha : s.approachOf p.heading (s.resolve p.chainage) p.chainage = none) :
    (s.psnLeaves i p).ctx i = { ((s.ctx i).storing s p).drawn 0 with hold := some ⟨min h.amount (s.sectionRoom x), h.feeder, x⟩ } := by
  obtain ⟨w, hw, hwc, hact⟩ := State.psnDrawing_within (p := p) hs hh hd
  have hws : (w.ctx i).state = .drawing := by rw [hwc]; exact hs
  rw [State.psnLeaves_ctx, hact, State.drawing_moves hws (by rw [hwc]; exact hh) (by rw [hwc]; exact hr) hx
    ((hw.canMove_iff hwc x).2 hm) (by rw [hwc]; exact ha), State.moveGrant_ctx hws x, hwc, State.sectionRoom_eq, hw.entry, hw.load,
    ← State.sectionRoom_eq]

end

theorem State.psnDrawing_approaches {g : GapId} (hr : s.resolve p.chainage = .sect h.sect)
    (ha : s.approachOf p.heading (s.resolve p.chainage) p.chainage = some g) : DropsFor i h .gap s.globals.gapDrop (s.psnLeaves i p)
    ∧ ∃ f, ((s.psnLeaves i p).ctx i).gap
        = { (s.ctx i).startCrossing g (if p.heading = .down then (s.gapEntry g).lower else (s.gapEntry g).upper) h.amount with feeder := f } := by
  obtain ⟨w, hw, hwc, hact⟩ := State.psnDrawing_within (p := p) hs hh hd
  obtain ⟨f, hf⟩ := w.approachGap_ctx (i := i) (h := h) g
  unfold DropsFor
  rw [State.psnLeaves_ctx, hact, State.drawing_approaches (by rw [hwc]; exact hs) (by rw [hwc]; exact hh) (by rw [hwc]; exact hr)
    (by rw [hwc]; exact ha), hf, hwc, hw.globals, hw.gapEntry, GapEntry.approachTarget_eq]
  exact ⟨⟨rfl, rfl, rfl, hh, rfl, rfl⟩, f, rfl⟩

section
variable {g : GapId} (hr : s.resolve p.chainage = .gap g)
include hr

theorem State.psnDrawing_bridged (hb : (s.gapEntry g).bridgeable = true) : (s.psnLeaves i p).ctx i = ((s.ctx i).storing s p).drawn 0 := by
  obtain ⟨w, hw, hwc, hact⟩ := State.psnDrawing_within (p := p) hs hh hd
  rw [State.psnLeaves_ctx, hact, State.drawing_bridged (by rw [hwc]; exact hs) (by rw [hwc]; exact hh) (by rw [hwc]; exact hr)
    (by rw [hw.gapEntry]; exact hb), hwc]

/-- A jump with current is an arc risk, with a strike that may exclude the truck; a jump without is neither (R93, R95). -/
theorem State.psnDrawing_jumps (hb : (s.gapEntry g).bridgeable = false) : ((s.psnLeaves i p).ctx i).hold = none
    ∧ (¬p.carries s.globals ∨ ¬(s.ctx i).excludedBy s.globals → ((s.psnLeaves i p).ctx i).state = .crossing
      ∧ ((s.psnLeaves i p).ctx i).withdraw = some ⟨.gap, true⟩ ∧ ((s.psnLeaves i p).ctx i).gap.gapId = some g
      ∧ ((s.psnLeaves i p).ctx i).gap.amount = h.amount
      ∧ ((s.psnLeaves i p).ctx i).gap.crossing = some ((s.gapEntry g).crossingLimit * 1000))
    ∧ (¬p.carries s.globals → ((s.psnLeaves i p).ctx i).gap.arcReported = false ∧ ((s.psnLeaves i p).ctx i).strikes = (s.ctx i).strikes)
    ∧ (p.carries s.globals → (s.psnLeaves i p).latches.getLsbD 5 = true
      ∧ ((s.psnLeaves i p).ctx i).strikes = strikeCount (s.ctx i).strikes s.globals.strikeThreshold)
    ∧ (p.carries s.globals → ¬(s.ctx i).excludedBy s.globals → ((s.psnLeaves i p).ctx i).gap.arcReported = true)
    ∧ (p.carries s.globals → (s.ctx i).excludedBy s.globals → ((s.psnLeaves i p).ctx i).state = .faulted
      ∧ ((s.psnLeaves i p).ctx i).withdraw = some ⟨.fault, true⟩ ∧ ((s.psnLeaves i p).ctx i).gap = GapFields.clear) := by
  obtain ⟨w, hw, hwc, hact⟩ := State.psnDrawing_within (p := p) hs hh hd
  have hj : (w.admissionReport i).gapReport i = w.jumpGap i g h :=
    State.drawing_jumps (by rw [hwc]; exact hs) (by rw [hwc]; exact hh) (by rw [hwc]; exact hr) (by rw [hw.gapEntry]; exact hb)
  have hcar : w.carriesCurrent i = true ↔ p.carries s.globals := by
    rw [State.carriesCurrent_iff, hwc, hw.globals]
    exact Iff.rfl
  have hexc : (w.ctx i).excludedBy w.globals ↔ (s.ctx i).excludedBy s.globals := by
    rw [hwc, hw.globals]
    exact Iff.rfl
  have hlat : p.carries s.globals → (s.psnLeaves i p).latches.getLsbD 5 = true := fun hc => by
    rw [State.psnLeaves_latches, hact, hj]
    exact State.reportArc_latch (State.jumpGap_arcs g h (hcar.2 hc)).1
  rw [State.psnLeaves_ctx, hact, hj]
  by_cases hc : p.carries s.globals
  · by_cases hx : (s.ctx i).excludedBy s.globals
    · obtain ⟨k1, k2, k3, k4, k5⟩ := State.jumpGap_severe g h (hcar.2 hc) (hexc.2 hx)
      rw [hwc, hw.globals] at k5
      exact ⟨k4, fun h => (h.elim (· hc) (· hx)).elim, fun h => absurd hc h, fun _ => ⟨hlat hc, k5⟩, fun _ h => absurd hx h,
        fun _ _ => ⟨k1, k2, k3⟩⟩
    · obtain ⟨f, hf⟩ := State.jumpGap_mild g h (hcar.2 hc) (fun e => hx (hexc.1 e))
      rw [hf, hwc, hw.globals, hw.gapEntry]
      exact ⟨rfl, fun _ => ⟨rfl, rfl, rfl, rfl, rfl⟩, fun h => absurd hc h, fun _ => ⟨hlat hc, rfl⟩, fun _ _ => rfl,
        fun _ h => absurd h hx⟩
  · obtain ⟨f, hf⟩ := State.jumpGap_quiet g h (v := w) (i := i) (by rw [← Bool.not_eq_true]; exact fun e => hc (hcar.1 e))
    rw [hf, hwc, hw.gapEntry]
    exact ⟨rfl, fun _ => ⟨rfl, rfl, rfl, rfl, rfl⟩, fun _ => ⟨rfl, rfl⟩, fun h => absurd h hc, fun h => absurd h hc, fun h => absurd h hc⟩

end
end

section
variable (hd : h.amount + s.globals.overdrawMargin < p.drawn) (hr : s.resolve p.chainage = .sect h.sect)
include hd hr

theorem State.psnOverdraw_counts (ha : s.approachOf p.heading (s.resolve p.chainage) p.chainage = none) (ho : (s.ctx i).overdraw < 2) :
    (s.psnLeaves i p).ctx i = ((s.ctx i).storing s p).drawn ((s.ctx i).overdraw + 1) := by
  obtain ⟨w, -, hwc, hact⟩ := State.psnDrawing_counts (p := p) hs hh hd ho
  rw [State.psnLeaves_ctx, hact, State.drawing_here (by rw [hwc]; exact hs) (by rw [hwc]; exact hh) (by rw [hwc]; exact hr) (by rw [hwc]; exact ha)]
  exact hwc

section
variable (ho : 2 ≤ (s.ctx i).overdraw)
include ho

/-- The third overdraw of a truck that it excludes begins a drop for reason FAULT. -/
theorem State.psnOverdraw_excludes (hc : p.carries s.globals) (hx : (s.ctx i).excludedBy s.globals) :
    (s.psnLeaves i p).latches.getLsbD 21 = true
    ∧ ((s.psnLeaves i p).ctx i).strikes = strikeCount (s.ctx i).strikes s.globals.strikeThreshold ∧ ((s.psnLeaves i p).ctx i).overdraw = 0
    ∧ DropsFor i h .fault s.globals.ordinaryDrop (s.psnLeaves i p) := by
  obtain ⟨w, hwg, hwl, hwc, hact⟩ := State.psnDrawing_strikes (p := p) hs hh hd ho
  have hwd : ((((s.ctx i).storing s p).drawn 0).struck s.globals.strikeThreshold).state = .drawing := hs
  have hwc := (hwc.trans (Context.afterStrike_severe hx (.inl hs))).trans (Context.faulted_drawing hwd _)
  have hcar : w.carriesCurrent i = true := by
    rw [State.carriesCurrent_iff, hwc, hwg]
    exact hc
  have hk : (w.admissionReport i).gapReport i = w.setWithdraw i .fault false :=
    State.drawing_excluded (by rw [hwc]) (by rw [hwc]) hcar (by rw [hwc]; exact fun g e => Resolution.noConfusion (hr.symm.trans e))
  unfold DropsFor
  rw [State.psnLeaves_ctx, State.psnLeaves_latches, hact, hk, State.setWithdraw_ctx, if_pos rfl, hwc]
  exact ⟨hwl, rfl, rfl, rfl, rfl, rfl, hh, rfl, rfl⟩

/-- The third overdraw of a truck that it does not exclude counts a strike, and the grant stands. -/
theorem State.psnOverdraw_strikes (ha : s.approachOf p.heading (s.resolve p.chainage) p.chainage = none) (hx : ¬(s.ctx i).excludedBy s.globals) :
    (s.psnLeaves i p).latches.getLsbD 21 = true
    ∧ (s.psnLeaves i p).ctx i = (((s.ctx i).storing s p).drawn 0).struck s.globals.strikeThreshold := by
  obtain ⟨w, hwg, hwl, hwc, hact⟩ := State.psnDrawing_strikes (p := p) hs hh hd ho
  have hwc := hwc.trans (Context.afterStrike_mild (.inl hx))
  have hk : (w.admissionReport i).gapReport i = w :=
    State.drawing_here (by rw [hwc]; exact hs) (by rw [hwc]; exact hh) (by rw [hwc]; exact hr) (by rw [hwc]; exact ha)
  rw [State.psnLeaves_ctx, State.psnLeaves_latches, hact, hk]
  exact ⟨hwl, hwc⟩

end
end
end

/-! ### In DROPPING -/

section
variable {h : Holding} {reason : Reason} (hs : (s.ctx i).state = .dropping) (hh : (s.ctx i).hold = some h)
  (hr : (s.ctx i).dropReason = some reason)

/-- The report stands where the catenary is interrupted for a drop (R93). -/
def State.risksArc (s : State) (i : Slot) (p : Report) (reason : Reason) : Prop :=
  (∃ g, s.resolve p.chainage = .gap g ∧ (s.gapEntry g).bridgeable = false)
  ∨ reason = .gap ∧ ∃ x, s.resolve p.chainage = .sect x ∧ (s.ctx i).gap.target = some x

include hs hr in
theorem State.stored_inArcPlace : (s.stored i p).inArcPlace i = true ↔ s.risksArc i p reason := by
  have hrs : ((s.ctx i).storing s p).dropReason = some reason := hr
  have hss : ((s.ctx i).storing s p).state = .dropping := hs
  rw [State.inArcPlace_iff, s.stored_ctx i p, hrs, hss, (Recontexted.stored s i p).gapEntry]
  exact or_congr Iff.rfl (and_congr (by simp) Iff.rfl)

section
variable (hc : p.carries s.globals)
include hs hr hc

theorem State.psnDropping_quiet (hq : (s.ctx i).gap.arcReported = true ∨ ¬s.risksArc i p reason) :
    (s.psnLeaves i p).ctx i = { (s.ctx i).storing s p with withdraw := some ⟨reason, false⟩ } := by
  have hvc := s.stored_ctx i p
  have hp : ((s.stored i p).ctx i).gap.arcReported = true ∨ (s.stored i p).inArcPlace i = false := by
    rw [hvc]
    exact hq.imp id fun h => by rw [← Bool.not_eq_true]; exact fun e => h ((State.stored_inArcPlace hs hr).1 e)
  rw [State.psnLeaves_ctx, State.dropping_quiet (by rw [hvc]; exact hs) (by rw [hvc]; exact hr) (State.stored_carries.2 hc) hp,
    (State.setWithdraw_arcs _ i reason).1, hvc]

section
variable (ha : (s.ctx i).gap.arcReported = false) (hq : s.risksArc i p reason)
include ha hq

/-- The context on which the strike of an arc risk is counted. -/
theorem State.psnDropping_arcs : (s.psnLeaves i p).latches.getLsbD 5 = true ∧ (s.psnLeaves i p).ctx i
    = (Context.arced { (s.ctx i).storing s p with withdraw := some ⟨reason, false⟩ }).afterStrike s.globals := by
  have hvc := s.stored_ctx i p
  have := State.dropping_arcs (v := s.stored i p) (i := i) (by rw [hvc]; exact hs) (by rw [hvc]; exact hr) (State.stored_carries.2 hc)
    (by rw [hvc]; exact ha) ((State.stored_inArcPlace hs hr).2 hq)
  rwa [hvc, (Recontexted.stored s i p).globals, ← State.psnLeaves_ctx, ← State.psnLeaves_latches] at this

/-- A strike that turns the drop. -/
theorem State.psnDropping_excluded (hx : (s.ctx i).excludedBy s.globals) (hn : reason ≠ .fault) : (s.psnLeaves i p).ctx i
    = { ((s.ctx i).storing s p).arced.struck s.globals.strikeThreshold with
        dropReason := some .fault, withdraw := some ⟨.fault, false⟩
        gap := if (s.ctx i).dropsForGap then GapFields.clear else { (s.ctx i).gap with arcReported := true } } := by
  have hk := (State.psnDropping_arcs hs hr hc ha hq).2
  exact (hk.trans (Context.afterStrike_severe hx (.inr (.inr ⟨hs, fun e => hn (Option.some.inj (hr.symm.trans e))⟩)))).trans
    (Context.faulted_dropping (by exact hs) _)

/-- A strike that leaves the drop as it runs. -/
theorem State.psnDropping_struck (hm : ¬(s.ctx i).excludedBy s.globals ∨ reason = .fault) : (s.psnLeaves i p).ctx i
    = (Context.arced { (s.ctx i).storing s p with withdraw := some ⟨reason, false⟩ }).struck s.globals.strikeThreshold := by
  have hk := (State.psnDropping_arcs hs hr hc ha hq).2
  exact hk.trans (Context.afterStrike_mild (hm.imp id fun e => ⟨hs, by rw [← e]; exact hr⟩))

end
end

section
variable (hc : ¬p.carries s.globals)
include hs hr hc

theorem State.psnDropping_ends (hn : reason ∉ [.gap, .shed, .fault]) : (s.psnLeaves i p).ctx i = ((s.ctx i).storing s p).left .tracked := by
  have hvc := s.stored_ctx i p
  rw [State.psnLeaves_ctx, State.dropping_ends (by rw [hvc]; exact hs) (State.stored_idle hc) (by rw [hvc]; exact hr) hn, hvc]

theorem State.psnDropping_faults (hn : reason = .fault) : (s.psnLeaves i p).ctx i = ((s.ctx i).storing s p).left .faulted := by
  have hvc := s.stored_ctx i p
  subst hn
  rw [State.psnLeaves_ctx, State.dropping_faults (by rw [hvc]; exact hs) (State.stored_idle hc) (by rw [hvc]; exact hr), hvc]

theorem State.psnDropping_crosses (hn : reason = .gap) {g : GapId} (hg : s.resolve p.chainage = .gap g) : ∃ f, (s.psnLeaves i p).ctx i
    = { (s.ctx i).storing s p with
        state := .crossing, hold := none, grantExpiry := none, overdraw := 0, dropReason := none, dropDeadline := none
        gap := { (s.ctx i).gap with feeder := f, crossing := seconds (s.crossingLimit i) } } := by
  have hvc := s.stored_ctx i p
  have hlim : (s.stored i p).crossingLimit i = s.crossingLimit i := by
    unfold State.crossingLimit
    rw [hvc, (Recontexted.stored s i p).gapEntry]
    rfl
  subst hn
  obtain ⟨f, hf⟩ := State.dropping_crosses (v := s.stored i p) (i := i) (by rw [hvc]; exact hs) (State.stored_idle hc) (by rw [hvc]; exact hr)
    (g := g) (by rw [hvc]; exact hg)
  rw [State.psnLeaves_ctx, hf, hvc, hlim]
  exact ⟨f, rfl⟩

section
variable (hn : reason = .shed)
include hn

theorem State.psnDropping_shed (hk : (((s.stored i p).endShedDrop i).ctx i).state = .tracked ∨ (((s.stored i p).endShedDrop i).ctx i).state = .queued
    ∨ (((s.stored i p).endShedDrop i).ctx i).state = .offered) : (s.stored i p).acted i = (s.stored i p).endShedDrop i := by
  have hvc := s.stored_ctx i p
  subst hn
  exact State.dropping_sheds (by rw [hvc]; exact hs) (State.stored_idle hc) (by rw [hvc]; exact hr) hk

theorem State.psnShed_held (hf : (s.ctx i).holdFlag = true) : (s.psnLeaves i p).ctx i = ((s.ctx i).storing s p).left .tracked := by
  have hvc := s.stored_ctx i p
  have hk := State.endShedDrop_held (u := s.stored i p) (i := i) (by rw [hvc]; exact hf)
  rw [State.psnLeaves_ctx, State.psnDropping_shed hs hr hc hn (.inl (by rw [hk]; rfl)), hk, hvc]

section
variable (hf : (s.ctx i).holdFlag = false)
include hf

theorem State.psnShed_refused {truck : Byte} (hi : s.slotOf truck = some i) {k : Refuse} (hk : s.place (s.resolve p.chainage) = .refused k) :
    EndsTracked i (s.ctx i) (s.psnLeaves i p) ∧ IsTold s truck (s.ctx i) (byte k.code) (s.psnLeaves i p) := by
  have hvc := s.stored_ctx i p
  have hpl : (s.stored i p).place ((s.stored i p).ctx i).pos.resolution = .refused k := by rw [State.stored_place, hvc]; exact hk
  have hf : ((s.stored i p).ctx i).holdFlag = false := by rw [hvc]; exact hf
  have hctx := State.endShedDrop_refused_ctx hf hpl
  have htold := State.endShedDrop_told hf hpl
  have hacts := State.psnDropping_shed hs hr hc hn (.inl (by rw [hctx]; rfl))
  rw [State.stored_normalQueue, hvc, show ((s.ctx i).storing s p).truck = some truck from (State.slotOf_spec hi).2] at htold
  unfold EndsTracked
  rw [State.psnLeaves_ctx, hacts, hctx, hvc]
  refine ⟨⟨rfl, rfl, rfl, rfl⟩, fun hq => ?_⟩
  unfold State.psnLeaves
  rw [hacts, (State.reported_rest _ _ _ _).2.2.2.1]
  exact htold hq

include hh in
theorem State.psnShed_waits (hfit : s.contextFits i) {y : SectionId} {f : FeederId} (hk : s.place (s.resolve p.chainage) = .placed y f) :
    ((s.psnLeaves i p).ctx i).req = { (s.ctx i).req with requested := h.amount }
    ∧ WaitsClear i f (s.ctx i).req.level y .ordinary (s.psnLeaves i p) := by
  have hvc := s.stored_ctx i p
  obtain ⟨w, hl⟩ := hfit.place
  have ha := State.endShedDrop_awaits (u := s.stored i p) (i := i) (by rw [hvc]; exact hf) (State.stored_listed hl)
    (by rw [State.stored_place, hvc]; exact hk)
  have ha := State.psnLeaves_awaits (State.psnDropping_shed hs hr hc hn (.inr ha.state)) ha
  rw [hvc] at ha
  refine ⟨ha.req.trans ?_, ha.clear rfl⟩
  show ({ (s.ctx i).req with requested := ((s.ctx i).hold.map (·.amount)).getD 0 } : Request) = _
  rw [hh]
  rfl

end
end
end
end
end

end Sys2Proof.Machine
end

section
/-! PROOFS. Position reports in CROSSING, clause by clause (R93, R97 to R102). -/

namespace Sys2Proof.Machine
open Sys2Proof

/-- The context draws the amount at the place, with the expiry that its crossing carried (R98). -/
def DrawsCarried (i : Slot) (c : Context) (amount : Nat) (f : FeederId) (y : SectionId) (t : State) : Prop :=
  (t.ctx i).state = .drawing ∧ (t.ctx i).hold = some ⟨amount, f, y⟩
  ∧ (t.ctx i).grantExpiry = c.gap.carried.or (some (c.cls.maxHold * 1000)) ∧ (t.ctx i).gap = GapFields.clear ∧ (t.ctx i).overdraw = 0

section
variable {s : State} {i : Slot} {p : Report} (hs : (s.ctx i).state = .crossing)

theorem State.stored_reserved_none (hf : (s.ctx i).gap.feeder = none) : ((s.stored i p).ctx i).gap.reserved = none := by
  have hvf : ((s.ctx i).storing s p).gap.feeder = none := hf
  rw [State.stored_ctx]
  unfold GapFields.reserved
  rw [hvf]

/-- A report that dismisses its truck with a refusal. -/
theorem State.psn_dismissed {truck : Byte} (hi : s.slotOf truck = some i) {k : Refuse} (hd : Dismissed (s.stored i p) i k ((s.stored i p).acted i)) :
    EndsTracked i (s.ctx i) (s.psnLeaves i p) ∧ IsTold s truck (s.ctx i) (byte k.code) (s.psnLeaves i p)
    ∧ ((s.psnLeaves i p).ctx i).req = (s.ctx i).req := by
  obtain ⟨k1, k2⟩ := State.psnLeaves_dismissed rfl hd (s.stored_normalQueue i p)
  rw [s.stored_ctx i p] at k1 k2
  rw [show ((s.ctx i).storing s p).truck = some truck from (State.slotOf_spec hi).2] at k2
  unfold EndsTracked
  rw [k1]
  exact ⟨⟨rfl, rfl, rfl, rfl⟩, k2, rfl⟩

/-- A report that leaves a wait with the request fields of the crossing. -/
theorem State.psn_asks {f : FeederId} {l : Level} {x : SectionId} {k : Mark} {c : Context} (ha : Awaits i f l x k c ((s.stored i p).acted i))
    (hq : c.req = (s.ctx i).asking.req) (hg : c.gap = GapFields.clear) :
    ((s.psnLeaves i p).ctx i).req = (s.ctx i).asking.req ∧ WaitsClear i f l x k (s.psnLeaves i p) := by
  have ha := State.psnLeaves_awaits rfl ha
  exact ⟨ha.req.trans hq, ha.clear hg⟩

section
include hs

/-! ### In the gap -/

section
variable {k : GapId} (hr : s.resolve p.chainage = .gap k)
include hr

theorem State.psnCrossing_quiet (hq : ¬p.carries s.globals ∨ (s.ctx i).gap.arcReported = true ∨ (s.gapEntry k).bridgeable = true) :
    (s.psnLeaves i p).ctx i = (s.ctx i).storing s p := by
  have hvc := s.stored_ctx i p
  rw [State.psnLeaves_ctx, State.crossing_quiet (k := k) (by rw [hvc]; exact hs) (by rw [hvc]; exact hr), hvc]
  rw [hvc, (Recontexted.stored s i p).gapEntry]
  exact hq.imp State.stored_idle id

section
variable (hc : p.carries s.globals) (ha : (s.ctx i).gap.arcReported = false) (hb : (s.gapEntry k).bridgeable = false)
include hc ha hb

theorem State.psnCrossing_arcs : (s.psnLeaves i p).latches.getLsbD 5 = true
    ∧ (s.psnLeaves i p).ctx i = ((s.ctx i).storing s p).arced.afterStrike s.globals := by
  have hvc := s.stored_ctx i p
  have := State.crossing_arcs (v := s.stored i p) (i := i) (k := k) (by rw [hvc]; exact hs) (by rw [hvc]; exact hr) (State.stored_carries.2 hc)
    (by rw [hvc]; exact ha) (by rw [(Recontexted.stored s i p).gapEntry]; exact hb)
  rwa [hvc, (Recontexted.stored s i p).globals, ← State.psnLeaves_ctx, ← State.psnLeaves_latches] at this

theorem State.psnCrossing_excluded (hx : (s.ctx i).excludedBy s.globals) : (s.psnLeaves i p).ctx i
    = { (((s.ctx i).storing s p).arced.struck s.globals.strikeThreshold).left .faulted with withdraw := some ⟨.fault, true⟩ } :=
  ((State.psnCrossing_arcs hs hr hc ha hb).2.trans (Context.afterStrike_severe hx (.inr (.inl hs)))).trans
    (Context.faulted_crossing (by exact hs) _)

theorem State.psnCrossing_struck (hx : ¬(s.ctx i).excludedBy s.globals) : (s.psnLeaves i p).ctx i
    = ((s.ctx i).storing s p).arced.struck s.globals.strikeThreshold :=
  (State.psnCrossing_arcs hs hr hc ha hb).2.trans (Context.afterStrike_mild (.inl hx))

end
end

/-! ### Before the gap, and out of it -/

section
variable {g : GapId} {x : SectionId} (hg : (s.ctx i).gap.gapId = some g) (ht : (s.ctx i).gap.target = some x)
include hg ht

theorem State.psnCrossing_before (hr : s.resolve p.chainage = .sect ((s.gapEntry g).originOf x))
    (hb : (s.gapEntry g).stillBefore x p.heading p.chainage = true) : (s.psnLeaves i p).ctx i = (s.ctx i).storing s p := by
  have hvc := s.stored_ctx i p
  have he := (Recontexted.stored s i p).gapEntry
  rw [State.psnLeaves_ctx, State.crossing_before (v := s.stored i p) (y := (s.gapEntry g).originOf x) (by rw [hvc]; exact hs) (by rw [hvc]; exact hg)
    (by rw [hvc]; exact ht) (by rw [hvc]; exact hr) (by rw [he]) (by rw [hvc, he]; exact hb), hvc]

theorem State.psnCrossing_strays (hx : s.resolve p.chainage ≠ .sect x) (ho : s.resolve p.chainage ≠ .sect ((s.gapEntry g).originOf x))
    (hn : ∀ k, s.resolve p.chainage ≠ .gap k) : (s.psnLeaves i p).ctx i = ((s.ctx i).storing s p).left .tracked := by
  have hvc := s.stored_ctx i p
  have he := (Recontexted.stored s i p).gapEntry
  have hr : ((s.stored i p).ctx i).pos.resolution = s.resolve p.chainage := by rw [hvc]; rfl
  have hends : (s.stored i p).acted i = (s.stored i p).endHolding i .tracked := by
    cases hk : s.resolve p.chainage with
    | gap k => exact absurd hk (hn k)
    | offMap => exact State.crossing_offMap (by rw [hvc]; exact hs) (hr.trans hk)
    | sect y =>
      have hy : y ≠ (s.gapEntry g).originOf x := fun e => ho (by rw [hk, e])
      exact State.crossing_strays (by rw [hvc]; exact hs) (by rw [hvc]; exact hg) (by rw [hvc]; exact ht) (hr.trans hk)
        (.inl (by rw [he]; exact hy)) (fun e => hx (by rw [hk, e])) (by rw [he]; exact hy)
  rw [State.psnLeaves_ctx, hends, State.endHolding_ctx _ _ (by decide) (by decide), hvc]

/-! ### Into the target (R99, R100) -/

section
variable (hr : s.resolve p.chainage = .sect x) (hxo : x ≠ (s.gapEntry g).originOf x)
include hr hxo

theorem State.psnCrossing_arrives : (s.stored i p).acted i = (s.stored i p).exitTarget i x := by
  have hvc := s.stored_ctx i p
  exact State.crossing_arrives (by rw [hvc]; exact hs) (by rw [hvc]; exact hg) (by rw [hvc]; exact ht) (by rw [hvc]; exact hr)
    (.inl (by rw [(Recontexted.stored s i p).gapEntry]; exact hxo)) rfl

section
variable {f : FeederId} (hf : (s.ctx i).gap.feeder = some f)
include hf

omit hs hg hr hxo in
theorem State.stored_reserved : ((s.stored i p).ctx i).gap.reserved = some ⟨(s.ctx i).gap.amount, f, x⟩ := by
  have h1 : ((s.ctx i).storing s p).gap.feeder = some f := hf
  have h2 : ((s.ctx i).storing s p).gap.target = some x := ht
  rw [State.stored_ctx]
  unfold GapFields.reserved
  rw [h1, h2]
  rfl

theorem State.psnReserved_exits : (s.stored i p).acted i = (s.stored i p).exitReserved i ⟨(s.ctx i).gap.amount, f, x⟩ :=
  (State.psnCrossing_arrives hs hg ht hr hxo).trans (State.exitTarget_reserved (State.stored_reserved ht hf) x)

/-- A reservation of an energised target turns into a grant, and moves no budget. -/
theorem State.psnReserved_granted (hn : s.swap = .none) (hfit : s.contextFits i) (he : (s.sec x).state = .energised) :
    DrawsCarried i (s.ctx i) (s.ctx i).gap.amount f x (s.psnLeaves i p) ∧ ((s.psnLeaves i p).ctx i).levelAtGrant = (s.ctx i).levelAtGrant
    ∧ ((s.psnLeaves i p).fdr f).committed = (s.fdr f).committed ∧ (s.psnLeaves i p).load x = s.load x := by
  have hvc := s.stored_ctx i p
  have hv := Recontexted.stored s i p
  have hact := (State.psnReserved_exits hs hg ht hr hxo hf).trans
    (State.exitReserved_grants (hv.swap.trans hn) (by rw [hv.sec]; exact he))
  obtain ⟨b1, b2⟩ := State.exitGranted_budgets (State.stored_reserved (p := p) ht hf) (hfit.hold_of_crossing_stored hs) f x
  obtain ⟨-, hfd, hlo, -⟩ := State.reported_rest ((s.stored i p).acted i) i p (s.resolve p.chainage)
  have hk := State.exitGranted_ctx (v := s.stored i p) (i := i) ⟨(s.ctx i).gap.amount, f, x⟩
  have hfd : (s.psnLeaves i p).fdr f = ((s.stored i p).acted i).fdr f := congrArg (fun v => v[f]) hfd
  have hlo : (s.psnLeaves i p).load x = ((s.stored i p).acted i).load x := congrArg (fun v => v[x]) hlo
  rw [Context.crossedExpiry_eq, hvc] at hk
  rw [hv.fdr] at b1
  rw [hv.load] at b2
  unfold DrawsCarried
  rw [hfd, hlo, State.psnLeaves_ctx, hact, hk]
  exact ⟨⟨rfl, rfl, rfl, rfl, rfl⟩, rfl, b1, b2⟩

section
variable (he : (s.sec x).state ≠ .energised)
include he

theorem State.psnReserved_held (hh : (s.ctx i).holdFlag = true) : Dismissed (s.stored i p) i .held ((s.stored i p).acted i) := by
  have hd := State.exitReserved_held (v := s.stored i p) (i := i) (r := ⟨(s.ctx i).gap.amount, f, x⟩)
    (by rw [(Recontexted.stored s i p).sec]; exact he) (by rw [s.stored_ctx i p]; exact hh)
  rwa [← State.psnReserved_exits hs hg ht hr hxo hf] at hd

theorem State.psnReserved_waits (hfit : s.contextFits i) (hh : (s.ctx i).holdFlag = false) :
    ((s.psnLeaves i p).ctx i).req = (s.ctx i).asking.req ∧ WaitsClear i f (s.ctx i).grantLevel x .carryOver (s.psnLeaves i p) := by
  have hvc := s.stored_ctx i p
  obtain ⟨w, hl⟩ := hfit.place
  have ha := State.exitReserved_awaits (v := s.stored i p) (i := i) (r := ⟨(s.ctx i).gap.amount, f, x⟩)
    (by rw [(Recontexted.stored s i p).sec]; exact he) (by rw [hvc]; exact hh) (State.stored_listed hl)
  rw [← State.psnReserved_exits hs hg ht hr hxo hf, hvc] at ha
  exact State.psn_asks ha rfl rfl

end
end

section
variable (hf : (s.ctx i).gap.feeder = none)
include hf

section
variable {m : Membership} (hm : s.memberOf i = some m)
include hm

theorem State.psnListed_exits : (s.stored i p).acted i = (s.stored i p).exitEntry i m :=
  (State.psnCrossing_arrives hs hg ht hr hxo).trans
    (State.exitTarget_listed (State.stored_reserved_none hf) ((s.stored_memberOf i p).trans hm) x)

theorem State.psnListed_held (hh : (s.ctx i).holdFlag = true) : Dismissed (s.stored i p) i .held ((s.stored i p).acted i) := by
  have hd := State.exitEntry_held (v := s.stored i p) (i := i) (m := m) (by rw [s.stored_ctx i p]; exact hh)
  rwa [← State.psnListed_exits hs hg ht hr hxo hf hm] at hd

theorem State.psnListed_waits (hfit : s.contextFits i) (hh : (s.ctx i).holdFlag = false) :
    ((s.psnLeaves i p).ctx i).req = (s.ctx i).asking.req ∧ WaitsClear i m.feeder m.level m.entry.sect m.entry.mark (s.psnLeaves i p) := by
  have hvc := s.stored_ctx i p
  obtain ⟨w, hl⟩ := hfit.place
  have ha := State.exitEntry_awaits (v := s.stored i p) ((s.stored_memberOf i p).trans hm) (by rw [hvc]; exact hh) (State.stored_listed hl)
  rw [← State.psnListed_exits hs hg ht hr hxo hf hm, hvc] at ha
  exact State.psn_asks ha rfl rfl

end

section
variable (hm : s.memberOf i = none)
include hm

theorem State.psnBare_exits : (s.stored i p).acted i = (s.stored i p).exitEmpty i x :=
  (State.psnCrossing_arrives hs hg ht hr hxo).trans
    (State.exitTarget_bare (State.stored_reserved_none hf) ((s.stored_memberOf i p).trans hm) x)

theorem State.psnBare_refused {k : Refuse} (hk : s.place (.sect x) = .refused k) : Dismissed (s.stored i p) i k ((s.stored i p).acted i) := by
  have hd := State.exitEmpty_refused (v := s.stored i p) (i := i) ((s.stored_place i p _).trans hk)
  rwa [← State.psnBare_exits hs hg ht hr hxo hf hm] at hd

section
variable {f : FeederId} (hk : s.place (.sect x) = .placed x f)
include hk

theorem State.psnBare_held (hh : (s.ctx i).holdFlag = true) : Dismissed (s.stored i p) i .held ((s.stored i p).acted i) := by
  have hd := State.exitEmpty_held (v := s.stored i p) (i := i) ((s.stored_place i p _).trans hk) (by rw [s.stored_ctx i p]; exact hh)
  rwa [← State.psnBare_exits hs hg ht hr hxo hf hm] at hd

theorem State.psnBare_waits (hfit : s.contextFits i) (hh : (s.ctx i).holdFlag = false) :
    ((s.psnLeaves i p).ctx i).req = (s.ctx i).asking.req ∧ WaitsClear i f (s.ctx i).grantLevel x .carryOver (s.psnLeaves i p) := by
  have hvc := s.stored_ctx i p
  obtain ⟨w, hl⟩ := hfit.place
  have ha := State.exitEmpty_awaits (v := s.stored i p) (i := i) ((s.stored_place i p _).trans hk) (by rw [hvc]; exact hh) (State.stored_listed hl)
  rw [← State.psnBare_exits hs hg ht hr hxo hf hm, hvc] at ha
  exact State.psn_asks ha rfl rfl

end
end
end
end

/-! ### Back into the origin (R101) -/

section
variable {o : SectionId} (ho : o = (s.gapEntry g).originOf x) (hr : s.resolve p.chainage = .sect o)
  (hb : (s.gapEntry g).stillBefore x p.heading p.chainage = false) (hxo : x ≠ o)
include ho hr hb hxo

theorem State.psnCrossing_returns : (s.stored i p).acted i = ((s.stored i p).returned i).decideOrigin i o := by
  have hvc := s.stored_ctx i p
  have he := (Recontexted.stored s i p).gapEntry
  exact (State.crossing_returns (by rw [hvc]; exact hs) (by rw [hvc]; exact hg) (by rw [hvc]; exact ht) (by rw [hvc]; exact hr)
    (.inr (by rw [hvc, he]; exact hb)) (Ne.symm hxo) (by rw [he]; exact ho)).trans (State.reversal_eq o)

variable (hfit : s.contextFits i)

omit hs hg ht ho hr hb hxo in
include hfit in
theorem State.stored_returned : ((s.stored i p).returned i).Listed i none
    ∧ ((s.stored i p).returned i).ctx i = ((s.ctx i).storing s p).returning := by
  obtain ⟨w, hl⟩ := hfit.place
  have := State.returned_listed (State.stored_listed (p := p) hl)
  rwa [s.stored_ctx i p] at this

omit hs hg ht ho hr hb hxo in
theorem State.stored_returned_place (r : Resolution) : ((s.stored i p).returned i).place r = s.place r := by
  rw [State.returned_place, State.stored_place]

include hfit

theorem State.psnReturns_refused {k : Refuse} (hk : s.place (.sect o) = .refused k) : EndsTracked i (s.ctx i) (s.psnLeaves i p) := by
  have hd := State.decideOrigin_refused (i := i) ((State.stored_returned_place (i := i) (p := p) (.sect o)).trans hk)
  unfold EndsTracked
  rw [State.psnLeaves_ctx, State.psnCrossing_returns hs hg ht ho hr hb hxo, hd.1, (State.stored_returned hfit).2]
  exact ⟨rfl, rfl, rfl, rfl⟩

variable {f : FeederId} (hk : s.place (.sect o) = .placed o f)
include hk

theorem State.psnReturns_leaves : ((s.psnLeaves i p).ctx i).gap = GapFields.clear
    ∧ ((s.psnLeaves i p).ctx i).state ∈ [CtxState.tracked, .queued, .offered, .drawing] := by
  rw [State.psnLeaves_ctx, State.psnCrossing_returns hs hg ht ho hr hb hxo]
  exact State.decideOrigin_leaves (State.stored_returned hfit).1 ((State.stored_returned_place _).trans hk)

section
variable (hf : (s.ctx i).gap.feeder = none) (hm : s.memberOf i = none)
include hf hm

/-- What the origin side has for a crossing that returns (R101). -/
def State.returnAmount (s : State) (i : Slot) (f : FeederId) (o : SectionId) : Nat :=
  min (min (s.ctx i).gap.amount ((s.fdr f).config.capacity - (s.fdr f).config.reserve - (s.fdr f).committed)) (min (s.sectionRoom o) (s.ctx i).cls.cap)

/-- When it is granted at once. -/
def State.returnsDirect (s : State) (i : Slot) (f : FeederId) (o : SectionId) : Prop :=
  (s.fdr f).wait1 = [] ∧ (s.fdr f).wait2 = [] ∧ (s.sec o).state = .energised ∧ (s.fdr f).state = .online
  ∧ min (s.ctx i).req.minimum (s.ctx i).gap.amount ≤ s.returnAmount i f o ∧ 0 < s.returnAmount i f o

omit hs hg ht ho hr hb hxo hk in
theorem State.stored_returned_candidate : ((s.stored i p).returned i).candidate i f o = s.returnAmount i f o := by
  have hvc := s.stored_ctx i p
  have hv := Recontexted.stored s i p
  obtain ⟨w, hl⟩ := hfit.place
  rw [State.returned_candidate (by rw [hvc]; exact hf) ((s.stored_memberOf i p).trans hm) (State.stored_listed hl), State.sectionRoom_eq,
    hv.fdr, hv.entry, hv.load, hvc, ← State.sectionRoom_eq]
  rfl

omit hs hg ht ho hr hb hxo hk in
theorem State.stored_returned_direct (hn : s.swap = .none) : ((s.stored i p).returned i).grantsDirect i f o = true ↔ s.returnsDirect i f o := by
  have hvc := s.stored_ctx i p
  have hv := Recontexted.stored s i p
  obtain ⟨w, hl⟩ := hfit.place
  rw [State.returned_direct (by rw [hvc]; exact hf) ((s.stored_memberOf i p).trans hm) (State.stored_listed hl) (hv.swap.trans hn),
    State.stored_returned_candidate hfit hf hm, hv.fdr, hv.sec, hvc]
  exact Iff.rfl

theorem State.psnReturns_granted (hn : s.swap = .none) (hd : s.returnsDirect i f o) :
    DrawsCarried i (s.ctx i) (s.returnAmount i f o) f o (s.psnLeaves i p) ∧ ((s.psnLeaves i p).ctx i).req = (s.ctx i).asking.req := by
  obtain ⟨-, hc⟩ := State.stored_returned (p := p) hfit
  have hact := (State.psnCrossing_returns hs hg ht ho hr hb hxo).trans (State.decideOrigin_grants ((State.stored_returned_place _).trans hk)
    ((State.stored_returned_direct hfit hf hm hn).2 hd))
  have hkc := State.reverseGranted_ctx ((s.stored i p).returned i) i f o
  rw [State.setGap_candidate (by rw [hc]; rfl), State.stored_returned_candidate hfit hf hm, Context.crossedExpiry_eq, hc] at hkc
  unfold DrawsCarried
  rw [State.psnLeaves_ctx, hact, hkc]
  exact ⟨⟨rfl, rfl, rfl, rfl, rfl⟩, rfl⟩

section
variable (hn : s.swap = .none) (hd : ¬s.returnsDirect i f o)
include hn hd

omit hs hg ht ho hr hb hxo hk in
theorem State.stored_returned_indirect : ((s.stored i p).returned i).grantsDirect i f o = false := by
  rw [← Bool.not_eq_true]
  exact fun e => hd ((State.stored_returned_direct hfit hf hm hn).1 e)

theorem State.psnReturns_held {truck : Byte} (hi : s.slotOf truck = some i) (hh : (s.ctx i).holdFlag = true) :
    EndsTracked i (s.ctx i) (s.psnLeaves i p) ∧ IsTold s truck (s.ctx i) (byte Refuse.held.code) (s.psnLeaves i p) := by
  have hvc := s.stored_ctx i p
  obtain ⟨-, hc⟩ := State.stored_returned (p := p) hfit
  have hdis := State.decideOrigin_held (v := (s.stored i p).returned i) ((State.stored_returned_place _).trans hk)
    (State.stored_returned_indirect hfit hf hm hn hd) (by rw [hc]; exact hh)
  obtain ⟨k1, k2⟩ := State.psnLeaves_dismissed (State.psnCrossing_returns hs hg ht ho hr hb hxo) hdis
    ((State.returned_budgets (by rw [hvc]; exact hf) ((s.stored_memberOf i p).trans hm) f o).2.2.2.2.trans (s.stored_normalQueue i p))
  rw [hc] at k1 k2
  rw [show ((s.ctx i).storing s p).returning.truck = some truck from (State.slotOf_spec hi).2] at k2
  unfold EndsTracked
  rw [k1]
  exact ⟨⟨rfl, rfl, rfl, rfl⟩, k2⟩

theorem State.psnReturns_waits (hh : (s.ctx i).holdFlag = false) :
    ((s.psnLeaves i p).ctx i).req = (s.ctx i).asking.req ∧ WaitsClear i f (s.ctx i).grantLevel o .carryOver (s.psnLeaves i p) := by
  obtain ⟨hl, hc⟩ := State.stored_returned (p := p) hfit
  have ha := State.decideOrigin_awaits (v := (s.stored i p).returned i) ((State.stored_returned_place _).trans hk)
    (State.stored_returned_indirect hfit hf hm hn hd) (by rw [hc]; exact hh) hl
  have hlev : (((s.ctx i).storing s p).returning).grantLevel = (s.ctx i).grantLevel := Context.asking_level _
  rw [← State.psnCrossing_returns hs hg ht ho hr hb hxo, hc, hlev] at ha
  exact State.psn_asks ha rfl rfl

end
end
end
end
end
end

end Sys2Proof.Machine
end

section
/-! PROOFS. What position reports move, drop and carry over. -/

open Sys2Proof Sys2Proof.Machine

/-- Settles O50, by the state of the context and the place that its report resolves to. -/
theorem reportsMoveGrants : Obligations.ReportsMoveGrants := by
  unfold Obligations.ReportsMoveGrants
  intro truck tag chainage heading pantograph loaded drawn s i hp hw h1 h2 hi hn run c n r near stored leaving carries strikes excluded
    space refusal ends told waits
  let q : Report := { tag := tag, chainage := n, heading := heading, pantograph := pantograph, loaded := loaded, drawn := drawn.toNat }
  have he : run = .next (s.goodW.dispatchPsn truck q) := exec_psn hp hw h1 h2 tag chainage heading pantograph loaded drawn
  have hruns : (¬leaving ∨ c.state = .drawing) → run = .next (s.psnLeaves i q) := fun h =>
    he.trans (congrArg _ (State.dispatchPsn_psnLeaves hi hn h))
  refine ⟨fun hst h hh => ?_, fun hst hl h hh reason hr => ?_, fun hst hl hf g x hg hx => ?_⟩
  · intro drops
    rw [hruns (.inr hst)]
    refine ⟨fun hd => ?_, fun hd hr ha => ⟨fun ho => ⟨_, rfl, State.psnOverdraw_counts (p := q) hst hh hd hr ha ho⟩, fun ho hc => ⟨_, rfl, ?_⟩⟩⟩
    · intro moves
      have hmv : ∀ x, s.movesTo i h x ↔ moves x := fun x => by
        unfold State.movesTo
        rw [State.sectionRoom_eq]
      refine ⟨fun hr ha => ⟨_, rfl, State.psnDrawing_stands (p := q) hst hh hd hr ha⟩, fun hr => ⟨_, rfl, State.psnDrawing_offMap (p := q) hst hh hd hr⟩,
        fun x hr hx hm => ⟨_, rfl, State.psnDrawing_leaves (p := q) hst hh hd hr hx fun e => hm ((hmv x).1 e)⟩, fun x hr hx hm ha => ⟨_, rfl, ?_⟩,
        fun g hr ha => ⟨_, rfl, ?_⟩, fun g hr hb => ⟨_, rfl, State.psnDrawing_bridged (p := q) hst hh hd hr hb⟩,
        fun g hr hb => ⟨_, rfl, State.psnDrawing_jumps (p := q) hst hh hd hr hb⟩⟩
      · rw [State.psnDrawing_moves (p := q) hst hh hd hr hx ((hmv x).2 hm) ha, State.sectionRoom_eq]
        exact ⟨hst, rfl, rfl⟩
      · obtain ⟨hdrop, f, hf⟩ := State.psnDrawing_approaches (p := q) hst hh hd hr ha
        rw [hf]
        exact ⟨hdrop, rfl, rfl, rfl, rfl⟩
    · by_cases hx : excluded
      · obtain ⟨hlat, hcount, hover, hdrop⟩ := State.psnOverdraw_excludes (p := q) hst hh hd hr ho hc hx
        exact ⟨hlat, hcount, hover, fun _ => hdrop, fun h => absurd hx h⟩
      · obtain ⟨hlat, hk⟩ := State.psnOverdraw_strikes (p := q) hst hh hd hr ho ha hx
        rw [hk]
        exact ⟨hlat, rfl, rfl, fun h => absurd h hx, fun _ => ⟨hst, hh, rfl⟩⟩
  · rw [hruns (.inl hl)]
    intro risky
    refine ⟨fun hc hq => ⟨_, rfl, State.psnDropping_quiet (p := q) hst hr hc hq⟩, fun hc ha hq => ⟨_, rfl, ?_⟩, fun hc hk => ⟨_, rfl, ?_⟩,
      fun hc hk => ⟨_, rfl, ?_⟩, fun hc hk ⟨g, hg⟩ => ⟨_, rfl, ?_⟩, fun hc hk hf => ⟨fun hb => ⟨_, rfl, ?_⟩, fun hb code hcode => ⟨_, rfl, ?_⟩,
        fun hb hno y f hy hyf => ⟨_, rfl, ?_⟩⟩⟩
    · have hlat := (State.psnDropping_arcs (p := q) hst hr hc ha hq).1
      by_cases hx : excluded ∧ reason ≠ .fault
      · rw [State.psnDropping_excluded (p := q) hst hr hc ha hq hx.1 hx.2]
        refine ⟨hlat, rfl, hst, hh, rfl, fun h => (h.elim (· hx.1) hx.2).elim, fun _ => ⟨rfl, rfl, fun hg => if_pos ?_⟩⟩
        have hr : (s.ctx i).dropReason = some .gap := by rw [hr, hg]
        unfold Context.dropsForGap
        rw [hst, hr]
        rfl
      · have hm : ¬excluded ∨ reason = .fault := (not_and_or.1 hx).imp id not_not.1
        rw [State.psnDropping_struck (p := q) hst hr hc ha hq hm]
        refine ⟨hlat, rfl, hst, hh, rfl, fun _ => ⟨hr, rfl, rfl⟩, fun h => ?_⟩
        obtain rfl := hm.resolve_left fun e => e h
        exact ⟨hr, rfl, nofun⟩
    · dsimp only [ends]
      rw [State.psnDropping_ends (p := q) hst hr hc hk]
      exact ⟨⟨rfl, rfl, rfl, rfl⟩, rfl⟩
    · rw [State.psnDropping_faults (p := q) hst hr hc hk]
      exact ⟨rfl, rfl, rfl, rfl⟩
    · obtain ⟨f, hf⟩ := State.psnDropping_crosses (p := q) hst hr hc hk hg
      rw [hf]
      refine ⟨rfl, rfl, rfl, rfl, rfl, rfl, rfl, rfl, fun k hgap => ?_⟩
      unfold State.crossingLimit
      rw [hgap]
      rfl
    · dsimp only [ends]
      rw [State.psnShed_held (p := q) hst hr hc hk hb]
      exact ⟨rfl, rfl, rfl, rfl⟩
    · obtain ⟨k, hpl, rfl⟩ := State.place_refused (s := s) (r := r) hcode
      exact State.psnShed_refused (p := q) hst hr hc hk hb hi hpl
    · have hno : s.refusalOf (.sect y) = none := by rw [← hy]; exact hno
      have hpl : s.place r = .placed y f := by rw [hy]; exact State.place_placed hno hyf
      exact State.psnShed_waits (p := q) hst hh hr hc hk hb hf hpl
  · rw [hruns (.inl hl)]
    intro e origin before level asked expiry granted
    have horig : origin = e.originOf x := (GapEntry.originOf_eq _ _).symm
    have hbef : e.stillBefore x heading n = true ↔ before := GapEntry.stillBefore_iff _ _ _ _
    refine ⟨fun k hr hq => ⟨_, rfl, State.psnCrossing_quiet (p := q) hst hr hq⟩, fun k hr hc ha hb => ⟨_, rfl, ?_⟩,
      fun hr hb => ⟨_, rfl, State.psnCrossing_before (p := q) hst hg hx (horig ▸ hr) (hbef.2 hb)⟩, fun hr hxo => ?_, fun hr hb hxo => ?_,
      fun hrx hro hrg => ⟨_, rfl, ?_⟩⟩
    · have hlat := (State.psnCrossing_arcs (p := q) hst hr hc ha hb).1
      by_cases hx : excluded
      · rw [State.psnCrossing_excluded (p := q) hst hr hc ha hb hx]
        exact ⟨hlat, rfl, fun _ => ⟨rfl, rfl, rfl⟩, fun h => absurd hx h⟩
      · rw [State.psnCrossing_struck (p := q) hst hr hc ha hb hx]
        exact ⟨hlat, rfl, fun h => absurd h hx, fun _ => ⟨hst, rfl⟩⟩
    · have hxo : x ≠ e.originOf x := horig ▸ hxo
      have href : ∀ {code}, refusal = code → s.refusalOf (.sect x) = code := fun h => by rw [← hr]; exact h
      refine ⟨fun f hcf => ⟨fun hen => ⟨_, rfl, State.psnReserved_granted (p := q) hst hg hx hr hxo hcf hn hf hen⟩,
        fun hne hb => ⟨_, rfl, State.psn_dismissed hi (State.psnReserved_held (p := q) hst hg hx hr hxo hcf hne hb)⟩,
        fun hne hb => ⟨_, rfl, State.psnReserved_waits (p := q) hst hg hx hr hxo hcf hne hf hb⟩⟩, fun m hm hcf hmx => ⟨fun hb => ⟨_, rfl, ?_⟩,
        fun hb => ⟨_, rfl, ?_⟩⟩, fun hcf hm => ⟨fun code hcode => ⟨_, rfl, ?_⟩, fun hno hb => ⟨_, rfl, ?_⟩, fun hno hb f hyf => ⟨_, rfl, ?_⟩⟩⟩
      · obtain ⟨hend, htold, -⟩ := State.psn_dismissed hi (State.psnListed_held (p := q) hst hg hx hr hxo hcf hm hb)
        exact ⟨hend, htold⟩
      · have hwait := State.psnListed_waits (p := q) hst hg hx hr hxo hcf hm hf hb
        rw [hmx] at hwait
        exact hwait
      · obtain ⟨k, hpl, rfl⟩ := State.place_refused (href hcode)
        obtain ⟨hend, htold, -⟩ := State.psn_dismissed hi (State.psnBare_refused (p := q) hst hg hx hr hxo hcf hm hpl)
        exact ⟨hend, htold⟩
      · obtain ⟨f, hpl⟩ := State.place_unrefused (href hno)
        obtain ⟨hend, htold, -⟩ := State.psn_dismissed hi (State.psnBare_held (p := q) hst hg hx hr hxo hcf hm hpl hb)
        exact ⟨hend, htold⟩
      · exact State.psnBare_waits (p := q) hst hg hx hr hxo hcf hm (State.place_placed (href hno) hyf) hf hb
    · have hb : e.stillBefore x heading n = false := by
        rw [← Bool.not_eq_true]
        exact fun h => hb (hbef.1 h)
      have href : ∀ {code}, refusal = code → s.refusalOf (.sect origin) = code := fun h => by rw [← hr]; exact h
      refine ⟨fun code hcode => ⟨_, rfl, ?_⟩, fun hcf hm hno f hyf => ?_, fun hno => ⟨_, rfl, ?_⟩⟩
      · obtain ⟨k, hpl, -⟩ := State.place_refused (href hcode)
        exact State.psnReturns_refused (p := q) hst hg hx horig hr hb hxo hf hpl
      · have hpl := State.place_placed (href hno) hyf
        intro d amount direct
        have ham : s.returnAmount i f origin = amount := by
          unfold State.returnAmount
          rw [State.sectionRoom_eq]
        have hdir : s.returnsDirect i f origin ↔ direct := by
          unfold State.returnsDirect
          rw [ham]
        refine ⟨fun hd => ⟨_, rfl, ?_⟩, fun hd hh => ⟨_, rfl, ?_⟩, fun hd hh => ⟨_, rfl, ?_⟩⟩
        · have hk := State.psnReturns_granted (p := q) hst hg hx horig hr hb hxo hf hpl hcf hm hn (hdir.2 hd)
          rw [ham] at hk
          exact hk
        · exact State.psnReturns_held (p := q) hst hg hx horig hr hb hxo hf hpl hcf hm hn (fun h => hd (hdir.1 h)) hi hh
        · exact State.psnReturns_waits (p := q) hst hg hx horig hr hb hxo hf hpl hcf hm hn (fun h => hd (hdir.1 h)) hh
      · obtain ⟨f, hpl⟩ := State.place_unrefused (href hno)
        exact State.psnReturns_leaves (p := q) hst hg hx horig hr hb hxo hf hpl
    · dsimp only [ends]
      rw [State.psnCrossing_strays (p := q) hst hg hx hrx (horig ▸ hro) hrg]
      exact ⟨⟨rfl, rfl, rfl, rfl⟩, rfl⟩

end
